-- ==== Sys2Proof/Word.lean ====
section
/-! DEFINITION. The word types of the model and its sparse maps.

Bit vectors stand for what the manual reads as bits (register words, cells, lines, addresses in flight); counts,
indices and identifiers (R10) are natural numbers. A `SMap` is the sparse form of the manual's large arrays (30,720
arrays, 49,152 flows, 2,097,152 tickets, ...): keys strictly rising, no entry equal to what an unlisted key reads as. -/
namespace Sys2Proof

abbrev Byte := BitVec 8
abbrev W16 := BitVec 16
abbrev Word := BitVec 32
abbrev W64 := BitVec 64
/-- A 64-byte line of a stall store, or one cart flit (R102, R137). Byte i is bits 8i+7..8i (little-endian, R8). -/
abbrev Line := BitVec 512
/-- One row of a plane: column c is bit c (R21). -/
abbrev CellRow := BitVec 544
/-- A SHA3-256 digest; byte i is bits 8i+7..8i. -/
abbrev Digest := BitVec 256

abbrev SMap (α : Type) := List (Nat × α)

end Sys2Proof
end

