-- ==== Sys2Proof/Syntax.lean ====
section
/-! DEFINITION. The commands of the block: one constructor of `Instr` for each row of spec/opcode_table.json, in the
table's order, with the row's operands. What the outside world, the analogue world or an algorithm that the manual names
but does not define decides (a measured margin, a received frame, a signature verdict) is an operand. -/
namespace Sys2Proof

/-! ### Registers and rings -/

/-- The fourteen event registers, in the bit order of CH_IRQ_SUMMARY (R419). -/
inductive EvId where
  | cv | cvDp | cvQuant | chNet | bl | blStep | pt | ep | st | tg | chFault | wb | sc | chHost
  deriving DecidableEq, Repr

/-- One hardware event: the bit in its register, the index that the register's _LAST field names (R402), and the
remaining bits of _LAST (stack, flow, sub-port). -/
structure EvHit where
  bit : Nat
  idx : Nat
  aux : Nat
  deriving DecidableEq, Repr

/-- A 64-byte command entry as the device reads it (R407): the ring it came from, opcode (bytes 0-1), cid (2-3),
flags (4), bytes 5-7, and bytes 8-63 as one little-endian number. `wrOk` is false when the DMA write of its result or
completion ends in error (R411). -/
structure Cmd where
  ring : Nat
  opcode : Nat
  cid : W16
  flags : Byte
  rsv : BitVec 24
  params : BitVec 448
  wrOk : Bool
  deriving DecidableEq, Repr

/-- Where a ring's DMA error falls (R411). -/
inductive DmaErr where
  | entryRead | resultWrite
  deriving DecidableEq, Repr

/-! ### Ethernet frames -/

/-- A received Bengoif frame: sub-port n.m, source address and MAC verdicts, the header fields of R242, payload and
end-to-end CRC (R244). `ce` is the ECN CE mark (R253). `src` is the sender's IP address. -/
structure Rx where
  port : Nat
  sub : Nat
  src : Nat
  typ : Nat
  cls : Nat
  cart : Nat
  flags : Byte
  handle : Word
  psn : Nat
  ack : Nat
  alive : Nat
  step : Nat
  aux : W64
  payload : List Byte
  crc : Word
  ce : Bool
  /-- class octet bits 7-6, reserved: covered by the CRC and otherwise ignored (R9) -/
  resv : Nat := 0
  deriving DecidableEq, Repr

/-- What surrounds the Bengoif header of a frame that is sent (R233, R241, R244, R260): the 802.1Q tag as (priority, VLAN id), the
source MAC, IP version, addresses, DSCP and ECN, UDP ports and checksum, the end-to-end CRC and the MAC that sends it. -/
structure Wire where
  vlan : Option (Nat × Nat) := none
  mac : BitVec 48 := 0
  v6 : Bool := false
  src : BitVec 128 := 0
  dst : BitVec 128 := 0
  dscp : Nat := 0
  ecn : Nat := 2
  udpSrc : Nat := 49152
  udpDst : Nat := 47312
  udpSum : Nat := 0
  crc : Word := 0
  express : Bool := false
  deriving DecidableEq, Repr

/-- A frame the device sends, or hands to retransmission: sub-port, flow, header fields (R242), payload, and what surrounds them once it
goes out. -/
structure Tx where
  port : Nat
  sub : Nat
  typ : Nat
  cls : Nat
  cart : Nat
  flags : Byte
  handle : Word
  psn : Nat
  ack : Nat
  alive : Nat
  step : Nat
  aux : W64
  payload : List Byte
  flow : Option Nat := none
  wire : Wire := {}
  deriving DecidableEq, Repr

/-- Why a received frame does not conform (R234, R239, R240, R243), by the counter it goes to. -/
inductive DropWhy where
  | wrongMac | badFcs | ipOptions | fragment | notUdp | wrongPort | badUdpChecksum | badType
  | notAllowed | wrongClass | notUp
  deriving DecidableEq, Repr

/-! ### Carts and notes -/

/-- A cart: header fields of R137 and its data flits. -/
structure Cart where
  dest : Nat
  src : Nat
  typ : Nat
  queue : Nat
  route : Nat
  mode : Nat
  vc : Nat
  linkValid : Bool := false
  link : Nat := 0
  members : BitVec 48
  slot : Nat
  step : Nat
  seq : Nat
  addr : Nat
  flits : List Line
  deriving DecidableEq, Repr

/-- What the links did to a cart or note on its way (R156). -/
inductive FlitErr where
  | clean | corrected | doubleData | doubleHeader
  deriving DecidableEq, Repr

/-- A note's first flit (R148): endpoints, type and body. -/
structure Note where
  dest : Nat
  src : Nat
  typ : Nat
  len : Nat
  body : BitVec 34
  extra : List W64
  deriving DecidableEq, Repr

/-- A note that reaches its end, and what the links did to it (R156). -/
structure NoteRx where
  note : Note
  e : FlitErr := .clean
  deriving DecidableEq, Repr

/-! ### The plan (R198-R207), as the device decodes the sections of the staged image -/

/-- One PARTITION entry (R204). -/
structure PartEntry where
  num : Nat
  kind : Nat
  domain : Nat
  stage : Nat
  tsr : Nat
  role : Nat
  stalls : List Nat
  deriving DecidableEq, Repr

/-- One chunk-map entry (R205). -/
structure ChunkEntry where
  crate : Nat
  chunk : Nat
  param : Nat
  array : Nat
  plane : Nat
  planes : Nat
  format : Nat
  part : Nat
  deriving DecidableEq, Repr

/-- One vector-unit operation of a kernel (4.5-4.8). Line operands are offsets added to the word's a (source), b
(second source) and c (destination) lines; the manual gives kernels no encoding (log 6). -/
inductive VOp where
  | sum (src n dst : Nat)
  | dot (x y n dst : Nat)
  | maxOf (src n dst : Nat)
  | minOf (src n dst : Nat)
  | add (x y n dst : Nat)
  | mul (x y n dst : Nat)
  | fma (x y z n dst : Nat)
  | lut (fn : Nat) (src n dst : Nat)
  | toBf16 (src n dst : Nat)
  | rmsNorm (src gamma n dst : Nat) (invN eps : Word)
  | layerNorm (src gamma beta n dst : Nat) (invN eps : Word)
  /-- `tab`: address in HBM of the rotary table; its row of a position holds the n / 2 pairs (c, s) -/
  | rotary (src tab n dst : Nat)
  /-- attention over positions 0 to the slot's, all in the stall store; or its fold over one chunk of 128 positions into the state at
  dst, and the output of a state -/
  | attention (q k v dh window : Nat) (a : Word) (dst : Nat)
  | attFold (q k v chunk dh window : Nat) (a : Word) (dst : Nat)
  | attOut (src dh dst : Nat)
  /-- A, B and alpha of the slot's adapter, with room for rank kMax -/
  | adapter (blk rows brows alpha kMax dIn dOut dst : Nat)
  /-- phases of R101, over lists of (value, index) pairs in 32 lines: a stall's share of the vocabulary from index base; n pairs of
  lists that lie together merged, to a list or to the one choice; the choice among the candidates -/
  | sampleLocal (src n base dst : Nat)
  | sampleMerge (src n : Nat) (choice : Bool) (dst : Nat)
  | sampleChoose (src n base cand dst : Nat)
  /-- R339: the e selected pairs (gate weight, expert) in ascending expert index, and the fold of gate x result, each expert's n results at
  outs + expert x their lines -/
  | experts (src n e dst : Nat)
  | expertFold (list outs n e dst : Nat)
  deriving DecidableEq, Repr

structure KernelEntry where
  stall : Nat
  idx : Nat
  ops : List VOp
  deriving DecidableEq, Repr

/-- A stall's script, and its cover entry (R381). -/
structure StallScript where
  stall : Nat
  words : List W64
  cover : Option (Nat × List W64)
  deriving DecidableEq, Repr

/-- A SEND of the expert map (R339): on this route of a stall it goes out only where the selection of e pairs at the line has the expert. -/
structure ExpertSend where
  stall : Nat
  route : Nat
  line : Nat
  expert : Nat
  deriving DecidableEq, Repr

/-- A queue of a stall that takes blocks for an expert, or at the origin the results of one (R339). -/
structure ExpertQueue where
  stall : Nat
  queue : Nat
  origin : Bool
  deriving DecidableEq, Repr

/-- A combine list (R86): the stall and line that a COMBINE word names, its element count and the lines of its
contributions in fold order. -/
structure CombineList where
  stall : Nat
  line : Nat
  n : Nat
  terms : List Nat
  deriving DecidableEq, Repr

/-- A route entry (R142) at an endpoint. -/
structure RouteEntry where
  at_ : Nat
  idx : Nat
  dest : Nat
  queue : Nat
  mode : Nat
  linkValid : Bool
  link : Nat
  members : BitVec 48
  deriving DecidableEq, Repr

/-- A detour entry (R144) of the router of a stall. -/
structure DetourEntry where
  router : Nat
  lo : Nat
  hi : Nat
  inp : Nat
  out : Nat
  set : Nat
  deriving DecidableEq, Repr

inductive RegionKind where
  | block | fp32 | script | audit | cover | other
  deriving DecidableEq, Repr

structure StoreRegion where
  kind : RegionKind
  first : Nat
  lines : Nat
  deriving DecidableEq, Repr

/-- The queue map of one endpoint, for a stall with its store's regions and carried lines (R102, R139, R149, R190). -/
structure QueueMap where
  stall : Nat
  regions : List StoreRegion
  /-- queue number and depth in carts -/
  queues : List (Nat × Nat)
  carried : List Nat
  /-- reply slots: notes that call for a reply and may be out at once -/
  reply : Nat := 0
  deriving DecidableEq, Repr

/-- A porter descriptor (R183). -/
structure Desc where
  porter : Nat
  idx : Nat
  op : Nat
  srcSpace : Nat
  dstSpace : Nat
  inSlot : Bool
  check : Bool
  crcCode : Nat
  countFromSlot : Bool
  notifyOn : Bool
  toRing : Bool
  src : Nat
  dst : Nat
  length : Nat
  count : Nat
  stride : Nat
  expect : W64
  notify : Nat
  tag : Nat
  queue : Nat
  deriving DecidableEq, Repr

inductive DramKind where
  | ticket | pfx | adapter | kv | journal | table | work
  deriving DecidableEq, Repr

structure DramRegion where
  kind : DramKind
  base : Nat
  size : Nat
  deriving DecidableEq, Repr

/-- A catalogue entry with its owner table (R356). -/
structure CatEntry where
  part : Nat
  format : Nat
  segments : Nat
  dims : Nat
  queryCost : Nat
  kMax : Nat
  sets : Nat
  maskBase : Nat
  idEnd : Nat
  owners : List Nat
  deriving DecidableEq, Repr

/-- A sub-port entry (R235), with the probe's expected DeviceID digest (R442). -/
structure PortEntry where
  port : Nat
  sub : Nat
  ways : Nat
  role : Nat
  peerRank : Nat
  peerPort : Nat
  peerSub : Nat
  vlan : Nat
  pcp : Nat
  flags : Byte
  dscp : Nat
  mac : BitVec 48
  ip : BitVec 128
  peerIp : BitVec 128
  expectId : Digest
  deriving DecidableEq, Repr

/-- A flow of the plan's flow table (R245, R246, R254): class, home and alternate sub-port, domain, the transmit queue
it serves and the market endpoint, queue and route that its messages are delivered to. -/
structure FlowEntry where
  index : Nat
  cls : Nat
  port : Nat
  sub : Nat
  altPort : Nat
  altSub : Nat
  peerIndex : Nat
  peerRank : Nat
  domain : Nat
  txPort : Nat
  txQueue : Nat
  dest : Nat
  queue : Nat
  route : Nat
  /-- carts of a message, 1-16 (R254) -/
  parts : Nat := 1
  deriving DecidableEq, Repr

/-- A peer record (R257): seal vector and BF16 scales of the sending rank, and position in the combine list. -/
structure PeerRecord where
  idx : Nat
  c : List Nat
  scales : List (BitVec 16)
  pos : Nat := 0
  deriving DecidableEq, Repr

/-- The record index under which the sums of the MVM that a stall writes at a line go out on one of its routes (R257). -/
structure SendRecord where
  stall : Nat
  route : Nat
  line : Nat
  idx : Nat
  deriving DecidableEq, Repr

structure DomainEntry where
  num : Nat
  machine : Bool
  parent : Option Nat
  children : List Nat
  depth : Nat
  stalls : List Nat
  deriving DecidableEq, Repr

/-- A step-table entry (R215). -/
structure StepEntry where
  base : Nat
  slots : Nat
  allow : Nat
  widePct : Nat
  outRes : Nat
  fwWindow : Nat
  first : Nat
  deriving DecidableEq, Repr

structure DigestEntry where
  part : Nat
  crate : Nat
  gen : Nat
  root : Digest
  chunks : Nat
  leaves : List Digest
  seeds : List W64
  deriving DecidableEq, Repr

/-- The SERVE section (R310). -/
structure ServeCfg where
  stages : Nat
  slots : Nat
  stageRanks : List (List Nat)
  reportRank : Nat
  kvBytes : Nat
  tpp : Nat
  maxContext : Nat
  kvTokens : Nat
  prefillDepth : Nat
  waitCapUs : Nat
  retentionUs : Nat
  /-- priority and depth -/
  queues : List (Nat × Nat)
  layers : Nat
  deriving DecidableEq, Repr

/-- Where the entries with a given layout stand in their sections (R142, R144, R205, R235): first byte and count. The manual gives the
arrangement of the sections no encoding. -/
structure PlanPlaces where
  /-- chunk-map entries in PARTITION -/
  chunks : Nat × Nat := (0, 0)
  /-- route entries in ROUTE, by endpoint -/
  routes : List (Nat × Nat × Nat) := []
  /-- detour entries in DETOUR, by the router's stall -/
  detours : List (Nat × Nat × Nat) := []
  /-- sub-port entries in PORT, and the DeviceID digests that their peers must show (R442) -/
  ports : Nat × Nat := (0, 0)
  expect : List Digest := []
  deriving DecidableEq, Repr

/-- The sections of a plan image (R200). The entries that `places` points at, and those of the STEP section, are read from the
image itself. -/
structure PlanDoc where
  parts : List PartEntry
  chunks : List ChunkEntry
  scripts : List StallScript
  kernels : List KernelEntry
  combines : List CombineList
  routes : List RouteEntry
  detours : List DetourEntry
  /-- router fault map: stall of the router, detour set -/
  faultMap : List (Nat × Nat)
  queues : List QueueMap
  descs : List Desc
  regions : List DramRegion
  /-- contents of TABLE regions: address, bytes -/
  tables : List (Nat × List Byte)
  cats : List CatEntry
  ports : List PortEntry
  flows : List FlowEntry
  peerRecs : List PeerRecord
  sendRecs : List SendRecord := []
  /-- the expert map of the TABLE region (R339) -/
  expertSends : List ExpertSend := []
  expertQueues : List ExpertQueue := []
  /-- service allow list: address, length of its leading part in bits -/
  allow : List (Nat × Nat)
  domains : List DomainEntry
  /-- machine flag, domain -/
  flagMap : List (Nat × Nat)
  steps : List StepEntry
  oAllow : Nat
  theta : Nat
  eLo : Int
  outBudget : Nat
  rateLog2 : Nat
  modelDevices : Nat
  /-- initial floor table: stall, ordinal, floor (0 where not listed) -/
  floors : List (Nat × Nat × Nat)
  /-- BF16 channel scales, biases, constants and LUT parameters by position (R85) -/
  consts : List Word
  pubKeys : List Digest
  digests : List DigestEntry
  shelf : Option DigestEntry
  serve : Option ServeCfg
  initCap : Nat
  initKvLow : Nat
  /-- constants of a device with no front role (R310): tokens per page, KV bytes, layers -/
  tableTpp : Nat
  tableLayers : Nat
  places : PlanPlaces := {}
  deriving DecidableEq, Repr

/-! ### Calibration and conversion -/

/-- What one HBM stack's training gives (R164). -/
inductive HbmTrain where
  | full (lanes : Nat) | slow (lanes : Nat) | failed
  deriving DecidableEq, Repr

/-- Samples of a known count, decided alike: the count, the analog error in 1/64 code at the scale of L = 63, and how many
there were. -/
structure RefSample where
  n : Nat
  err : Int
  times : Nat
  deriving DecidableEq, Repr

/-- A live sample that the offline slice shadows (R69): its true count and its error, as for a reference, and the count that
slice 68 delivered for it. -/
structure LiveSample where
  n : Nat
  err : Int
  delivered : Nat
  deriving DecidableEq, Repr

/-- The end of a phase of a calibration window (R59, R65, R69-R71), with what the slice measured. -/
inductive CalPhase where
  /-- reference phase: the offset and gain codes found, and the reference samples taken -/
  | reference (offset gain samples : Nat)
  /-- margin phase: reference samples, live samples -/
  | margin (refs : List RefSample) (lives : List LiveSample)
  /-- confirmation phase: reference samples at the new trims -/
  | confirm (refs : List RefSample)
  deriving DecidableEq, Repr

/-- What initial calibration gives an array (R67): the offset and gain codes of slices 0-68, and the calibration-only samples,
taken on every stocked plane, that its margin is measured with. -/
structure CalFig where
  array : Nat
  trims : List (Nat × Nat)
  samples : List RefSample
  deriving DecidableEq, Repr

/-- What a read of the stall store meets in its SEC-DED code (R102). -/
inductive StoreErr where
  | clean | corrected | lost
  deriving DecidableEq, Repr

/-- A stall whose sequencer or unit reads its store, and what it meets. -/
structure StoreRead where
  stall : Nat
  e : StoreErr
  deriving DecidableEq, Repr

/-- A run of a script word: how often its residue checks fail (R92, R378), and the read of its operands. -/
structure WordRun where
  fails : Nat
  e : StoreErr
  deriving DecidableEq, Repr

/-- The analog errors of the samples of an MVM, a failed residue check of the till or of the scaler (R92), a live shadow that differs
(R69), and the read of its block. A sample that is not listed has no error. -/
structure MvmFault where
  /-- pass, column, error of the sample in 1/64 code at the array's L (R54) -/
  deltas : List (Nat × Nat × Int)
  residue : Bool
  shadow : Bool
  fp : Bool := false
  store : StoreErr := .clean
  deriving DecidableEq, Repr

/-- Who asks for an activity grant (R37, R39, R377). -/
inductive GrantFor where
  | mvm | guest | verifyRead | program | pattern
  deriving DecidableEq, Repr

/-- A request to the page allocator (R177-R180). -/
inductive PageReq where
  | pop (ticket : Nat) (structural : Bool)
  | push (page : Nat)
  | reserve (ticket pages : Nat)
  | release (ticket : Nat)
  | share (ticket page : Nat) (key : Nat)
  | evict (ticket firstPage : Nat)
  | endTicket (ticket : Nat)
  deriving DecidableEq, Repr

/-- A unit of a transfer that its destination has credited, and whether a read of it had a corrected error (R166, R185). -/
structure UnitDone where
  ix : Nat
  corrected : Bool := false
  deriving DecidableEq, Repr

/-- The result of reading a plane back (R40): every row read, with the cells of faulty rows that read wrong (row, bits
that differ), or the verify-read failed. -/
inductive PlaneRead where
  | rows (wrong : List (Nat × CellRow))
  | unreadable
  deriving DecidableEq, Repr

/-! ### The commands -/

inductive Instr where
  | nop (c : Cmd)
  | attestGet (c : Cmd)
  | faultRead (c : Cmd)
  | ticketRead (c : Cmd)
  | fwLoad (c : Cmd)
  | fwActivateAt (c : Cmd)
  | fwActivateCancel (c : Cmd)
  | patternLoad (c : Cmd)
  | planLoad (c : Cmd)
  | epochSet (c : Cmd)
  | serveStart (c : Cmd)
  | serveDrain (c : Cmd)
  | serveStop (c : Cmd)
  | stockLoad (c : Cmd)
  | stockFlip (c : Cmd)
  | stockFlipCancel (c : Cmd)
  | stockRelease (c : Cmd)
  | stockAbort (c : Cmd)
  | stocktake (c : Cmd)
  | stockRefresh (c : Cmd)
  | shelfWrite (c : Cmd)
  | customerSet (c : Cmd)
  | adapterLoad (c : Cmd)
  | adapterRevoke (c : Cmd)
  | ticketAbort (c : Cmd)
  | ticketPreempt (c : Cmd)
  | prefixFlush (c : Cmd)
  | porterResume (c : Cmd)
  | porterDiscard (c : Cmd)
  | cringTailWrite (ring v : Nat)
  | cringEnableSet (ring : Nat)
  | cringEnableClear (ring : Nat)
  | cplHeadWrite (ring v : Nat)
  | ringDmaError (ring : Nat) (k : DmaErr)
  | w1cClear (e : EvId) (mask : Word) (hw : List EvHit)
  | lowWordRead (off : Nat)
  | registerWrite (off size : Nat) (v : W64)
  | cvActCapWrite (v : Word)
  | trimModeWrite (v : Word)
  | cvAuditCtlWrite (v : Word)
  | chIrqMaskWrite (v : Word)
  | epChkCtlWrite (u : Nat) (v : Word)
  | epChkValueWrite (u : Nat) (v : W64)
  | wbAlertCtlWrite (v : Word)
  | stagingWrite (off : Nat) (bytes : List Byte)
  | i3cPrivateWrite (addr : W16) (bytes : List Byte)
  | i3cPrivateRead (n : Nat)
  | entdaa (addr : BitVec 7) (won : Bool)
  | setdasa (static addr : BitVec 7)
  | rstdaa
  | enec (bits : Byte)
  | disec (bits : Byte)
  | getpid
  | getbcr
  | getdcr
  | getstatus
  | setmwl (len : W16)
  | setmrl (len : W16)
  | vector2IntervalEnd
  | coalesceTimeout (ring : Nat)
  | inputPowerRise
  | railsInRegulation
  | undervoltageLockout
  | inputBelow20v
  | inputLow
  | inputRecovered
  | inputOverCurrentTrip
  | inputOverVoltageTrip
  | railOverCurrentTrip
  | dieOverTemperatureTrip
  | perstAssert
  | perstDeassert (tray slot : Nat)
  | functionReset
  | referenceLost
  | islandClockStop (isl : Nat)
  | islandClockRestart (isl : Nat)
  | islandStopTimeout (stall : Nat)
  | islandClockAdjust (isl khz : Nat)
  | sensorConversion (sensor code : Nat)
  | thermalEvaluation (hbmTemps : List Nat)
  | sampleEdge
  | burstEnd (a b : List Nat)
  | sampleWindowEnd
  | telemetryStaleTimeout
  | alertHoldEnd
  | hbmTrainingEnd (res : List HbmTrain)
  | romSelfCheckEnd (ok : Bool)
  | identityDerivationEnd
  | firmwareVerificationEnd (sigOk : Bool)
  | patternSetVerified (sigOk : Bool)
  | clerksStart
  | planValidationEnd (doc : PlanDoc) (certOk sigOk : Bool)
  | dramInitEnd
  | initialCalRoundEnd (figs : List CalFig)
  | calWindowStart (array : Nat)
  | calPhaseEnd (array : Nat) (p : CalPhase)
  | calWindowEnd (array : Nat) (liveErr : Int) (liveSamples : Nat)
  | calibrationOnlySample (array : Nat) (x : LiveSample)
  | activityGrant (array : Nat) (k : GrantFor)
  | scriptWordIssue (r : StoreRead)
  | mvm (stall slot : Nat) (f : MvmFault)
  | combine (stall : Nat) (r : WordRun)
  /-- `int`: the failed checks are integer residues -/
  | vec (stall : Nat) (r : WordRun) (int : Bool)
  | rq (stall : Nat) (r : WordRun)
  | send (r : StoreRead)
  | recv (stall : Nat)
  | port (r : StoreRead)
  | slot (stall : Nat)
  | doneWord (stall : Nat)
  | stallDone (stall : Nat)
  | escalationRetryEnd (array : Nat) (f : MvmFault)
  | auditPathEnd (array : Nat) (readErr : List (Nat × CellRow))
  | guestMvm (stall : Nat) (f : MvmFault)
  | auditSample (r : StoreRead)
  | patternTest (array : Nat) (f : MvmFault)
  | datapathPatternRun (stall entry fails : Nat)
  | cartReceive (c : Cart) (e : FlitErr)
  | creditNote (n : NoteRx)
  | fencedNote (n : NoteRx)
  | completionNote (n : NoteRx)
  | errorReportNote (n : NoteRx)
  | countingHouseOrder (n : NoteRx)
  | creditTimeout (stall : Nat)
  | replayQuiesced (domain : Nat)
  | recoveryTimeout (domain : Nat)
  | porterUnitComplete (porter ch : Nat) (u : UnitDone)
  | translationWalkEnd (porter ch : Nat) (kva : Nat) (write : Bool)
  | pageAllocationRequest (r : PageReq)
  | pageInvalidationComplete (ticket : Nat)
  | hbmReread (addr porter ch : Nat) (recovered : Bool)
  | hbmScrub (addr : Nat) (corrected : Bool)
  | linkTrained (port sub : Nat) (preempt : Bool)
  | probe (r : Rx)
  /-- `reportOk`: what the signature engine finds of the peer's report (R442): endorsement, signature, nonce, field lock, context,
  kem digest, expected DeviceID -/
  | probeVerified (port sub : Nat) (reportOk : Bool)
  | probeTimeout (port sub : Nat)
  | heldDownProbeResend (port sub : Nat)
  | linkLoss (port sub : Nat)
  | frameDrop (port sub : Nat) (why : DropWhy)
  | dataFrame (r : Rx)
  | contrib (r : Rx)
  | unitFrame (r : Rx)
  | ackFrame (r : Rx)
  | openFrame (r : Rx)
  | openAck (r : Rx)
  | closeFrame (r : Rx)
  | bellUp (r : Rx)
  | bellDown (r : Rx)
  | replayReq (r : Rx)
  | order (r : Rx)
  | cancel (r : Rx)
  | query (r : Rx)
  | maskWrite (r : Rx)
  | ackTimer (flow : Nat)
  | retransmitTimeout (flow psn : Nat)
  | flowFailTimeout (flow : Nat)
  | quarantineEnd (flow : Nat)
  | rateLimitRise (flow : Nat)
  | bellResend (domain : Nat)
  | readinessResend (domain : Nat)
  | pacePoint (domain : Nat)
  | deviceDone (domain : Nat) (wireError : Bool)
  | localBell (domain : Nat)
  | clerkHandover
  /-- `bad`: floor steps (1-64), and 64 + key index, whose fuse does not read blown -/
  | fwConfirm (bad : List Nat)
  | confirmationWindowExpiry
  | clerkTrap
  | scheduleSend (domain : Nat)
  | handleRetentionEnd (ticket : Nat)
  | restockHeaderVerified (part : Nat) (header : List Byte) (leaves : List Digest) (sigOk wrapOk : Bool)
  | erasePulseEnd (array : Nat)
  | rowProgramEnd (array : Nat)
  | verifyReadEnd (array plane : Nat) (r : PlaneRead)
  | planeHashWrite (array : Nat)
  | referenceRestored
  | pfcFrame (port sub : Nat) (paused : Nat)
  | lldpFrame (port sub : Nat) (preempt : Bool)
  | inBandInterruptTaken
  deriving DecidableEq, Repr

end Sys2Proof
end

