-- ==== Sys2Proof/Config.lean ====
section
/-! DEFINITION. Free values: what the manual leaves open, or gives by an algorithm it names and does not define. Each is
a constant with no body, so that nothing can be proved of its value. -/
namespace Sys2Proof.Config

/-- True random numbers: nonces (R238), the audit LFSR seeds (R127), the first rotation's moment is not modelled. Applied
to the counter `freeIx` (log 8). -/
opaque random : Nat → BitVec 256

/-- Keys, key digests, certificates and signatures of the identity engine (R429, R441, R443): a function of what is
asked for and of the data it is asked for (log 9). -/
opaque identity : Nat → List Byte → List Byte

/-- The silicon ROM bits of a LUT function inside the domain of its bound (R93), as an offset in ulp from the exact
result rounded; only offsets that the bound admits are used (log 11). -/
opaque lutOffset : Nat → Word → Int

/-- The audit LFSR of a stall (R127): its value after n blocks, by the free value that seeded it; the manual gives no
polynomial (log 23). -/
opaque lfsr : Nat → Nat → Nat → Word

/-- The ticket context that a SLOT word places in its line (R103): the manual gives it no layout; by handle, position and
token (log 27). -/
opaque context : Nat → Nat → Nat → Line

/-- A value the manual states no result for, by place and by `freeIx` (log 8). -/
opaque unstated : Nat → Nat → BitVec 64

/-- Cells of a row that an erase or a row program cut short leaves in no stated condition (R41, R452), by `freeIx` and
row (log 16). -/
opaque cells : Nat → Nat → CellRow

end Sys2Proof.Config
end

