-- ==== Sys2Proof/Machine/State.lean ====
section
/-! DEFINITION. The state of the block as plain data, and its value right after reset.

The defaults written beside the fields are the reset values: those of the register tables of spec/ where they give one,
and 0, false, none or empty where they give none (log 1). Four parts: `pending` (the queue of commands), `nv` (what
survives power-off, R2, R428), `mem` (DRAM bytes) and `dev` (everything else). -/
namespace Sys2Proof.Machine

/-- R413. -/
inductive Status where
  | ok | state | badArg | busy | refused | auth | stale
  deriving DecidableEq, Repr

/-- R414. -/
inductive DevState where
  | cold | awaitFw | awaitPlan | held | stocking | ready | serving | draining | faulted
  deriving DecidableEq, Repr

/-- What the block drives outwards (the model's own record of it, log 2). -/
inductive Out where
  /-- an entry of 32 bytes written to a completion ring, at a host address -/
  | completion (ring addr : Nat) (entry : List Byte)
  | hostWrite (addr : Nat) (bytes : List Byte)
  | msix (vector : Nat)
  | regRead (off : Nat) (value : Word)
  | i3cRead (addr : Nat) (words : List Word)
  | i3cAnswer (bytes : List Byte)
  | ibi (byte : Byte)
  | frame (t : Tx)
  /-- a note or a cart put on its net, with its flits (R137, R148) -/
  | note (n : Note) (flits : List W64)
  | cart (c : Cart) (flits : List Line)
  deriving DecidableEq, Repr

/-! ### Section 14: event registers, rings, interrupts, sideband -/

/-- An event register with its counters and its _LAST register (R402). `lastCycle` is the cycle (log 3) of the event
that _LAST names. -/
structure EvReg where
  flags : Word := 0
  cnt : SMap Nat := []
  lastCycle : Nat := 0
  lastIdx : Nat := 0
  lastBit : Nat := 0
  lastAux : Nat := 0
  deriving DecidableEq, Repr

/-- The command of a ring that has been accepted and not completed (R410). -/
structure Job where
  opcode : Nat
  cid : W16
  flags : Byte
  params : BitVec 448
  head : Nat
  wrOk : Bool
  deriving DecidableEq, Repr

/-- One ring pair (R405, R406). A raw vector below 8 acts as 8 + i, a raw count of 0 as 1. -/
structure Ring where
  base : W64 := 0
  enable : Bool := false
  log2 : Nat := 0
  tail : Nat := 0
  head : Nat := 0
  running : Bool := false
  error : Bool := false
  job : Option Job := none
  stopping : Bool := false
  cplBase : W64 := 0
  vector : Nat := 0
  irqEn : Bool := true
  count : Nat := 1
  time : Nat := 0
  cplHead : Nat := 0
  cplTail : Nat := 0
  phase : Bool := true
  /-- completions posted since the ring's last message (R421) -/
  posted : Nat := 0
  deriving DecidableEq, Repr

structure HostIf where
  rings : SMap Ring := []
  lastRing : Nat := 7
  /-- Bus Master Enable of the configuration space (R406; log 4) -/
  busMaster : Bool := true
  irqMask : Word := 0
  vec2Open : Bool := false
  vec2Due : Bool := false
  /-- MSI-X vectors whose mask bit is clear; a vector is masked at reset (R418; log 5) -/
  msixUnmasked : BitVec 64 := 0
  msixPending : BitVec 64 := 0
  /-- the other words of the MSI-X table (R398), by BAR0 offset -/
  msixTable : SMap Word := []
  /-- high words latched by 4-byte reads of low words (R400), by offset -/
  latches : SMap Word := []
  /-- one past the highest plan-part staging byte written since the last PLAN_LOAD (R201 check 0x01; log 7) -/
  stagedEnd : Nat := 0
  deriving DecidableEq, Repr

structure Sideband where
  dynAddr : Option (BitVec 7) := none
  ptr : W16 := 0
  mwl : W16 := 0
  mrl : W16 := 64
  ibiOn : Bool := false
  /-- causes raised and not yet taken (R424) -/
  ibis : List Byte := []
  deriving DecidableEq, Repr

/-! ### Section 15: identity, firmware, fuses -/

/-- A fleet pattern set (R388): serial and its 4,096-byte entries. -/
structure PatSet where
  serial : Nat
  entries : List (List Byte)
  deriving DecidableEq, Repr

/-- A firmware image held in counting-house SRAM (R431). -/
structure FwImage where
  version : W64
  svn : Nat
  digest : Digest
  flags : Byte
  revoke : Nat
  key : Nat
  handover : Nat
  patterns : Option PatSet
  deriving DecidableEq, Repr

structure ArmedFw where
  domain : Nat
  step : Nat
  window : Nat
  deriving DecidableEq, Repr

/-- A running image verification: the ring that ordered it and the command (R432). -/
structure FwJob where
  ring : Nat
  off : Nat
  len : Nat
  activate : Option ArmedFw
  deriving DecidableEq, Repr

structure Security where
  romDone : Bool := false
  romOk : Bool := false
  idDone : Bool := false
  hbmDone : Bool := false
  hbmOk : Bool := false
  fuseRead : Bool := false
  running : Option FwImage := none
  previous : Option FwImage := none
  pend : Option FwImage := none
  /-- image verified by FW_LOAD and not yet started by the clerks -/
  starting : Bool := false
  /-- verifications under way, oldest first: images, pattern sets (ring, offset, length) -/
  fwJobs : List FwJob := []
  patJobs : List (Nat × Nat × Nat) := []
  armed : Option ArmedFw := none
  /-- the clerks stop and hand over to a new image (R436) -/
  switching : Bool := false
  windowOpen : Bool := false
  windowLen : Nat := 0
  windowTick : Nat := 0
  fellBack : Bool := false
  lastFail : Nat := 0
  lastFailStatus : Nat := 0
  deriving DecidableEq, Repr

/-- The fuse block (R427): one number a fuse field, a set bit a blown fuse. Every field but the secret can be read by
software; the secret only by the identity engine. -/
structure Fuses where
  secret : Digest := 0
  revoked : BitVec 4 := 0
  floorA : BitVec 64 := 0
  floorB : BitVec 64 := 0
  roots : List Digest := []
  rootsValid : BitVec 4 := 0
  lock : BitVec 2 := 0
  deriving DecidableEq, Repr

/-! ### Section 16: power, clocks, thermal, weighbridge -/

structure Power where
  sequencing : Bool := false
  railsGood : Bool := false
  perst : Bool := true
  /-- straps of a PERST# deassertion that waits for the rails (R451) -/
  perstWaits : Option (Nat × Nat) := none
  /-- the die is out of reset (PERST# deasserted and rails good) -/
  outOfReset : Bool := false
  tripped : Bool := false
  thermtrip : Bool := false
  tray : Nat := 0
  slot : Nat := 0
  inputLow : Bool := false
  refLost : Bool := false
  /-- islands whose clock is stopped (R14), by island field (R18) -/
  stopped : List Nat := []
  /-- island clocks in kHz where the loop has moved them from nominal (R454) -/
  khz : SMap Nat := []
  deriving DecidableEq, Repr

structure Thermal where
  /-- readings coded as WB_THERMAL.t_die -/
  sensors : SMap Nat := []
  stackMap : SMap Nat := []
  level : Nat := 0
  overTemp : Bool := false
  deriving DecidableEq, Repr

structure Weigh where
  burst : Bool := false
  burstNo : Nat := 0
  codesA : SMap Nat := []
  codesB : SMap Nat := []
  windowEdges : Nat := 0
  edges : Nat := 0
  overlaps : Nat := 0
  fresh : Bool := false
  implausible : Bool := false
  badRun : Nat := 0
  goodRun : Nat := 0
  railOut : Bool := false
  supplyOk : Bool := false
  /-- input powers of the last 4,096 bursts, newest first, in 0.1 W -/
  powers : List Nat := []
  alertMask : Byte := 0xFE
  alert : Bool := false
  alertHold : Bool := false
  deriving DecidableEq, Repr

/-! ### Sections 8, 6: the plan in force, domains, networks -/

/-- The plan in force (R199, R200). -/
structure Plan where
  doc : PlanDoc
  planId : W64
  arith : W64
  sliceId : W64
  rank : Nat
  size : Nat
  audit : Bool
  digest : Digest
  deriving DecidableEq, Repr

structure PlanSt where
  plan : Option Plan := none
  validating : Bool := false
  /-- the ring whose PLAN_LOAD is under validation -/
  ring : Nat := 0
  rejected : Bool := false
  check : Nat := 0
  sect : Nat := 0
  item : Nat := 0
  planTick : Nat := 0
  /-- BL_STRETCH_CNT (R231), by level -/
  stretch : SMap Nat := []
  deriving DecidableEq, Repr

/-- A readiness report from a child (R211): rank, proposal, least epoch. -/
structure Ready where
  rank : Nat
  proposal : Nat
  epoch : Nat
  deriving DecidableEq, Repr

/-- A barrier domain (R150, R208-R211, R216-R223). -/
structure Dom where
  /-- a step runs (the domain has had its first bell since the device entered SERVING) -/
  running : Bool := false
  /-- the domain has received a bell since plan load -/
  belled : Bool := false
  step : Nat := 0
  level : Nat := 0
  bellTick : Nat := 0
  /-- machine flags raised in this step, not yet snapshot; flags in the snapshot; flags of the last bell -/
  flags : List Nat := []
  snapshot : List Nat := []
  lastFlags : List Nat := []
  lateFlags : List Nat := []
  /-- children's dones for this step: rank, epoch, flags -/
  kids : List (Nat × Nat × List Nat) := []
  readies : List Ready := []
  readySent : Option Nat := none
  paced : Bool := false
  /-- the device's own done for this step has risen; the done has gone up the tree; the BELL_UP sent -/
  done : Bool := false
  sentUp : Bool := false
  /-- the flags of the last BELL_UP of this step -/
  sentFlags : List Nat := []
  /-- time at which the last part of the step's work ended -/
  workTick : Nat := 0
  /-- a replay on a peer's request runs after the done has risen (R491) -/
  post : Bool := false
  replayed : Bool := false
  replaying : Bool := false
  /-- a REPLAY_REQ or R490 stops the step's scripts -/
  halted : Bool := false
  reserveUsed : Bool := false
  faultRaised : Bool := false
  /-- epochs of the last bell (R213) -/
  bellEpoch : Nat := 0
  deriving DecidableEq, Repr

/-- One ledger entry (R124). -/
structure Ledger where
  blocks : Nat := 0
  wide : Nat := 0
  floored : Nat := 0
  saturated : Nat := 0
  zeroed : Nat := 0
  outliers : Nat := 0
  maxOut : Nat := 0
  maxSat : Nat := 0
  deriving DecidableEq, Repr

/-- The commit set of a step (R190, R212): ticket records as the bell leaves them, purses, ledger increments. -/
structure CommitSet where
  tickets : List (Nat × List Byte) := []
  purses : List (Nat × Int) := []
  ledger : List (Nat × Ledger) := []
  deriving DecidableEq, Repr

/-- A journal entry (R190, R191): carts from ports in arrival order, the carried lines as they stood, and the commit set. -/
structure JEntry where
  domain : Nat
  step : Nat
  carts : List Cart
  lines : List (Nat × Line)
  opened : Bool
  commit : CommitSet := {}
  deriving DecidableEq, Repr

/-- A recovery that blocks a step (R379): a fence, or a lost plane. -/
structure Recovery where
  stall : Nat
  domain : Nat
  array : Option Nat
  plane : Nat
  /-- kind of the records that the recovery continues -/
  kind : Nat
  startTick : Nat
  /-- 2 quiescing, 3-5 copying, 6 ready to cover, 7 replay ordered -/
  phase : Nat
  /-- array and the spare that takes it -/
  moves : List (Nat × Nat)
  deriving DecidableEq, Repr

/-- A background copy of a suspect or retiring array (R64, R375). -/
structure Copy where
  array : Nat
  spare : Nat
  kind : Nat
  /-- planes still to be read, planes read and being programmed -/
  planes : List Nat
  /-- every plane hash of the copy is written: the work moves at the next bell -/
  redirect : Bool
  retiring : Bool
  deriving DecidableEq, Repr

/-- A chunk fetched from a peer by a recovery (R294, R376, R380): its planes as (offset, target array, target plane), what
has come, and the offsets not yet programmed. `moves`: the plane map moves at the next bell. -/
structure Fetch where
  part : Nat
  gen : Nat
  chunk : Nat
  src : Nat
  planes : List (Nat × Nat × Nat)
  rx : List (Nat × List Byte)
  got : Bool
  left : List Nat
  moves : Bool
  /-- its bytes come sealed under the link session (R242, R283) -/
  sealed : Bool := false
  deriving DecidableEq, Repr

/-- What travels: a cart with the copies of it that are not yet received, one for each destination, or a note. -/
inductive Load where
  | cart (c : Cart) (copies : List Cart)
  | note (n : Note)
  deriving DecidableEq, Repr

/-- A router that the head has passed: the input buffer it stood in, the output port taken, its VC from there on, and how many of
the flits have followed. -/
structure Hop where
  buf : Nat
  out : Nat
  vc : Bool
  passed : Nat
  deriving DecidableEq, Repr

/-- A cart or note on its way: the flits that have not left the source, and the routers passed. -/
structure Flight where
  id : Nat
  load : Load
  left : Nat
  path : List Hop
  deriving DecidableEq, Repr

structure Net where
  /-- carts and notes sent on the die and not yet received, in the order sent -/
  flights : List Flight := []
  nextFlight : Nat := 0
  /-- the routers' input buffers: flights with their flits there, front first (R137, R138, 6.5) -/
  bufs : SMap (List (Nat × Nat)) := []
  /-- carts of port blocks that wait for end-to-end credits (R139, R147) -/
  waiting : List Cart := []
  /-- end-to-end credits in use: (source, destination, queue), count -/
  credits : List ((Nat × Nat × Nat) × Nat) := []
  seqs : List ((Nat × Nat × Nat) × Nat) := []
  detours : BitVec 64 := 1
  /-- set to activate at the next bell of every domain (R146), with the domains whose bell has come -/
  detourNext : Option (Nat × List Nat) := none
  fenced : List Nat := []
  routerFail : List Nat := []
  covered : List Nat := []
  /-- redirect tables (R377): stall x 16 + slot, the spare's array index -/
  redirects : SMap Nat := []
  recoveries : List Recovery := []
  copies : List Copy := []
  fetches : List Fetch := []
  /-- sequence numbers as they stood at the last bell, for a replay (R155) -/
  seqs0 : List ((Nat × Nat × Nat) × Nat) := []
  journal : List JEntry := []
  /-- carts that wait for the bell of their step (R191): domain, step, cart -/
  held : List (Nat × Nat × Cart) := []
  /-- words that a FENCED note left incomplete: stall, position (R154) -/
  heldSends : List (Nat × Nat) := []
  deriving DecidableEq, Repr

/-! ### Sections 2-5, 13: arrays, stalls -/

/-- A slice's trims and margin (R78); gain 32 is nominal. -/
structure Slice where
  offset : Int := 0
  gain : Nat := 32
  margin : Nat := 0
  failed : Bool := false
  deriving DecidableEq, Repr

/-- The phase of an array's calibration window (3.4). -/
inductive WinPhase where
  | idle | reference | margin | confirm | closing
  deriving DecidableEq, Repr

/-- An escalating MVM (R373): the issued word, the stage, and what the first run gave. -/
structure Esc where
  stall : Nat
  word : Nat
  kind : Nat
  stage : Nat
  plane : Nat
  prior : Nat
  guest : Bool
  /-- the ladder step that the first run's row groups were formed with (R63) -/
  l : Nat
  /-- the fleet-pattern entry that the array runs instead of a word (R390) -/
  pat : Option Nat
  deriving DecidableEq, Repr

/-- An array (sections 2, 3, 13). -/
structure Arr where
  lStep : Nat := 0
  margin : Nat := 0
  initMargin : Nat := 0
  refMargin : Nat := 0
  hist : List Nat := []
  window : Nat := 0
  phase : WinPhase := .idle
  winMin : Nat := 127
  winZero : Bool := false
  refCount : Nat := 0
  repeated : Bool := false
  skipped : Bool := false
  rotations : Nat := 0
  qualified : Nat := 0
  lastWinMargin : Nat := 0
  newOffset : Int := 0
  newGain : Nat := 32
  readBias : Nat := 32
  /-- boundary mode: trims queued for the next bell (slice, offset, gain), read bias, step-up (R492) -/
  qTrims : List (Nat × Int × Nat) := []
  qBias : Option Nat := none
  qStepUp : Bool := false
  calibrated : Bool := false
  background : Bool := false
  retiring : Bool := false
  /-- R64 has acted on the array: its margin has fallen below 3 -/
  low : Bool := false
  suspect : Bool := false
  /-- kind of the record that its copy continues -/
  suspKind : Nat := 0
  retired : Bool := false
  stopped : Bool := false
  retries : Nat := 0
  remaps : List (Nat × Nat) := []
  progCount : Nat := 0
  tagRead : Bool := false
  grant : Option GrantFor := none
  /-- the grant came from the floating pool (R37) -/
  pooled : Bool := false
  esc : Option Esc := none
  patTests : Nat := 0
  deriving DecidableEq, Repr

/-- A script word the sequencer has issued and that has not completed (R104): its position, the word, the ticket slot,
whether it is of the cover script, and whether a FENCED note or an escalation holds it. -/
structure Issued where
  pos : Nat
  word : W64
  slot : Nat
  cover : Bool
  held : Bool
  /-- a SEND of a masked slot: a mask cart goes in its place (R105) -/
  mask : Bool
  /-- what the word waits for: end-to-end credits as endpoint x 4,096 + queue, a porter channel as 2^24 + channel, a guest's sums as
  2^60 + endpoint x 2^32 + sequence number -/
  owed : List Nat
  /-- the carts sent for the word: endpoint x 4,096 + queue, sequence number -/
  sent : List (Nat × Nat) := []
  /-- members to which the cart goes again (R154) -/
  resend : List Nat := []
  deriving DecidableEq, Repr

/-- A pending audit sample (R127-R130): the lines of its marked block with the shadow, its partial sums, and the MVM. -/
structure Audit where
  /-- the MVM's slot while its step runs; 0x10000 from the next bell on -/
  slot : Nat
  array : Nat
  plane : Nat
  lines : List Line
  sums : List Int
  lStep : Nat
  ticket : Nat
  deriving DecidableEq, Repr

/-- Partial sums that have left a till (R81, R83): block exponent, sums, and the seal sum S mod 2^32. -/
structure Till where
  exp : Int
  sums : List Int
  s : Nat
  deriving DecidableEq, Repr

/-- A stall (section 4). -/
structure Stall where
  pc : Nat := 0
  curSlot : Nat := 0xFFFF
  issued : List Issued := []
  /-- carts accepted and not yet taken by a RECV: queue, cart -/
  inq : List (Nat × Cart) := []
  doneIssued : Bool := false
  done : Bool := false
  masked : List Nat := []
  rqRule : Nat := 0
  rqFell : Nat := 0
  outPasses : Nat := 0
  widePasses : Nat := 0
  /-- uncommitted ledger increments of the step: (ordinal, slot, entry) -/
  led : List (Nat × Nat × Ledger) := []
  /-- blocks that the requantiser has produced since plan load (R127) -/
  blocks : Nat := 0
  audits : List Audit := []
  /-- catalogue selections by slot: (score, id) in order (R364) -/
  select : List (Nat × List (Int × Nat)) := []
  /-- segment sums in the making: slot, vector group x 64 + plane offset, segments added, sums (R362) -/
  scores : List (Nat × Nat × Nat × List Int) := []
  /-- the step's sums by the line of their output, with their exponent, once their seal has matched (R83, R258) -/
  tills : List (Nat × Till) := []
  /-- guest MVMs waiting (R377): owner stall, position of its word, cart with the block -/
  guests : List (Nat × Nat × Cart) := []
  /-- steps in which the stall store gave an uncorrectable error (R378) -/
  dblSteps : List Nat := []
  deriving DecidableEq, Repr

structure Market where
  actCap : Nat := 60
  trimMode : Bool := false
  trimNext : Option Bool := none
  auditRate : Nat := 12
  auditSamples : Nat := 0
  worst : Nat := 0
  worstStall : Nat := 0
  outOverrun : Nat := 0
  wideOverrun : Nat := 0
  /-- index of the free value that seeds the audit LFSRs (R127) -/
  seedIx : Nat := 0
  /-- activities that wait for a grant of the floating pool, in the order in which they asked (R37) -/
  requests : List (Nat × GrantFor) := []
  calRound : Nat := 0
  initDone : Bool := false
  arrays : SMap Arr := []
  slices : SMap Slice := []
  stalls : SMap Stall := []
  /-- stall x 8,192 + line -/
  store : SMap Line := []
  /-- stall x 128 + ordinal -/
  ledger : SMap Ledger := []
  ledgerSum : Ledger := {}
  pats : Option PatSet := none
  patsNext : Option PatSet := none
  patPeriod : Nat := 8
  patData : Bool := true
  patSweeps : Nat := 0
  deriving DecidableEq, Repr

/-! ### Section 10: stock -/

/-- Why a plane is being programmed (R41). -/
inductive ProgFor where
  | restock (part chunk off : Nat)
  | copy (array : Nat)
  | recovery (array : Nat)
  | refresh (part chunk off : Nat)
  deriving DecidableEq, Repr

inductive ProgPhase where
  | erase (pulses : Nat) | tag | row (r : Nat) | compare | hash
  deriving DecidableEq, Repr

/-- A plane to be programmed (R41): its target, tag fields (R284) and image rows (R278): data columns 0-511 and seal
columns 512-531. -/
structure Prog where
  array : Nat
  plane : Nat
  why : ProgFor
  phase : ProgPhase
  again : Bool
  crate : Nat
  gen : Nat
  chunk : Nat
  off : Nat
  format : Nat
  seed : W64
  stamp : Nat
  rows : List CellRow
  /-- rows to program once more (R42) -/
  todo : List Nat
  /-- the program count to write (R45), known from the first erase pulse on -/
  count : Nat
  deriving DecidableEq, Repr

structure Restock where
  gen : Nat
  inPlace : Bool
  srcKind : Nat
  src : Nat
  stamp : Nat
  /-- placement: chunk, array, first plane (R289) -/
  place : List (Nat × Nat × Nat)
  verified : Bool
  halted : Bool
  ring : Nat
  /-- staged placement that the command reads until its completion, as a byte range (R399) -/
  range : Nat × Nat
  root : Digest
  leaves : List Digest
  sealed : Bool
  /-- chunk bytes received so far, by byte offset from the first chunk -/
  rx : List (Nat × List Byte)
  /-- chunks refetched once (R291) -/
  refetched : List Nat
  done : List Nat
  total : Nat
  /-- key of its planes: the content key of a sealed crate from a server, the link session's key from a peer; it goes with the restock
  (R281-R283) -/
  key : List Byte
  deriving DecidableEq, Repr

structure Refresh where
  first : Nat
  last : Nat
  /-- from (array, plane) to (array, plane) -/
  moves : List ((Nat × Nat) × (Nat × Nat))
  left : List (Nat × Nat)
  complete : Bool
  deriving DecidableEq, Repr

/-- A partition's stock table (R286, R309); table 16 is the back shelf's (R301): live and side generation, their plane maps from (chunk, offset) to
(array, plane), and what is complete. -/
structure Part where
  live : Nat := 0
  side : Nat := 0
  sideState : Nat := 0
  stopped : Bool := false
  armed : Option (Nat × Nat × Nat) := none
  liveRoot : Digest := 0
  sideRoot : Digest := 0
  liveLeaves : List Digest := []
  sideLeaves : List Digest := []
  liveMap : List ((Nat × Nat) × (Nat × Nat)) := []
  sideMap : List ((Nat × Nat) × (Nat × Nat)) := []
  liveDone : List Nat := []
  sideDone : List Nat := []
  /-- a mode-1 restock has erased a plane: the old live generation is gone (R299) -/
  gone : Bool := false
  restock : Option Restock := none
  refresh : Option Refresh := none
  release : Bool := false
  doneCount : Nat := 0
  totalCount : Nat := 0
  deriving DecidableEq, Repr

structure Stock where
  parts : SMap Part := []
  progs : List Prog := []
  /-- planes a running stocktake has still to read -/
  take : List (Nat × Nat) := []
  takeRunning : Bool := false
  takeDone : Bool := false
  /-- worst class found of a chunk in the running stocktake: (partition, chunk) -/
  bad : List (Nat × Nat) := []
  /-- planes whose tag names another crate, generation or chunk (R293), as array x 64 + plane -/
  foreign : List Nat := []
  deriving DecidableEq, Repr

/-! ### Section 7: DRAM and porters -/

/-- A frame-table entry (R175). -/
structure Frame where
  refs : Nat := 0
  owner : Nat := 0
  indexed : Bool := false
  retired : Bool := false
  structural : Bool := false
  deriving DecidableEq, Repr

/-- A directory or map entry (R174). -/
structure KvEntry where
  valid : Bool := false
  evicted : Bool := false
  shared : Bool := false
  ppn : Nat := 0
  deriving DecidableEq, Repr

inductive ChanState where
  | idle | running | done | faulted | aborted | discarded
  deriving DecidableEq, Repr

/-- A porter channel with its progress record (R186). -/
structure Chan where
  desc : Nat := 0
  state : ChanState := .idle
  cause : Nat := 0
  unitsDone : Nat := 0
  check : W64 := 0
  ticket : Nat := 0
  step : Nat := 0
  tag : Nat := 0
  d : Option Desc := none
  total : Nat := 0
  bytes : Nat := 0
  /-- units completed past units_done -/
  early : List Nat := []
  /-- bytes of units that came from a flow, or that completed early with check set -/
  rx : List (Nat × List Byte) := []
  /-- attended positions of the slot (R183 flag 4) -/
  pos : Nat := 0
  stall : Nat := 0
  word : Nat := 0
  line : Nat := 0
  slot : Nat := 0xFFFF
  domain : Nat := 0
  /-- pre-empted (R188): the units below this number are issued, and no more -/
  stop : Option Nat := none
  deriving DecidableEq, Repr

structure HbmStack where
  trained : Bool := false
  slow : Bool := false
  lanes : Nat := 0
  deriving DecidableEq, Repr

structure Dram where
  stackMap : SMap HbmStack := []
  chans : SMap Chan := []
  kvBase : Nat := 0
  kvPages : Nat := 0
  /-- KV free list: never-used pages from `fresh`, and pages pushed back -/
  fresh : Nat := 0
  pushed : List Nat := []
  free : Nat := 0
  reserved : Nat := 0
  kvLow : Nat := 0
  poolLow : Bool := false
  frames : SMap Frame := []
  /-- ticket x 8,192 + directory index -/
  dirs : SMap KvEntry := []
  /-- (ticket x 8,192 + directory index) x 8,192 + map index -/
  maps : SMap KvEntry := []
  /-- cached translations: porter, key of `maps` -/
  tlb : List (Nat × Nat) := []
  /-- lines (address / 64) that are lost (R167) -/
  lost : List Nat := []
  /-- transfers of firmware that wait for a channel: porter, descriptor, ticket (R182) -/
  fwQueue : List (Nat × Nat × Nat) := []
  /-- pages waiting for every invalidation acknowledgement, by ticket (R179) -/
  invalidating : SMap (List Nat) := []
  deriving DecidableEq, Repr

/-! ### Section 9: ports and flows -/

inductive SubState where
  | down | training | probing | up | heldDown
  deriving DecidableEq, Repr

structure SubPort where
  state : SubState := .down
  preempt : Bool := false
  partner : Bool := false
  paused : Nat := 0
  /-- the nonce sent in part 0, as a free value's index (log 9) -/
  nonce : Nat := 0
  /-- the secret encapsulated to the peer, likewise -/
  encap : Nat := 0
  /-- parts of the peer's probe received -/
  parts : List (Nat × List Byte) := []
  /-- the link key of the session (R443) -/
  session : Option Digest := none
  /-- the least chunk counter that the session still accepts (R283) -/
  rxCounter : Nat := 0
  /-- frames of paused classes that wait (R233), oldest first -/
  txq : List Tx := []
  deriving DecidableEq, Repr

/-- A frame sent and not acknowledged, with its successive timeouts and the frames shown received after it. -/
structure Unacked where
  t : Tx
  timeouts : Nat
  deriving DecidableEq, Repr

structure Flow where
  inUse : Bool := false
  opened : Bool := false
  gen : Nat := 0
  quarantine : Bool := false
  cls : Nat := 0
  port : Nat := 0
  sub : Nat := 0
  domain : Nat := 0
  src : Nat := 0
  peer : Word := 0
  txPsn : Nat := 0
  unacked : List Unacked := []
  rxNext : Nat := 0
  early : List Rx := []
  sinceAck : Nat := 0
  ceEcho : Bool := false
  msg : List Rx := []
  aliveTx : Nat := 0
  aliveRx : Option Nat := none
  /-- accepted (step, message id) pairs (R255) and rejected contributions' senders (R259) -/
  accepted : List (Nat × Nat) := []
  nextMsg : Nat := 0
  /-- carts of the next message (R254) -/
  gather : List Cart := []
  onAlt : Bool := false
  badHome : Bool := false
  badAlt : Bool := false
  failed : Bool := false
  /-- sending rate limit (R253): the part of line rate, in units of line rate / (1.6 x 10^12) -/
  rate : Nat := 1600000000000
  deriving DecidableEq, Repr

structure ChkUnit where
  enable : Bool := false
  active : Bool := false
  crc : Nat := 0
  flow : Nat := 0
  channel : Nat := 0
  value : W64 := 0
  aliveLast : Nat := 0
  deriving DecidableEq, Repr

structure Eth where
  /-- port x 8 + sub-port -/
  subs : SMap SubPort := []
  reasons : SMap Nat := []
  /-- port x 16 + k (R272); counter 7 split in 7 (held_drops) and 8 (rx_dropped) -/
  cnts : SMap Nat := []
  staleDrops : Nat := 0
  flows : SMap Flow := []
  chks : SMap ChkUnit := []
  deriving DecidableEq, Repr

/-! ### Sections 11, 12: serving -/

inductive TState where
  | free | queued | prefill | decode | preempted | rebuild | ended
  deriving DecidableEq, Repr

/-- A ticket record (R316), with the front device's token history (R321). -/
structure Ticket where
  gen : Nat := 0
  state : TState := .free
  status : Nat := 0
  reason : Nat := 0
  front : Bool := false
  evicted : Bool := false
  preemptible : Bool := false
  cachePfx : Bool := false
  pubLookup : Bool := false
  publish : Bool := false
  noQueue : Bool := false
  customer : Nat := 0
  queue : Nat := 0
  request : Nat := 0
  flow : Nat := 0
  seed : W64 := 0
  mode : Nat := 0
  stops : Nat := 0
  k : Nat := 0
  temp : Word := 0
  minp : Word := 0
  adapter : Nat := 0xFFFFFFFF
  serial : Nat := 0
  n : Nat := 0
  maxNew : Nat := 0
  produced : Nat := 0
  position : Nat := 0
  shared : Nat := 0
  rebuildFrom : Nat := 0
  deadline : Nat := 0
  admitted : Nat := 0
  epoch : Nat := 0
  genModel : Nat := 0
  genAdapt : Nat := 0
  dirPpn : Nat := 0
  kvReserved : Nat := 0
  kvPages : Nat := 0
  reserve : Nat := 0
  masks : Nat := 0
  lane : Option (Nat × Nat) := none
  stopIds : List Nat := []
  tokens : List Nat := []
  /-- next position to feed into stage 0; tokens written to the history (R321); its prefix pages are in the index (R335) -/
  feed : Nat := 0
  hist : Nat := 0
  pfxDone : Bool := false
  /-- an admission named a prefix page that is absent here (R335) -/
  noGroup : Bool := false
  /-- step of the last pre-emption (R342), masks of cause 5 (R344) -/
  preStep : Nat := 0
  refusals : Nat := 0
  deriving DecidableEq, Repr

/-- A customer: rights, queue, key, purse (R330, R348). -/
structure Customer where
  enable : Bool := false
  pubRight : Bool := false
  publishRight : Bool := false
  queue : Nat := 0
  key : BitVec 128 := 0
  q : Nat := 0
  burst : Nat := 0
  balance : Int := 0
  deriving DecidableEq, Repr

/-- A CUSTOMER_SET that waits for the next bell (R348). -/
structure CustSet where
  customer : Nat
  enable : Bool
  pubRight : Bool
  publishRight : Bool
  setKey : Bool
  publicKey : Bool
  queue : Nat
  q : Nat
  burst : Nat
  key : BitVec 128
  deriving DecidableEq, Repr

/-- A prefix-index entry with its group page's content (R333). -/
structure PfxEntry where
  hash : W64
  page : Nat
  customer : Nat
  isPublic : Bool
  used : Nat
  group : Nat
  ctx : List Byte
  pred : W64
  toks : List Nat
  ppns : List Nat
  deriving DecidableEq, Repr

structure Adapter where
  customer : Nat
  rank : Nat
  offset : Nat
  length : Nat
  digest : Digest
  serial : Nat
  /-- index of an array adapter of a kind-1 partition: no body (R337) -/
  part : Option Nat
  usable : Bool
  deriving DecidableEq, Repr

/-- An adapter load under way (R337). -/
structure AdLoad where
  index : Nat
  customer : Nat
  srcKind : Nat
  src : Nat
  offset : Nat
  length : Nat
  rx : List (Nat × List Byte)
  deriving DecidableEq, Repr

/-- A catalogue query (R359). -/
structure CatQuery where
  request : Nat
  customer : Nat
  flow : Nat
  part : Nat
  k : Nat
  set : Nat
  deadline : Nat
  noQueue : Bool
  elems : List Int
  gen : Nat
  cost : Nat
  deriving DecidableEq, Repr

/-- A mask write forwarded in the schedule (R368). -/
structure MaskJob where
  request : Nat
  flow : Nat
  set : Nat
  firstId : Nat
  bits : List Bool
  /-- forwarded in a schedule: it takes effect at the next bell -/
  sent : Bool
  deriving DecidableEq, Repr

/-- An answer that waits for the bell that commits its step (R314). -/
structure Answer where
  flow : Nat
  op : Nat
  payload : List Byte
  deriving DecidableEq, Repr

/-- A slot of the schedule (R322, R325): stage, slot, ticket index, position, kind, token. -/
structure SlotUse where
  stage : Nat
  slot : Nat
  ticket : Nat
  pos : Nat
  kind : Nat
  token : Nat
  deriving DecidableEq, Repr

structure Serving where
  tickets : SMap Ticket := []
  customers : SMap Customer := []
  publicKey : BitVec 128 := 0
  custSets : List CustSet := []
  /-- admission queues: ticket indices, head first -/
  queues : SMap (List Nat) := []
  catQueues : SMap (List CatQuery) := []
  /-- where the toll gate starts within a priority (R327) -/
  nextQueue : Nat := 0
  lanes : List ((Nat × Nat) × Nat) := []
  prefill : List Nat := []
  rebuildWait : List Nat := []
  /-- orders that passed the checks and become QUEUED at the next bell -/
  arrivals : List Nat := []
  /-- cancels and aborts before the next bell, in order of arrival: handle, request, flow, is an abort -/
  ends : List (Nat × Nat × Nat × Bool) := []
  preempts : List Nat := []
  /-- tickets that the toll gate rejects in this step, with the reason (R327) -/
  rejects : List (Nat × Nat) := []
  /-- refunds of this bell, and debits as negative ones (R330): customer, ticks -/
  refunds : List (Nat × Int) := []
  admission : Option (Nat × Nat) := none
  catAdmits : List CatQuery := []
  scanning : List CatQuery := []
  /-- token and mask records of the step: ticket, position, token; ticket, position, cause -/
  sampled : List (Nat × Nat × Nat) := []
  maskRecs : List (Nat × Nat × Nat) := []
  faultEnds : List (Nat × Nat) := []
  answers : List Answer := []
  pfxDrops : List W64 := []
  /-- ticket, first token page -/
  evicts : List (Nat × Nat) := []
  inserts : List Nat := []
  flushes : List (Option Nat) := []
  revokes : List Nat := []
  adapterSets : List (Nat × Adapter) := []
  masks : List MaskJob := []
  schedule : List SlotUse := []
  nextSchedule : List SlotUse := []
  /-- the schedule of the step before (R300) -/
  prevSchedule : List SlotUse := []
  /-- 32-octet records from the front device, held until the next bell (R325) -/
  notices : List (List Byte) := []
  /-- records for the next schedule, and whether this step's schedule has gone out -/
  outRecs : List (List Byte) := []
  schedSent : Bool := false
  index : List PfxEntry := []
  adapters : SMap Adapter := []
  adSerial : Nat := 0
  adLoads : List AdLoad := []
  lastBellTime : Nat := 0
  counts : SMap Nat := []
  /-- stage-0 slots used in the last 1,024 steps, newest first -/
  util : List Nat := []
  /-- snapshots at the most recent bell (R351, R353, R354) -/
  snapStatus : Word := 0
  snapLoad : Word := 0
  snapTime : Nat := 0
  snapLive : Nat := 0
  snapQueued : Nat := 0
  snapPurse : SMap Customer := []
  drainNext : Bool := false
  stopNext : Bool := false
  /-- lists that devices and stalls sent for a catalogue slot (R365) -/
  catLists : List (Nat × List (Int × Nat)) := []
  catGone : List Nat := []
  /-- the parts received of a query that takes more than one cart of the schedule (R325, R361) -/
  queryPart : List Byte := []
  deriving DecidableEq, Repr

/-- Policy epochs (R121, R122). -/
structure Epochs where
  cur : Nat := 0
  /-- epoch, floors by stall x 128 + ordinal -/
  tables : List (Nat × SMap Nat) := []
  next : Option (Nat × SMap Nat) := none
  pins : SMap Nat := []
  deriving DecidableEq, Repr

/-! ### Section 13: fault log -/

/-- A fault record (R384); its CRC and captures are computed when it is read. -/
structure FaultRec where
  seq : Nat
  kind : Nat
  stage : Nat
  unit : Nat
  lStep : Nat
  step : Nat
  stall : Nat
  array : Nat
  plane : Nat
  slice : Nat
  passes : Nat
  group : W64
  capture : Nat
  lines : Nat
  ticket : Nat
  detail : Nat
  tick : Nat
  prior : Nat
  deriving DecidableEq, Repr

/-- A capture slot (R386). -/
structure Capture where
  seq : Nat := 0
  block : List Line := []
  array : Nat := 0
  plane : Nat := 0
  lStep : Nat := 0
  format : Nat := 0
  seed : W64 := 0
  deriving DecidableEq, Repr

structure Faults where
  /-- newest first, at most 65,536 -/
  log : List FaultRec := []
  head : Nat := 0
  readSeq : Nat := 0
  captures : SMap Capture := []
  nextCap : Nat := 0
  deriving DecidableEq, Repr

/-! ### The whole block -/

/-- What survives power-off (R2, R428). Cells by (array x 64 + plane) x 512 + row. -/
structure NonVol where
  cells : SMap CellRow := []
  /-- planes (array x 64 + plane) whose erase was cut off, or runs, with step 2 of R41 still to come (R45) -/
  cut : List Nat := []
  fuses : Fuses := {}
  /-- the boot ROM's own constants: digests of the firmware keys (R431), digest of the ROM, silicon stepping (R404) -/
  romKeys : List Digest := []
  romDigest : Digest := 0
  stepping : Nat := 0
  deriving DecidableEq, Repr

/-- Everything that a reset clears, and the model's own counters. -/
structure Dev where
  state : DevState := .cold
  previous : DevState := .cold
  /-- the model's own: 125 ns units since power-up, cycles (log 3), free values taken (log 8), outputs (log 2) -/
  tick : Nat := 0
  cycle : Nat := 0
  freeIx : Nat := 0
  out : List Out := []
  evs : List EvReg := []
  host : HostIf := {}
  side : Sideband := {}
  sec : Security := {}
  pwr : Power := {}
  therm : Thermal := {}
  wb : Weigh := {}
  plan : PlanSt := {}
  doms : SMap Dom := []
  net : Net := {}
  mkt : Market := {}
  stock : Stock := {}
  dram : Dram := {}
  eth : Eth := {}
  srv : Serving := {}
  epochs : Epochs := {}
  faults : Faults := {}
  deriving DecidableEq, Repr

structure State where
  pending : List Instr
  nv : NonVol
  mem : List Host.Cell
  dev : Dev
  deriving DecidableEq, Repr

/-- Why the machine stops. No rule of the manual stops the block with nothing further defined: a command that the
device turns away answers a next state. This reason is raised by no meaning; it keeps the type inhabited (safe). -/
inductive Fault where
  | none_
  deriving DecidableEq, Repr

/-- Why a command has no meaning. `notModelled` is raised by exec's arms alone (safe). -/
inductive Refusal where
  | notModelled (mnemonic : String)
  deriving DecidableEq, Repr

/-- The module before its first power-up: no input, PERST# asserted, COLD, every register at its reset value, nothing
in the cells, the fuses unblown and no command waiting (logs 1 and 10). -/
def State.reset : State := { pending := [], nv := {}, mem := [], dev := {} }

end Sys2Proof.Machine
end

