-- ==== Sys2Proof/Machine/Ops.lean ====
section
/-! DEFINITION. The named operations over the state: sparse maps, memory, bit fields, event flags, interrupts, the
device state, fault records, and how a meaning turns a change of the device into an outcome. -/
namespace Sys2Proof.Machine

abbrev R := Host.Outcome State Fault Refusal

/-! ### Sparse maps -/

def mfind {α : Type} : SMap α → Nat → Option α
  | [], _ => none
  | (a, v) :: r, k => if a = k then some v else mfind r k

/-- The value at k; d where k is not listed. -/
def mget {α : Type} (m : SMap α) (k : Nat) (d : α) : α := (mfind m k).getD d

def mdel {α : Type} : SMap α → Nat → SMap α
  | [], _ => []
  | (a, v) :: r, k => if a = k then mdel r k else (a, v) :: mdel r k

def mput {α : Type} : SMap α → Nat → α → SMap α
  | [], k, x => [(k, x)]
  | (a, v) :: r, k, x => if a = k then (k, x) :: r else if k < a then (k, x) :: (a, v) :: r else (a, v) :: mput r k x

/-- Write x at k of a map whose unlisted keys read as d: the form stays canonical. -/
def mset {α : Type} [DecidableEq α] (m : SMap α) (k : Nat) (d x : α) : SMap α :=
  if x = d then mdel m k else mput m k x

def mmod {α : Type} [DecidableEq α] (m : SMap α) (k : Nat) (d : α) (f : α → α) : SMap α := mset m k d (f (mget m k d))

/-- Keys strictly rising, all above lo (if any), and no entry equal to d. -/
def mwf {α : Type} [DecidableEq α] (d : α) : Option Nat → SMap α → Bool
  | _, [] => true
  | lo, (a, v) :: r => (match lo with | none => true | some b => decide (b < a)) && decide (v ≠ d) && mwf d (some a) r

/-- Keep the entries whose key lies in [lo, hi), re-based to 0. -/
def mslice {α : Type} (m : SMap α) (lo hi : Nat) : SMap α :=
  (m.filter fun e => decide (lo ≤ e.1) && decide (e.1 < hi)).map fun e => (e.1 - lo, e.2)

/-- Drop the entries whose key lies in [lo, hi). -/
def mclear {α : Type} (m : SMap α) (lo hi : Nat) : SMap α := m.filter fun e => ! (decide (lo ≤ e.1) && decide (e.1 < hi))

/-! ### Association by any key -/

def aget {κ α : Type} [DecidableEq κ] (l : List (κ × α)) (k : κ) (d : α) : α :=
  match l.find? (fun e => decide (e.1 = k)) with
  | some e => e.2
  | none => d

def adel {κ α : Type} [DecidableEq κ] (l : List (κ × α)) (k : κ) : List (κ × α) := l.filter fun e => decide (e.1 ≠ k)

def aset {κ α : Type} [DecidableEq κ] (l : List (κ × α)) (k : κ) (v : α) : List (κ × α) := (k, v) :: adel l k

/-- Insert into a list kept without repeats. -/
def linsert (l : List Nat) (x : Nat) : List Nat := if l.contains x then l else l ++ [x]

def lremove (l : List Nat) (x : Nat) : List Nat := l.filter (· ≠ x)

/-! ### Bytes -/

/-- A little-endian number of bytes (R8). -/
def leNat : List Byte → Nat
  | [] => 0
  | b :: r => b.toNat + 256 * leNat r

/-- A big-endian number of bytes (network order, R8). -/
def beNat (l : List Byte) : Nat := leNat l.reverse

def leBytes : Nat → Nat → List Byte
  | 0, _ => []
  | n + 1, v => BitVec.ofNat 8 v :: leBytes n (v / 256)

def beBytes (n v : Nat) : List Byte := (leBytes n v).reverse

/-- Bytes [off, off + n) of a list, zero beyond its end. -/
def sub (l : List Byte) (off n : Nat) : List Byte :=
  let t := (l.drop off).take n
  t ++ List.replicate (n - t.length) 0

def leAt (l : List Byte) (off n : Nat) : Nat := leNat (sub l off n)
def beAt (l : List Byte) (off n : Nat) : Nat := beNat (sub l off n)

/-- Bits hi..lo of a number. -/
def bits (v hi lo : Nat) : Nat := (v >>> lo) % 2 ^ (hi + 1 - lo)
def bitOf (v i : Nat) : Bool := v.testBit i
def b2n (b : Bool) : Nat := if b then 1 else 0

def asciiBytes (s : String) : List Byte := s.toList.map fun c => BitVec.ofNat 8 c.toNat

/-! ### DRAM (R170): bytes below 0x00C0_0000_0000; an unlisted byte reads 0 (log 12) -/

def dramTop : Nat := 0x00C000000000
def stagingBase : Nat := 0x00BFF0000000
def countingBase : Nat := 0x00BFE0000000

def memRead (m : List Host.Cell) (a : Nat) : Byte := mget m a 0

def memReads (m : List Host.Cell) (a : Nat) : Nat → List Byte
  | 0 => []
  | n + 1 => memRead m a :: memReads m (a + 1) n

/-- Store one byte. An address at or above 0x00C0_0000_0000 is unmapped: nothing is written (R170). -/
def memWrite (m : List Host.Cell) (a : Nat) (b : Byte) : List Host.Cell := if a < dramTop then mset m a 0 b else m

def memWrites (m : List Host.Cell) (a : Nat) : List Byte → List Host.Cell
  | [] => m
  | b :: r => memWrites (memWrite m a b) (a + 1) r

abbrev memWf (m : List Host.Cell) : Prop := mwf (0 : Byte) none m = true

/-- Clear every byte of [lo, hi). -/
def memZero (m : List Host.Cell) (lo hi : Nat) : List Host.Cell := mclear m lo hi

/-! ### Outcomes: a meaning changes the device, the device and DRAM, or the device and the cells and fuses; the queue is
never its concern. Each command is one cycle (log 3). -/

def tickCycle (d : Dev) : Dev := { d with cycle := d.cycle + 1 }

def onDev (f : Dev → Dev) (s : State) : R := .next { s with dev := f (tickCycle s.dev) }

def onMem (f : Dev → List Host.Cell → Dev × List Host.Cell) (s : State) : R :=
  let p := f (tickCycle s.dev) s.mem
  .next { s with dev := p.1, mem := p.2 }

def onNv (f : Dev → NonVol → Dev × NonVol) (s : State) : R :=
  let p := f (tickCycle s.dev) s.nv
  .next { s with dev := p.1, nv := p.2 }

/-! ### Outputs -/

def emit (o : Out) (d : Dev) : Dev := { d with out := d.out ++ [o] }

/-- A message-signalled interrupt (R417, R418): sent, or merged into the pending bit while its vector is masked. -/
def msix (v : Nat) (d : Dev) : Dev :=
  if d.host.msixUnmasked.getLsbD v then emit (.msix v) d
  else { d with host := { d.host with msixPending := d.host.msixPending ||| (1#64 <<< v) } }

/-- An in-band interrupt (R424): raised while ENEC holds, merged with an untaken one of the same byte. The one at the front
is on the bus; the others follow as the controller takes it. -/
def raiseIbi (b : Byte) (d : Dev) : Dev :=
  if d.side.ibiOn && ! d.side.ibis.contains b then
    let first := d.side.ibis.isEmpty
    let d := { d with side := { d.side with ibis := d.side.ibis ++ [b] } }
    if first then emit (.ibi b) d else d
  else d

/-- The interrupt at the front goes out, while in-band interrupts are enabled. -/
def frontIbi (d : Dev) : Dev :=
  match d.side.ibis with
  | b :: _ => if d.side.ibiOn then emit (.ibi b) d else d
  | [] => d

/-! ### Event registers (R402, R419, R420) -/

def evIx : EvId → Nat
  | .cv => 0 | .cvDp => 1 | .cvQuant => 2 | .chNet => 3 | .bl => 4 | .blStep => 5 | .pt => 6 | .ep => 7 | .st => 8
  | .tg => 9 | .chFault => 10 | .wb => 11 | .sc => 12 | .chHost => 13

def getEv (d : Dev) (e : EvId) : EvReg := (d.evs[evIx e]?).getD {}

def setEv (d : Dev) (e : EvId) (r : EvReg) : Dev :=
  { d with evs := (List.range 14).map fun i => if i = evIx e then r else (d.evs[i]?).getD {} }

/-- One event in a register: the flag is set whether or not it is set already, its counter rises by 1 (mod 2^32), and
_LAST names the event of the cycle with the lowest index, then the lowest bit (R402). -/
def evHit (cycle : Nat) (h : EvHit) (r : EvReg) : EvReg :=
  let keep := decide (r.lastCycle = cycle) &&
    (decide (r.lastIdx < h.idx) || (decide (r.lastIdx = h.idx) && decide (r.lastBit ≤ h.bit)))
  let r1 := { r with flags := r.flags ||| (1#32 <<< h.bit), cnt := mmod r.cnt h.bit 0 (fun n => (n + 1) % 2 ^ 32) }
  if keep then r1 else { r1 with lastCycle := cycle, lastIdx := h.idx, lastBit := h.bit, lastAux := h.aux }

/-- Vector 2 (R420): at once, or at the end of the 10 µs interval of the message before. -/
def vec2 (d : Dev) : Dev :=
  if d.host.vec2Open then { d with host := { d.host with vec2Due := true } }
  else msix 2 { d with host := { d.host with vec2Open := true } }

/-- PT_EVENT_LAST.stack keeps the stack of the most recent DRAM event (R194). -/
def evAux (e : EvId) (r : EvReg) (h : EvHit) : EvHit := if e = .pt ∧ 3 ≤ h.bit then { h with aux := r.lastAux } else h

/-- A hardware event: flag, counter, _LAST, and the summary interrupt where CH_IRQ_MASK enables the register. -/
def raise (e : EvId) (bit idx : Nat) (aux : Nat) (d : Dev) : Dev :=
  let d := setEv d e (evHit d.cycle (evAux e (getEv d e) { bit := bit, idx := idx, aux := aux }) (getEv d e))
  if d.host.irqMask.getLsbD (evIx e) then vec2 d else d

/-- Flags and counters back to 0, as PLAN_LOAD and reset do (R402). -/
def clearEvs (keep : List EvId) (d : Dev) : Dev :=
  { d with evs := (List.range 14).map fun i => if keep.any (fun e => evIx e = i) then (d.evs[i]?).getD {} else {} }

/-! ### Free values -/

/-- The next free value's index (log 8). -/
def takeFree (d : Dev) : Nat × Dev := (d.freeIx, { d with freeIx := d.freeIx + 1 })

/-! ### Device state (R412, R414) -/

def stateCode : DevState → Nat
  | .cold => 0 | .awaitFw => 1 | .awaitPlan => 2 | .held => 3 | .stocking => 4 | .ready => 5 | .serving => 6
  | .draining => 7 | .faulted => 8

def statusCode : Status → Nat
  | .ok => 0 | .state => 1 | .badArg => 2 | .busy => 3 | .refused => 4 | .auth => 5 | .stale => 6

/-- Firmware runs on the clerks (CH_STATE.fw). -/
def fwRuns (d : Dev) : Bool := d.sec.running.isSome && ! d.sec.starting

/-- Trims and step-ups queued in boundary mode take effect at a bell, or at the first pass boundary after the device
leaves SERVING or DRAINING (R65, R492). -/
def applyQueued (a : Nat) (d : Dev) : Dev :=
  let x := mget d.mkt.arrays a {}
  if x.qTrims.isEmpty && x.qBias.isNone && ! x.qStepUp then d else
  let slices := x.qTrims.foldl (fun m t => mmod m (a * 69 + t.1) {} fun s => { s with offset := t.2.1, gain := t.2.2 }) d.mkt.slices
  let up := x.qStepUp && decide (0 < x.lStep)
  let x' := { x with qTrims := [], qBias := none, qStepUp := false, readBias := x.qBias.getD x.readBias,
                     lStep := if up then x.lStep - 1 else x.lStep, qualified := if up then 0 else x.qualified }
  let d := { d with mkt := { d.mkt with slices := slices, arrays := mset d.mkt.arrays a {} x' } }
  if up then raise .cv 1 a 0 d else d

def applyAllQueued (d : Dev) : Dev := (d.mkt.arrays.map (·.1)).foldl (fun d a => applyQueued a d) d

/-- A trim mode written while steps run takes effect at the next bell (R66). -/
def applyTrimMode (d : Dev) : Dev :=
  match d.mkt.trimNext with
  | none => d
  | some m => { d with mkt := { d.mkt with trimMode := m, trimNext := none } }

def steps (s : DevState) : Bool := decide (s = .serving) || decide (s = .draining)

/-- Enter a state: CH_STATE keeps the one before; CH_HOST_EVENT.state_change, vector 0 and data byte 0x01 (R404, R417,
R424). Leaving SERVING and DRAINING applies what waits for a bell in boundary mode (R66, R492). -/
def enter (n : DevState) (d : Dev) : Dev :=
  if d.state = n then d else
  let leaves := steps d.state && ! steps n
  let d := { d with previous := d.state, state := n }
  let d := raise .chHost 0 0 0 d
  let d := raiseIbi 0x01 (msix 0 d)
  if leaves then applyTrimMode (applyAllQueued d) else d

/-! ### The plan in force -/

def theDoc (d : Dev) : Option PlanDoc := d.plan.plan.map (·.doc)

def planDomains (d : Dev) : List DomainEntry := ((theDoc d).map (·.domains)).getD []

def domEntry (d : Dev) (k : Nat) : Option DomainEntry := (planDomains d).find? (·.num = k)

def getDom (d : Dev) (k : Nat) : Dom := mget d.doms k {}

def setDom (d : Dev) (k : Nat) (x : Dom) : Dev := { d with doms := mset d.doms k {} x }

def modDom (k : Nat) (f : Dom → Dom) (d : Dev) : Dev := setDom d k (f (getDom d k))

/-- The step-table entry of a domain: the i-th entry belongs to the i-th defined domain in ascending number (R215). -/
def stepEntry (d : Dev) (k : Nat) : Option StepEntry :=
  match theDoc d with
  | none => none
  | some p => p.steps[(p.domains.filter fun x => x.num < k).length]?

def partOf (d : Dev) (p : Nat) : Option PartEntry := ((theDoc d).map (·.parts)).getD [] |>.find? (·.num = p)

def frontPart (d : Dev) : Option PartEntry := ((theDoc d).map (·.parts)).getD [] |>.find? (fun x => x.role.testBit 0)

def domOfStall (d : Dev) (i : Nat) : Option Nat := ((planDomains d).find? (·.stalls.contains i)).map (·.num)

def serveCfg (d : Dev) : Option ServeCfg := (theDoc d).bind (·.serve)

/-- Front time: 125 ns units since plan load (R328). -/
def frontTime (d : Dev) : Nat := d.tick - d.plan.planTick

/-- The domains that run a step now. -/
def runningDoms (d : Dev) : List Nat := (d.doms.filter fun e => e.2.running).map (·.1)

/-- A machine flag rises for a domain (R150, R151): into this step's flags, or, once the root has taken the snapshot,
into the next step's with BL_EVENT.late_flag. What a replay on a peer's request raises stays with its step (R491). -/
def raiseFlag (k flag : Nat) (d : Dev) : Dev :=
  let x := getDom d k
  if x.done && x.post then setDom d k { x with snapshot := linsert x.snapshot flag }
  else if x.done then raise .bl 0 0 0 (setDom d k { x with lateFlags := linsert x.lateFlags flag })
  else setDom d k { x with flags := linsert x.flags flag }

/-- Entry into FAULTED: an armed activation is disarmed (R435), nothing commits, no further bell (R214). -/
def enterFaulted (d : Dev) : Dev :=
  let d := { d with sec := { d.sec with armed := none, pend := if d.sec.armed.isSome then none else d.sec.pend } }
  let d := { d with doms := d.doms.map fun e => (e.1, { e.2 with running := false }) }
  enter .faulted d

/-- A domain whose FAULT flag is raised: flag 8j (R217), its scripts stopped. -/
def faultDom (j : Nat) (d : Dev) : Dev := raiseFlag j (8 * j) (modDom j (fun x => { x with faultRaised := true, halted := true }) d)

/-- Raise the FAULT flag of a domain together with its done (R214). A device that runs no domain enters FAULTED at once;
a domain that runs no step cannot carry the flag, so the other running domains carry theirs. -/
def raiseFault (k : Nat) (d : Dev) : Dev :=
  match runningDoms d with
  | [] =>
    if steps d.state || decide (d.state = .stocking) || decide (d.state = .ready) then enterFaulted (raiseIbi 0x02 (msix 0 d))
    else d
  | rs =>
    let targets := if rs.contains k then [k] else rs
    let d := modDom k (fun x => { x with faultRaised := true }) (raiseIbi 0x02 (msix 0 d))
    targets.foldl (fun d j => faultDom j d) d

/-- The FAULT flag of every domain the device runs (R437, R455, R459). -/
def raiseFaultAll (d : Dev) : Dev :=
  match runningDoms d with
  | [] => raiseFault 0 d
  | rs => rs.foldl (fun d k => raiseFault k d) d

/-! ### Fault records (R383-R386) -/

def blankRec : FaultRec :=
  { seq := 0, kind := 0, stage := 0, unit := 0, lStep := 0, step := 0, stall := 0xFFFF, array := 0xFFFF, plane := 0xFF,
    slice := 0xFF, passes := 0, group := 0, capture := 0, lines := 0, ticket := 0, detail := 0, tick := 0, prior := 0 }

/-- Write a record: numbered from 1 after plan load, the newest replaces the oldest past 65,536, log_wrap where the
replaced one was unread, vector 1 from stage 3 on (R383, R393). -/
def faultRec (r : FaultRec) (d : Dev) : Dev :=
  let n := d.faults.head + 1
  let r := { r with seq := n, tick := (d.tick - d.plan.planTick) % 2 ^ 32 }
  let wraps := decide (65536 < n) && decide (d.faults.readSeq < n - 65536)
  let d := { d with faults := { d.faults with log := (r :: d.faults.log).take 65536, head := n } }
  let d := if wraps then raise .chFault 8 (if r.stall < 1920 then r.stall else 0) 0 d else d
  if 3 ≤ r.stage then msix 1 d else d

/-- Put an operand capture into the next slot (R386) and give its address. -/
def capture (c : Capture) (d : Dev) : Nat × Dev :=
  let slot := d.faults.nextCap
  (0x00BFE0400000 + 4096 * slot,
   { d with faults := { d.faults with captures := mput d.faults.captures slot { c with seq := d.faults.head + 1 },
                                      nextCap := (slot + 1) % 1024 } })

/-! ### Arrays and stalls -/

def getArr (d : Dev) (a : Nat) : Arr := mget d.mkt.arrays a {}
def setArr (d : Dev) (a : Nat) (x : Arr) : Dev := { d with mkt := { d.mkt with arrays := mset d.mkt.arrays a {} x } }
def modArr (a : Nat) (f : Arr → Arr) (d : Dev) : Dev := setArr d a (f (getArr d a))
def getStall (d : Dev) (i : Nat) : Stall := mget d.mkt.stalls i {}
def setStall (d : Dev) (i : Nat) (x : Stall) : Dev := { d with mkt := { d.mkt with stalls := mset d.mkt.stalls i {} x } }
def modStall (i : Nat) (f : Stall → Stall) (d : Dev) : Dev := setStall d i (f (getStall d i))
def getPart (d : Dev) (p : Nat) : Part := mget d.stock.parts p {}
def setPart (d : Dev) (p : Nat) (x : Part) : Dev := { d with stock := { d.stock with parts := mset d.stock.parts p {} x } }
def modPart (p : Nat) (f : Part → Part) (d : Dev) : Dev := setPart d p (f (getPart d p))
/-- A stall store has lines 0-6,143 (R103); a line above reads 0 and takes nothing. -/
def getLine (d : Dev) (stall line : Nat) : Line := if line < 6144 then mget d.mkt.store (stall * 8192 + line) 0 else 0
def setLine (d : Dev) (stall line : Nat) (v : Line) : Dev :=
  if line < 6144 then { d with mkt := { d.mkt with store := mset d.mkt.store (stall * 8192 + line) 0 v } } else d
def getTicket (d : Dev) (t : Nat) : Ticket := mget d.srv.tickets t {}
def setTicket (d : Dev) (t : Nat) (x : Ticket) : Dev := { d with srv := { d.srv with tickets := mset d.srv.tickets t {} x } }
def modTicket (t : Nat) (f : Ticket → Ticket) (d : Dev) : Dev := setTicket d t (f (getTicket d t))
def getFlow (d : Dev) (f : Nat) : Flow := mget d.eth.flows f {}
def setFlow (d : Dev) (f : Nat) (x : Flow) : Dev := { d with eth := { d.eth with flows := mset d.eth.flows f {} x } }
def modFlow (f : Nat) (g : Flow → Flow) (d : Dev) : Dev := setFlow d f (g (getFlow d f))
def getSub (d : Dev) (n m : Nat) : SubPort := mget d.eth.subs (n * 8 + m) {}
def setSub (d : Dev) (n m : Nat) (x : SubPort) : Dev := { d with eth := { d.eth with subs := mset d.eth.subs (n * 8 + m) {} x } }
def modSub (n m : Nat) (f : SubPort → SubPort) (d : Dev) : Dev := setSub d n m (f (getSub d n m))
def getChan (d : Dev) (p c : Nat) : Chan := mget d.dram.chans (p * 16 + c) {}
def setChan (d : Dev) (p c : Nat) (x : Chan) : Dev := { d with dram := { d.dram with chans := mset d.dram.chans (p * 16 + c) {} x } }
def getRing (d : Dev) (i : Nat) : Ring := mget d.host.rings i {}
def setRing (d : Dev) (i : Nat) (x : Ring) : Dev := { d with host := { d.host with rings := mset d.host.rings i {} x } }
def modRing (i : Nat) (f : Ring → Ring) (d : Dev) : Dev := setRing d i (f (getRing d i))

/-- A port counter (R272): k = 0-6 wrap at 2^32, 7 (held_drops) and 8 (rx_dropped) at 2^16. -/
def portCount (n k : Nat) (d : Dev) : Dev :=
  let w := if 7 ≤ k then 2 ^ 16 else 2 ^ 32
  { d with eth := { d.eth with cnts := mmod d.eth.cnts (n * 16 + k) 0 fun v => (v + 1) % w } }

/-- A toll-gate counter (R352). -/
def tgCount (k n : Nat) (d : Dev) : Dev :=
  { d with srv := { d.srv with counts := mmod d.srv.counts k 0 fun v => (v + n) % 2 ^ 32 } }

/-- The stall of an array index (R22). -/
def stallOf (a : Nat) : Nat := a / 16

def lOf (step : Nat) : Nat := match step with | 0 => 63 | 1 => 47 | 2 => 31 | _ => 15

/-! ### Clock islands (R14, R18): a stopped island holds its state -/

def islandStopped (d : Dev) (i : Nat) : Bool := d.pwr.stopped.contains i

def arithOn (d : Dev) (stall : Nat) : Bool := ! islandStopped d stall
def convOn (d : Dev) (stall : Nat) : Bool := ! islandStopped d (2048 + stall)
/-- The island of a stall's routers. -/
def columnOn (d : Dev) (stall : Nat) : Bool := ! islandStopped d (1920 + stall / 48)
def ringOn (d : Dev) (b : Nat) : Bool := ! islandStopped d (1984 + b)

/-- The islands at an endpoint of the nets: a stall's own and its routers', a ring block's core; a stall-side porter works on
the islands of the stalls and stacks that it moves between. -/
def endpointOn (d : Dev) (e : Nat) : Bool :=
  if e < 1920 then arithOn d e && columnOn d e else if 2048 ≤ e ∧ e < 2094 then ringOn d (e - 2048) else true

/-- What needs islands' clocks happens while they run. -/
def clocked (on : Dev → Bool) (f : Dev → Dev) (d : Dev) : Dev := if on d then f d else d

/-- x before the first element that it does not come after. -/
def insertBy {α : Type} (le : α → α → Bool) (x : α) : List α → List α
  | [] => [x]
  | y :: r => if le x y then x :: y :: r else y :: insertBy le x r

/-- A list in order; equal elements keep theirs. -/
def sortBy {α : Type} (le : α → α → Bool) (l : List α) : List α := l.foldr (insertBy le) []

/-- A handle (R245): index and generation. -/
def handleOf (ix gen : Nat) : Nat := ix * 2048 + gen
def hIndex (h : Nat) : Nat := h / 2048
def hGen (h : Nat) : Nat := h % 2048
def nextGen (g : Nat) : Nat := if g = 0 then 1 else if g = 2047 then 1 else g + 1

end Sys2Proof.Machine
end

