-- ==== Sys2Proof/Machine/Crc.lean ====
section
/-! DEFINITION. The four CRCs of the check units, the frames and the records (R265, R266). The running value is the CRC
register after the last byte, in the form in which the code shifts; the final value is the running value XOR the final
XOR. -/
namespace Sys2Proof.Machine

def crcWidth : Nat → Nat
  | 0 => 32 | 1 => 32 | 2 => 64 | _ => 16

def crcInit : Nat → W64
  | 0 => 0xFFFFFFFF | 1 => 0xFFFFFFFF | 2 => 0 | _ => 0xFFFF

def crcFinalXor : Nat → W64
  | 0 => 0xFFFFFFFF | 1 => 0xFFFFFFFF | _ => 0

/-- One bit of a reflected code: the polynomials 0x1EDC_6F41 and 0x04C1_1DB7 with their bits in reverse order. -/
def crcLsbStep (poly r : W64) : W64 := if r.getLsbD 0 then (r >>> 1) ^^^ poly else r >>> 1

/-- One bit of a most-significant-bit-first code of width w. -/
def crcMsbStep (w : Nat) (poly r : W64) : W64 :=
  let s := (r <<< 1) ^^^ (if r.getLsbD (w - 1) then poly else 0)
  if w = 64 then s else s &&& ((1#64 <<< w) - 1)

def times {α : Type} : Nat → (α → α) → α → α
  | 0, _, x => x
  | n + 1, f, x => times n f (f x)

/-- The register after one more byte. -/
def crcByte (code : Nat) (r : W64) (b : Byte) : W64 :=
  match code with
  | 0 => times 8 (crcLsbStep 0x82F63B78) (r ^^^ b.setWidth 64)
  | 1 => times 8 (crcLsbStep 0xEDB88320) (r ^^^ b.setWidth 64)
  | 2 => times 8 (crcMsbStep 64 0x42F0E1EBA9EA3693) (r ^^^ (b.setWidth 64 <<< 56))
  | _ => times 8 (crcMsbStep 16 0x1021) (r ^^^ (b.setWidth 64 <<< 8))

def crcBytes (code : Nat) (r : W64) (l : List Byte) : W64 := l.foldl (crcByte code) r

/-- The final check value of a whole stream. -/
def crcOf (code : Nat) (l : List Byte) : W64 := crcBytes code (crcInit code) l ^^^ crcFinalXor code

def crc32c (l : List Byte) : Word := (crcOf 0 l).setWidth 32

end Sys2Proof.Machine
end

