-- ==== Sys2Proof/Machine/Hash.lean ====
section
/-! DEFINITION. The public algorithms that the manual names: SHA3-256 (crates, identity, images), Philox4x32-10 (R99,
R280) and SipHash-2-4 (R332). Their definitions are those of their own publications (log 13). -/
namespace Sys2Proof.Machine

/-! ### SHA3-256 (Keccak-f[1600], rate 1,088 bits) -/

def keccakRc : List W64 :=
  [0x0000000000000001, 0x0000000000008082, 0x800000000000808A, 0x8000000080008000, 0x000000000000808B,
   0x0000000080000001, 0x8000000080008081, 0x8000000000008009, 0x000000000000008A, 0x0000000000000088,
   0x0000000080008009, 0x000000008000000A] ++
  [0x000000008000808B, 0x800000000000008B, 0x8000000000008089, 0x8000000000008003, 0x8000000000008002,
   0x8000000000000080, 0x000000000000800A, 0x800000008000000A, 0x8000000080008081, 0x8000000000008080,
   0x0000000080000001, 0x8000000080008008]

/-- Rotation offsets of lane x + 5y. -/
def keccakRot : List Nat :=
  [0, 1, 62, 28, 27, 36, 44, 6, 55, 20, 3, 10, 43, 25, 39, 41, 45, 15, 21, 8, 18, 2, 61, 56, 14]

def lane (a : List W64) (i : Nat) : W64 := (a[i]?).getD 0

def keccakRound (a : List W64) (rc : W64) : List W64 :=
  let c := (List.range 5).map fun x => lane a x ^^^ lane a (x + 5) ^^^ lane a (x + 10) ^^^ lane a (x + 15) ^^^ lane a (x + 20)
  let dd := (List.range 5).map fun x => lane c ((x + 4) % 5) ^^^ (lane c ((x + 1) % 5)).rotateLeft 1
  let t := (List.range 25).map fun i => lane a i ^^^ lane dd (i % 5)
  -- rho and pi: lane (x, y) goes to (y, 2x + 3y)
  let b := (List.range 25).map fun i =>
    let x' := i % 5
    let y' := i / 5
    let src := ((x' + 3 * y') % 5) + 5 * x'
    (lane t src).rotateLeft ((keccakRot[src]?).getD 0)
  (List.range 25).map fun i =>
    let x := i % 5
    let y := i / 5
    let v := lane b i ^^^ ((~~~ lane b ((x + 1) % 5 + 5 * y)) &&& lane b ((x + 2) % 5 + 5 * y))
    if i = 0 then v ^^^ rc else v

def keccakF (a : List W64) : List W64 := keccakRc.foldl keccakRound a

/-- Absorb 136-byte blocks; the fuel is the number of blocks. -/
def sha3Absorb : Nat → List W64 → List Byte → List W64
  | 0, a, _ => a
  | n + 1, a, l =>
    let blk := (List.range 25).map fun i => if i < 17 then BitVec.ofNat 64 (leAt l (8 * i) 8) else 0
    sha3Absorb n (keccakF ((List.range 25).map fun i => lane a i ^^^ lane blk i)) (l.drop 136)

/-- Pad with 0x06 ... 0x80 to whole blocks. -/
def sha3Pad (l : List Byte) : List Byte :=
  let z := 135 - l.length % 136
  if z = 0 then l ++ [0x86] else l ++ [0x06] ++ List.replicate (z - 1) 0 ++ [0x80]

def sha3 (l : List Byte) : Digest :=
  let p := sha3Pad l
  let a := sha3Absorb (p.length / 136) (List.replicate 25 0) p
  BitVec.ofNat 256 (leNat ((List.range 4).flatMap fun i => leBytes 8 (lane a i).toNat))

def digestBytes (x : Digest) : List Byte := leBytes 32 x.toNat
def digestAt (l : List Byte) (off : Nat) : Digest := BitVec.ofNat 256 (leAt l off 32)

/-! ### Merkle tree (R279) -/

def merkleLeaf (bytes : List Byte) : Digest := sha3 (0x00 :: bytes)

/-- Pair nodes 2k and 2k + 1; an unpaired last node passes up unchanged. -/
def merkleLevel : List Digest → List Digest
  | a :: b :: r => sha3 (0x01 :: digestBytes a ++ digestBytes b) :: merkleLevel r
  | l => l

def merkleUp : Nat → List Digest → Digest
  | 0, l => (l.head?).getD 0
  | n + 1, l => match l with
    | [] => 0
    | [a] => a
    | _ => merkleUp n (merkleLevel l)

/-- The root over the leaves in chunk order; for one leaf the root is the leaf. -/
def merkleRoot (l : List Digest) : Digest := merkleUp l.length l

/-! ### Philox4x32-10 -/

def philoxRound (k : Word × Word) (c : Word × Word × Word × Word) : Word × Word × Word × Word :=
  let p0 : W64 := 0xD2511F53#64 * c.1.setWidth 64
  let p1 : W64 := 0xCD9E8D57#64 * c.2.2.1.setWidth 64
  ((p1 >>> 32).setWidth 32 ^^^ c.2.1 ^^^ k.1, p1.setWidth 32, (p0 >>> 32).setWidth 32 ^^^ c.2.2.2 ^^^ k.2, p0.setWidth 32)

def philoxRounds : Nat → Word × Word → Word × Word × Word × Word → Word × Word × Word × Word
  | 0, _, c => c
  | n + 1, k, c => philoxRounds n (k.1 + 0x9E3779B9, k.2 + 0xBB67AE85) (philoxRound k c)

/-- Word 0 of Philox4x32-10 under a 64-bit key, low word first. -/
def philox0 (key : W64) (c0 c1 c2 c3 : Word) : Word :=
  (philoxRounds 10 (key.setWidth 32, (key >>> 32).setWidth 32) (c0, c1, c2, c3)).1

/-! ### SipHash-2-4 -/

def sipRound (v : W64 × W64 × W64 × W64) : W64 × W64 × W64 × W64 :=
  let v0 := v.1 + v.2.1
  let v1 := v.2.1.rotateLeft 13 ^^^ v0
  let v0 := v0.rotateLeft 32
  let v2 := v.2.2.1 + v.2.2.2
  let v3 := v.2.2.2.rotateLeft 16 ^^^ v2
  let v0 := v0 + v3
  let v3 := v3.rotateLeft 21 ^^^ v0
  let v2 := v2 + v1
  let v1 := v1.rotateLeft 17 ^^^ v2
  (v0, v1, v2.rotateLeft 32, v3)

def sipWord (v : W64 × W64 × W64 × W64) (m : W64) : W64 × W64 × W64 × W64 :=
  let w := times 2 sipRound (v.1, v.2.1, v.2.2.1, v.2.2.2 ^^^ m)
  (w.1 ^^^ m, w.2.1, w.2.2.1, w.2.2.2)

def sipHash (key : BitVec 128) (l : List Byte) : W64 :=
  let k0 : W64 := key.setWidth 64
  let k1 : W64 := (key >>> 64).setWidth 64
  let v := (k0 ^^^ 0x736F6D6570736575, k1 ^^^ 0x646F72616E646F6D, k0 ^^^ 0x6C7967656E657261, k1 ^^^ 0x7465646279746573)
  let v := (List.range (l.length / 8)).foldl (fun v i => sipWord v (BitVec.ofNat 64 (leAt l (8 * i) 8))) v
  let last := leNat (l.drop (8 * (l.length / 8))) + (l.length % 256) * 2 ^ 56
  let v := sipWord v (BitVec.ofNat 64 last)
  let w := times 4 sipRound (v.1, v.2.1, v.2.2.1 ^^^ 0xFF, v.2.2.2)
  w.1 ^^^ w.2.1 ^^^ w.2.2.1 ^^^ w.2.2.2

/-- Element c_j of the seal vector of the plane at offset `off` in a chunk (R280): odd, 1-255. -/
def sealC (seed : W64) (off j : Nat) : Nat :=
  let w := philox0 (seed + BitVec.ofNat 64 off) (BitVec.ofNat 32 j) 0 0 0
  ((w.toNat % 256) ||| 1)

end Sys2Proof.Machine
end

