-- ==== Sys2Proof/Machine/Cells.lean ====
section
/-! DEFINITION. The cells: rows of planes, the tag (R284), remaps (R23), plane images (R278) and what a program operation
leaves (R41, R449, R452, R482). -/
namespace Sys2Proof.Machine

def cellKey (array plane row : Nat) : Nat := (array * 64 + plane) * 512 + row

def getRow (m : SMap CellRow) (array plane row : Nat) : CellRow := mget m (cellKey array plane row) 0
def setRow (m : SMap CellRow) (array plane row : Nat) (v : CellRow) : SMap CellRow := mset m (cellKey array plane row) 0 v

/-- The rows of a plane in row order. -/
def planeRows (m : SMap CellRow) (array plane : Nat) : List CellRow := (List.range 512).map fun r => getRow m array plane r

/-! ### Tag columns 532-535 (R284): tag bit t is in row t / 4, column 532 + t mod 4 -/

def tagMask : CellRow := 0xF#544 <<< 532

def tagNibble (v : CellRow) : Nat := (v.toNat >>> 532) % 16

/-- The first n tag bytes of the plane's rows; byte k lies in rows 2k and 2k + 1. -/
def tagBytes (rows : List CellRow) : List Byte :=
  match rows with
  | a :: b :: r => BitVec.ofNat 8 (tagNibble a + 16 * tagNibble b) :: tagBytes r
  | _ => []

/-- Program tag byte k: bits are only set. -/
def orTagByte (m : SMap CellRow) (array plane k : Nat) (b : Byte) : SMap CellRow :=
  let put := fun (m : SMap CellRow) r (n : Nat) => if n = 0 then m else setRow m array plane r (getRow m array plane r ||| (BitVec.ofNat 544 n <<< 532))
  put (put m (2 * k) (b.toNat % 16)) (2 * k + 1) (b.toNat / 16)

def orTagBytes (m : SMap CellRow) (array plane k : Nat) : List Byte → SMap CellRow
  | [] => m
  | b :: r => orTagBytes (orTagByte m array plane k b) array plane (k + 1) r

/-- The program count in a plane's tag (R45): bytes 14 and 15, in rows 28-31. -/
def tagCount (m : SMap CellRow) (array plane : Nat) : Nat :=
  let nib := fun r => tagNibble (getRow m array plane r)
  nib 28 + 16 * nib 29 + 256 * nib 30 + 4096 * nib 31

/-- The largest count among an array's planes (R45), as far as their tags tell it. -/
def arrCount (nv : NonVol) (a : Nat) : Nat :=
  (List.range 64).foldl (fun n p => if nv.cut.contains (a * 64 + p) then n else max n (tagCount nv.cells a p)) 0

/-- A retirement mark: 5 or more bits of tag byte 32 set. -/
def markedRetired (tag : List Byte) : Bool :=
  decide (5 ≤ ((List.range 8).filter fun i => ((tag[32]?).getD 0).getLsbD i).length)

/-- The valid remaps of a tag: data column, spare column (R23, R284). -/
def tagRemaps (tag : List Byte) : List (Nat × Nat) :=
  ((List.range 8).filter fun i => bitOf (leAt tag (48 + 2 * i) 2) 15).map fun i =>
    let e := leAt tag (48 + 2 * i) 2
    (bits e 8 0, 536 + bits e 11 9)

/-- Tag bytes 48-63 for an array's remaps. -/
def remapBytes (rs : List (Nat × Nat)) : List Byte :=
  sub ((rs.take 8).flatMap fun e => leBytes 2 (e.1 + (e.2 - 536) * 512 + 0x8000)) 0 16

/-! ### Logical columns: remaps applied (R23, R40) -/

/-- A row as verify-read returns it: a remapped data column reads its spare column; spare columns are left out. -/
def logicalRow (remaps : List (Nat × Nat)) (v : CellRow) : CellRow :=
  let base := v &&& ((1#544 <<< 536) - 1)
  remaps.foldl (fun acc e => if v.getLsbD e.2 then acc ||| (1#544 <<< e.1) else acc &&& ~~~(1#544 <<< e.1)) base

/-- The cells to program for image bits: a remapped column goes to its spare column and is itself left OFF (log 17). -/
def physicalRow (remaps : List (Nat × Nat)) (img : CellRow) : CellRow :=
  remaps.foldl (fun acc e => if img.getLsbD e.1 then (acc ||| (1#544 <<< e.2)) &&& ~~~(1#544 <<< e.1) else acc) img

/-! ### Images (R278): 512 rows of 68 bytes -/

def imageMask : CellRow := (1#544 <<< 532) - 1

def rowBytes (v : CellRow) : List Byte := leBytes 64 (v.toNat % 2 ^ 512) ++ leBytes 3 ((v.toNat >>> 512) % 2 ^ 20) ++ [0]

def rowOfBytes (b : List Byte) : CellRow := BitVec.ofNat 544 (leNat (sub b 0 64) + (leAt b 64 3 % 2 ^ 20) * 2 ^ 512)

def imageBytes (rows : List CellRow) : List Byte := rows.flatMap rowBytes

/-- The 512 rows of an image of 34,816 bytes; the count is fuel. -/
def imageRows : Nat → List Byte → List CellRow
  | 0, _ => []
  | n + 1, b => rowOfBytes (b.take 68) :: imageRows n (b.drop 68)

/-- The rows that a verify-read returns: remaps applied, and the bits that read wrong flipped. -/
def readPlane (m : SMap CellRow) (remaps : List (Nat × Nat)) (wrong : List (Nat × CellRow)) (array plane : Nat) : List CellRow :=
  (List.range 512).map fun r => logicalRow remaps (getRow m array plane r) ^^^ aget wrong r 0

/-- The plane hash of rows as read (R284). -/
def planeHash (rows : List CellRow) : Digest := sha3 (imageBytes rows)

/-! ### Program operations -/

/-- Every cell of the plane OFF. -/
def erasePlane (m : SMap CellRow) (array plane : Nat) : SMap CellRow :=
  mclear m (cellKey array plane 0) (cellKey array plane 0 + 512)

/-- A plane whose erase has not ended: its tag reads erased, its other cells are free values. -/
def partErase (ix : Nat) (m : SMap CellRow) (array plane : Nat) : SMap CellRow :=
  (List.range 512).foldl (fun m r => setRow m array plane r (Config.cells ix r &&& ~~~tagMask)) m

/-- Tag bytes 0-31 and 48-63 of step 2 of R41. -/
def tagOf (p : Prog) : List Byte :=
  leBytes 4 p.crate ++ leBytes 4 p.gen ++ leBytes 4 p.chunk ++ leBytes 1 p.off ++ leBytes 1 p.format ++ leBytes 2 p.count ++
    leBytes 8 p.seed.toNat ++ leBytes 4 p.stamp ++ List.replicate 4 0

/-- The tag bytes as step 2 of R41 leaves them, the remap list with them. -/
def fullTag (p : Prog) (remaps : List (Nat × Nat)) : List Byte := tagOf p ++ List.replicate 16 0 ++ remapBytes remaps

/-- The tag cells of a row that step 2 programs. -/
def tagCells (p : Prog) (remaps : List (Nat × Nat)) (r : Nat) : CellRow :=
  let b := (((fullTag p remaps)[r / 2]?).getD 0).toNat
  BitVec.ofNat 544 (if r % 2 = 0 then b % 16 else b / 16) <<< 532

/-- What a row holds, in logical columns 0-535, when steps 1-3 of R41 have done their work. -/
def wantRow (p : Prog) (remaps : List (Nat × Nat)) (r : Nat) : CellRow := (((p.rows[r]?).getD 0) &&& imageMask) ||| tagCells p remaps r

/-- The cells when the operation in progress of a plane's programming ends as it should. A failing row that is programmed
once more takes its tag cells with it (R42). -/
def opEnd (p : Prog) (remaps : List (Nat × Nat)) (ix : Nat) (m : SMap CellRow) : SMap CellRow :=
  match p.phase with
  | .erase n => if n + 1 < 32 then partErase ix m p.array p.plane else erasePlane m p.array p.plane
  | .tag => orTagBytes (orTagBytes m p.array p.plane 0 (tagOf p)) p.array p.plane 48 (remapBytes remaps)
  | .row r => setRow m p.array p.plane r (getRow m p.array p.plane r ||| physicalRow remaps (((p.rows[r]?).getD 0) &&& imageMask) |||
      (if p.again then tagCells p remaps r else 0))
  | .compare => m
  | .hash => orTagBytes m p.array p.plane 64 (digestBytes (planeHash p.rows))

/-- The cells when the operation in progress is cut off (R452): an erase leaves free values; of the cells that a row or tag
operation was still to set, which ones it has set is a free value, and no other cell changes. -/
def opCut (p : Prog) (remaps : List (Nat × Nat)) (ix : Nat) (m : SMap CellRow) : SMap CellRow :=
  match p.phase with
  | .erase _ => partErase ix m p.array p.plane
  | _ =>
    let m' := opEnd p remaps ix m
    (List.range 512).foldl (fun n r => setRow n p.array p.plane r (getRow m p.array p.plane r ||| (getRow m' p.array p.plane r &&& Config.cells ix r))) m

def isErase : ProgPhase → Bool | .erase _ => true | _ => false

/-- A plane's key in the list of planes whose erase was cut off. -/
def cutKey (p : Prog) : Nat := p.array * 64 + p.plane

/-- The program operations in progress: a plane's programming whose array holds a program grant (R37). -/
def inProgress (d : Dev) : List Prog := d.stock.progs.filter fun p => decide ((getArr d p.array).grant = some .program)

/-- Every operation in progress ends, whole or cut off; nothing further starts. -/
def endOps (whole : Bool) (d : Dev) (nv : NonVol) : NonVol :=
  { nv with
    cells := (inProgress d).foldl (fun m p =>
      let rs := (getArr d p.array).remaps
      if whole then opEnd p rs d.freeIx m else opCut p rs d.freeIx m) nv.cells,
    cut := (inProgress d).foldl (fun l p =>
      if isErase p.phase then linsert l (cutKey p) else if decide (p.phase = .tag) && whole then lremove l (cutKey p) else l) nv.cut }

end Sys2Proof.Machine
end

