-- ==== Sys2Proof/Machine/Flags.lean ====
section
/-! DEFINITION. The W1C flag rule (R402), the summary (R419) and the _LAST words of the event registers. -/
namespace Sys2Proof.Machine

/-- Flags that each event register defines, from bit 0 up. -/
def evBits : EvId → Nat
  | .cv => 8 | .cvDp => 6 | .cvQuant => 6 | .chNet => 6 | .bl => 4 | .blStep => 5 | .pt => 8 | .ep => 9 | .st => 8
  | .tg => 8 | .chFault => 9 | .wb => 9 | .sc => 8 | .chHost => 6

/-- Software writes m to the register: the flags of m are cleared, the counters stand (R402). -/
def clearFlags (m : Word) (r : EvReg) : EvReg := { r with flags := r.flags &&& ~~~m }

/-- The hardware sets of one cycle, after its software clear: the set wins (R402). -/
def hitAll (e : EvId) (cycle : Nat) (hs : List EvHit) (r : EvReg) : EvReg := hs.foldl (fun r h => evHit cycle (evAux e r h) r) r

/-- CH_IRQ_SUMMARY (R419): each bit the OR of one register's flags. -/
def summary (d : Dev) : Word :=
  (List.range 14).foldl (fun (s : Word) i => if ((d.evs[i]?).getD {}).flags ≠ 0#32 then s ||| (1#32 <<< i) else s) 0#32

def evIds : List EvId :=
  [.cv, .cvDp, .cvQuant, .chNet, .bl, .blStep, .pt, .ep, .st, .tg, .chFault, .wb, .sc, .chHost]

end Sys2Proof.Machine
end

