-- ==== Sys2Proof/Machine/Operands.lean ====
section
/-! DEFINITION. The operand forms: the parameter bytes of host commands (R407, R415), the words of a script (R103) and
the header line of an activation block (R113). -/
namespace Sys2Proof.Machine

/-! ### Host commands -/

/-- Entry bytes [b, b + n) of a command, b ≥ 8, as a little-endian number. -/
def param (p : BitVec 448) (b n : Nat) : Nat := (p.toNat >>> (8 * (b - 8))) % 2 ^ (8 * n)

/-- Bits of the params that bytes [b, b + n) hold. -/
def byteMask (b n : Nat) : Nat := (2 ^ (8 * n) - 1) <<< (8 * (b - 8))

/-- The bits of the params that each opcode uses (R415); none for an unknown opcode. -/
def usedBits : Nat → Option Nat
  | 0x0001 => some 0
  | 0x0002 => some (byteMask 8 8 ||| byteMask 16 4 ||| byteMask 20 32)
  | 0x0003 => some (byteMask 8 8 ||| byteMask 16 4 ||| byteMask 20 2 ||| (1 <<< 112))
  | 0x0004 => some (byteMask 8 8 ||| byteMask 16 4)
  | 0x0010 => some (byteMask 8 4 ||| byteMask 12 4)
  | 0x0011 => some (byteMask 8 4 ||| byteMask 12 4 ||| byteMask 16 8 ||| byteMask 24 1 ||| byteMask 26 2)
  | 0x0012 => some 0
  | 0x0013 => some (byteMask 8 4 ||| byteMask 12 4)
  | 0x0020 => some 0
  | 0x0021 => some (byteMask 8 4 ||| byteMask 12 4)
  | 0x0022 => some 0
  | 0x0023 => some 0
  | 0x0024 => some 0
  | 0x0030 => some (byteMask 8 1 ||| byteMask 9 1 ||| byteMask 10 1 ||| byteMask 12 4 ||| byteMask 16 4 ||| byteMask 20 4 ||| byteMask 24 4)
  | 0x0031 => some (byteMask 8 1 ||| byteMask 9 1 ||| byteMask 12 4 ||| byteMask 16 8)
  | 0x0032 => some (byteMask 8 1)
  | 0x0033 => some (byteMask 8 1 ||| byteMask 12 4)
  | 0x0034 => some (byteMask 8 1)
  | 0x0035 => some (byteMask 8 2)
  | 0x0036 => some (byteMask 8 1 ||| byteMask 12 2 ||| byteMask 14 2 ||| byteMask 16 4)
  | 0x0037 => some (byteMask 8 1 ||| byteMask 12 4 ||| byteMask 16 4)
  | 0x0040 => some (byteMask 8 2 ||| (0x1F <<< 16) ||| byteMask 12 2 ||| byteMask 16 4 ||| byteMask 20 4 ||| byteMask 24 16)
  | 0x0041 => some (byteMask 8 4 ||| byteMask 12 2 ||| byteMask 14 1 ||| byteMask 16 4 ||| byteMask 20 8 ||| byteMask 28 8)
  | 0x0042 => some (byteMask 8 4)
  | 0x0043 => some (byteMask 8 4)
  | 0x0044 => some (byteMask 8 4)
  | 0x0045 => some (byteMask 8 2 ||| (1 <<< 16))
  | 0x0050 => some (byteMask 8 1 ||| byteMask 9 1)
  | 0x0051 => some (byteMask 8 1 ||| byteMask 9 1)
  | _ => none

/-- The format check of R409: known opcode, every reserved bit of the head and the params zero. -/
def formatOk (c : Cmd) : Bool :=
  match usedBits c.opcode with
  | none => false
  | some u => decide (c.flags &&& 0xFE = 0) && decide (c.rsv = 0) && decide (c.params &&& ~~~(BitVec.ofNat 448 u) = 0)

/-- The states in which a command is allowed (R416), with R414's exception for FAULTED without firmware. -/
def legalStates : Nat → List DevState
  | 0x0001 => [.awaitFw, .awaitPlan, .held, .stocking, .ready, .serving, .draining, .faulted]
  | 0x0002 => [.awaitFw, .awaitPlan, .held, .stocking, .ready, .serving, .draining, .faulted]
  | 0x0003 => [.awaitPlan, .held, .stocking, .ready, .serving, .draining, .faulted]
  | 0x0004 => [.ready, .serving, .draining, .faulted]
  | 0x0010 => [.awaitFw]
  | 0x0011 => [.ready, .serving, .draining]
  | 0x0012 => [.ready, .serving, .draining]
  | 0x0013 => [.stocking, .ready, .serving, .draining]
  | 0x0020 => [.awaitPlan, .held, .stocking, .ready, .faulted]
  | 0x0021 => [.ready, .serving, .draining]
  | 0x0022 => [.ready]
  | 0x0023 => [.serving]
  | 0x0024 => [.draining]
  | 0x0030 => [.stocking, .ready, .serving]
  | 0x0031 => [.ready, .serving]
  | 0x0032 => [.ready, .serving]
  | 0x0033 => [.ready, .serving, .draining]
  | 0x0034 => [.stocking, .ready, .serving]
  | 0x0035 => [.stocking, .ready, .serving]
  | 0x0036 => [.ready, .serving]
  | 0x0037 => [.stocking]
  | 0x0040 => [.ready, .serving, .draining]
  | 0x0041 => [.ready, .serving]
  | 0x0042 => [.ready, .serving, .draining]
  | 0x0043 => [.serving, .draining]
  | 0x0044 => [.serving]
  | 0x0045 => [.ready, .serving, .draining]
  | 0x0050 => [.stocking, .ready, .serving, .draining]
  | 0x0051 => [.stocking, .ready, .serving, .draining]
  | _ => []

def legal (opc : Nat) (st : DevState) (fw : Bool) : Bool :=
  (legalStates opc).contains st && (decide (st ≠ .faulted) || fw || decide (opc ≤ 2))

end Sys2Proof.Machine
end

