-- ==== Sys2Proof/Machine/Rings.lean ====
section
/-! DEFINITION. Command and completion rings (R405, R406, R409-R411, R421): acceptance, completion, doorbells. -/
namespace Sys2Proof.Machine

/-- log2 of the entries; a value outside 4-12 acts as the nearer end (log 14). -/
def ringLog (r : Ring) : Nat := max 4 (min 12 r.log2)
def ringSize (r : Ring) : Nat := 2 ^ ringLog r

/-- CPL_CTL.vector as it acts and reads back: below 8 as 8 + i (R405). -/
def ringVector (i : Nat) (r : Ring) : Nat := if r.vector < 8 then 8 + i else r.vector
def ringCount (r : Ring) : Nat := if r.count = 0 then 1 else r.count

/-- A ring whose next command can be taken (R406, R410). -/
def ringReady (d : Dev) (i : Nat) : Bool :=
  let r := getRing d i
  decide (i < 8) && r.enable && r.running && ! r.stopping && r.job.isNone && decide (r.head ≠ r.tail) &&
    decide ((r.cplTail + 1) % ringSize r ≠ r.cplHead % ringSize r)

/-- The ring that the counting house serves next: round-robin, after the ring it served last (R410). -/
def nextRing (d : Dev) : Option Nat :=
  ((List.range 8).map fun k => (d.host.lastRing + 1 + k) % 8).find? fun i => ringReady d i

/-- Rings are served in every state but COLD, while the function is a bus master (R406, R414) and no switch of images
holds them (R436); a stopped clock of the PCIe endpoint or of the counting house holds them too (R14). -/
def serves (d : Dev) (i : Nat) : Bool :=
  decide (d.state ≠ .cold) && d.host.busMaster && ! d.sec.switching && ringOn d 28 && ringOn d 45 && decide (nextRing d = some i)

/-- The device has read the entry: CRING_HEAD advances (R406). -/
def takeEntry (i : Nat) (d : Dev) : Dev :=
  let d := modRing i (fun r => { r with head := (r.head + 1) % ringSize r }) d
  { d with host := { d.host with lastRing := i } }

/-- A ring stops on a DMA error (R411). -/
def ringFail (i : Nat) (d : Dev) : Dev :=
  raise .chHost 2 i 0 (modRing i (fun r => { r with error := true, running := false, enable := ! r.stopping && r.enable, stopping := false, job := none }) d)

/-- The ring's message for its completions (R421). -/
def ringMsg (i : Nat) (d : Dev) : Dev :=
  msix (ringVector i (getRing d i)) (modRing i (fun r => { r with posted := 0 }) d)

/-- Count a posted completion, and send the ring's vector when due (R421). -/
def coalesce (i : Nat) (quiet : Bool) (d : Dev) : Dev :=
  if quiet then d else
  let d := modRing i (fun r => { r with posted := r.posted + 1 }) d
  let r := getRing d i
  if r.irqEn && (decide (r.time = 0) || decide (ringCount r ≤ r.posted)) then ringMsg i d else d

/-- A completion entry (R408), little-endian (R8). -/
def cplEntry (cid : W16) (opcode : Nat) (st : Status) (ds : DevState) (phase : Bool) (res head : Nat) : List Byte :=
  leBytes 2 cid.toNat ++ leBytes 2 opcode ++ leBytes 1 (statusCode st) ++ leBytes 1 (stateCode ds) ++ leBytes 1 (b2n phase) ++ [0] ++ leBytes 8 res ++
    leBytes 2 head ++ List.replicate 14 0

/-- Host address of the slot that the next entry takes. -/
def cplAddr (r : Ring) : Nat := r.cplBase.toNat + 32 * r.cplTail

/-- Post a completion (R406, R408). The result is 0 unless the status is OK, except for PLAN_LOAD; a write that ends in
error stops the ring and keeps the command's effects (R411). -/
def post (i opcode : Nat) (cid : W16) (flags : Byte) (head : Nat) (st : Status) (res : Nat) (wrOk : Bool) (d : Dev) : Dev :=
  if ! wrOk then ringFail i d else
  let r := getRing d i
  let res := if st = .ok ∨ opcode = 0x0020 then res else 0
  let d := emit (.completion i (cplAddr r) (cplEntry cid opcode st d.state r.phase res head)) d
  let t := (r.cplTail + 1) % ringSize r
  let r' := { r with cplTail := t, phase := if t = 0 then ! r.phase else r.phase, job := none,
                     enable := r.enable && ! r.stopping, running := r.running && ! r.stopping, stopping := false }
  coalesce i (flags.getLsbD 0) (setRing d i r')

/-- What a command's own rule decides: a completion now, or later by an event of its own (R415). -/
inductive Verdict where
  | now (st : Status) (result : Nat)
  | later
  deriving DecidableEq, Repr

def ok0 (d : Dev) : Dev × Verdict := (d, .now .ok 0)
def fail (st : Status) (d : Dev) : Dev × Verdict := (d, .now st 0)

/-- The completion of a ring's command in progress. -/
def finishJob (i : Nat) (st : Status) (res : Nat) (d : Dev) : Dev :=
  match (getRing d i).job with
  | none => d
  | some j => post i j.opcode j.cid j.flags j.head st res j.wrOk d

/-- A command of opcode opc taken from its ring: format, state, then its own checks (R409). An entry with another known
opcode is not this row's command; an entry with an unknown opcode completes with BAD_ARG. -/
def hostCmd (opc : Nat) (c : Cmd) (own : Dev → Dev × Verdict) (d : Dev) : Dev :=
  if ! serves d c.ring then d else
  if c.opcode ≠ opc ∧ (usedBits c.opcode).isSome then d else
  let d := takeEntry c.ring d
  let head := (getRing d c.ring).head
  let done := fun (st : Status) (res : Nat) (d : Dev) => post c.ring c.opcode c.cid c.flags head st res c.wrOk d
  if ! formatOk c then done .badArg 0 d else
  if ! legal opc d.state (fwRuns d) then done .state 0 d else
  match own d with
  | (d', .now st res) => done st res d'
  | (d', .later) =>
    modRing c.ring (fun r => { r with job := some { opcode := c.opcode, cid := c.cid, flags := c.flags, params := c.params, head := head, wrOk := c.wrOk } }) d'

/-! ### The ring registers as the host writes them -/

/-- CRING_TAIL (R406). -/
def tailWrite (i v : Nat) (d : Dev) : Dev :=
  let r := getRing d i
  if ! r.enable || decide (ringSize r ≤ v % 4096) then raise .chHost 1 i 0 d
  else setRing d i { r with tail := v % 4096 }

/-- CRING_CTL.enable set (R406, R411): indices 0, phase 1, running; a stop that has not taken effect is withdrawn. -/
def enableSet (i : Nat) (d : Dev) : Dev :=
  let r := getRing d i
  if r.enable then setRing d i { r with stopping := false } else
  setRing d i { r with enable := true, running := true, error := false, stopping := false, tail := 0, head := 0,
                       cplHead := 0, cplTail := 0, phase := true, posted := 0 }

/-- CRING_CTL.enable cleared (R406): at once, or once the command in progress has posted its completion. -/
def enableClear (i : Nat) (d : Dev) : Dev :=
  let r := getRing d i
  if r.job.isSome then setRing d i { r with stopping := true }
  else setRing d i { r with enable := false, running := false }

/-- CPL_HEAD (R406). -/
def cplHeadWrite (i v : Nat) (d : Dev) : Dev := modRing i (fun r => { r with cplHead := v % 4096 }) d

end Sys2Proof.Machine
end

