-- ==== Sys2Proof/Machine/Boot.lean ====
section
/-! DEFINITION. Start-up, identity, firmware update, confirmation and fuses (section 15). -/
namespace Sys2Proof.Machine

/-! ### Fuses (R427) -/

/-- A floor step counts as blown when either of its fuses reads blown; step k is bit k - 1. -/
def floorBits (f : Fuses) : BitVec 64 := f.floorA ||| f.floorB

/-- Consecutive blown steps from step 1; the count is fuel. -/
def runLength : Nat → Nat → Nat
  | 0, _ => 0
  | n + 1, v => if v % 2 = 1 then 1 + runLength n (v / 2) else 0

def floorOf (f : Fuses) : Nat := runLength 64 (floorBits f).toNat

/-- A blown step above the first unblown one makes the field invalid. -/
def floorValid (f : Fuses) : Bool := decide ((floorBits f).toNat < 2 ^ floorOf f)

def locked (f : Fuses) : Bool := decide (f.lock ≠ 0)

/-! ### Identity (R429) -/

def cdi0 (nv : NonVol) : Digest :=
  sha3 (asciiBytes "DX-L0" ++ digestBytes nv.fuses.secret ++ digestBytes nv.romDigest ++ [if locked nv.fuses then 1 else 0])

def labelled (l : String) (x : Digest) : Digest := sha3 (asciiBytes l ++ digestBytes x)

/-- Key pairs, encapsulations and signatures are the named algorithms' (log 9): 1 ML-DSA-44 public key of a seed, 2
ML-KEM-768 encapsulation key of d and z, 3 ML-DSA-44 signature by the key of a seed over a digest. -/
def mldsaKey (seed : Digest) : List Byte := sub (Config.identity 1 (digestBytes seed)) 0 1312
def mldsaSign (seed : Digest) (msg : Digest) : List Byte := sub (Config.identity 3 (digestBytes seed ++ digestBytes msg)) 0 2420

def deviceIdKey (nv : NonVol) : List Byte := mldsaKey (labelled "DX-ID" (cdi0 nv))
def kemKey (nv : NonVol) : List Byte :=
  sub (Config.identity 2 (digestBytes (labelled "DX-KEM-d" (cdi0 nv)) ++ digestBytes (labelled "DX-KEM-z" (cdi0 nv)))) 0 1184

def fwDigest (d : Dev) : Digest := if fwRuns d then ((d.sec.running.map (·.digest)).getD 0) else 0
def fwVersion (d : Dev) : W64 := if fwRuns d then ((d.sec.running.map (·.version)).getD 0) else 0
def fwSvn (d : Dev) : Nat := if fwRuns d then ((d.sec.running.map (·.svn)).getD 0) else 0

def cdi1 (d : Dev) (nv : NonVol) : Digest :=
  sha3 (asciiBytes "DX-L1" ++ digestBytes (cdi0 nv) ++ digestBytes (fwDigest d) ++ leBytes 1 (fwSvn d) ++ leBytes 1 (floorOf nv.fuses))

def aliasSeed (d : Dev) (nv : NonVol) : Digest := labelled "DX-ALIAS" (cdi1 d nv)

def endorsement (d : Dev) (nv : NonVol) : List Byte :=
  mldsaSign (labelled "DX-ID" (cdi0 nv))
    (sha3 (asciiBytes "DX-ENDORSE" ++ mldsaKey (aliasSeed d nv) ++ digestBytes (fwDigest d) ++ leBytes 8 (fwVersion d).toNat ++ leBytes 1 (fwSvn d)))

/-- The serial of the pattern set in force (R395). -/
def patSerial (d : Dev) : Nat := (d.mkt.pats.map (·.serial)).getD 0

/-- An attestation report (R441): 7,720 bytes. -/
def report (d : Dev) (nv : NonVol) (kind port sb : Nat) (nonce context : Digest) : List Byte :=
  let plan := d.plan.plan
  let flags := b2n (locked nv.fuses) + 2 * b2n d.sec.windowOpen + 4 * b2n d.sec.fellBack
  let head := asciiBytes "DXATTEST" ++ leBytes 2 1 ++ leBytes 1 kind ++ leBytes 1 (stateCode d.state) ++ leBytes 1 (floorOf nv.fuses) ++
    leBytes 1 flags ++ leBytes 2 nv.stepping ++ leBytes 8 (fwVersion d).toNat ++ leBytes 1 (fwSvn d) ++ leBytes 1 nv.fuses.revoked.toNat ++
    List.replicate 6 0 ++ digestBytes nv.romDigest ++ digestBytes (fwDigest d) ++
    digestBytes ((plan.map (·.digest)).getD 0) ++ leBytes 8 ((plan.map (·.planId.toNat)).getD 0) ++
    leBytes 8 ((plan.map (·.arith.toNat)).getD 0) ++ leBytes 8 ((plan.map (·.sliceId.toNat)).getD 0) ++
    leBytes 2 ((plan.map (·.rank)).getD 0) ++ leBytes 1 port ++ leBytes 1 sb ++ leBytes 4 (patSerial d) ++
    digestBytes nonce ++ digestBytes (sha3 (kemKey nv)) ++ digestBytes context
  let body := head ++ deviceIdKey nv ++ mldsaKey (aliasSeed d nv) ++ endorsement d nv
  body ++ mldsaSign (aliasSeed d nv) (sha3 body)

/-! ### Start-up (R164, R425, R426) -/

/-- AWAIT_FW once training, self-check and identity derivation have all ended. -/
def tryAwaitFw (d : Dev) : Dev :=
  if decide (d.state = .cold) && d.sec.romDone && d.sec.romOk && d.sec.idDone && d.sec.hbmDone && d.sec.hbmOk then enter .awaitFw d else d

def booting (d : Dev) : Bool := decide (d.state = .cold) && d.pwr.outOfReset

def hbmStackOf : HbmTrain → HbmStack
  | .full n => { trained := true, slow := false, lanes := n % 64 }
  | .slow n => { trained := true, slow := true, lanes := n % 64 }
  | .failed => {}

/-- R164. -/
def hbmTrained (res : List HbmTrain) (d : Dev) : Dev :=
  if ! booting d || d.sec.hbmDone then d else
  let at_ := fun h => (res[h]?).getD .failed
  let ok := (List.range 16).all fun h => decide (at_ h ≠ .failed)
  let stackMap := (List.range 16).foldl (fun m h => mset m h {} (hbmStackOf (at_ h))) d.dram.stackMap
  let d := { d with dram := { d.dram with stackMap := stackMap }, sec := { d.sec with hbmDone := true, hbmOk := ok } }
  if ok then tryAwaitFw d else enter .faulted d

/-- R426: the fuses are read with the self-check. -/
def romChecked (ok : Bool) (f : Fuses) (d : Dev) : Dev :=
  if ! booting d || d.sec.romDone then d else
  let ok := ok && floorValid f
  let d := { d with sec := { d.sec with romDone := true, romOk := ok, fuseRead := true } }
  if ok then tryAwaitFw d else enter .faulted d

def execHbmTrainingEnd (res : List HbmTrain) (s : State) : R := onDev (hbmTrained res) s
def execRomSelfCheckEnd (ok : Bool) (s : State) : R := onDev (romChecked ok s.nv.fuses) s
/-- R425, R429. -/
def execIdentityDerivationEnd (s : State) : R :=
  onDev (fun d => if booting d then tryAwaitFw { d with sec := { d.sec with idDone := true } } else d) s

/-! ### Images (R431) -/

/-- Staging bytes [off, off + n). -/
def staged (m : List Host.Cell) (off n : Nat) : List Byte := memReads m (stagingBase + off) n

/-- Entries of a pattern set; the count is fuel. -/
def patEntries : Nat → List Byte → List (List Byte)
  | 0, _ => []
  | n + 1, b => b.take 4096 :: patEntries n (b.drop 4096)

/-- A well-formed pattern set of exactly these bytes (R388; log 18). -/
def patParse (b : List Byte) : Option PatSet :=
  let n := leAt b 10 2
  if decide (b.take 8 = asciiBytes "DXFLPATS") && decide (leAt b 8 2 = 1) && decide (1 ≤ n) && decide (n ≤ 1023) &&
    decide (leAt b 16 8 = b.length) && decide (b.length = 64 + 4096 * n + 2432) then
    some { serial := leAt b 12 4, entries := patEntries n (b.drop 64) }
  else none

def fwImage (b : List Byte) : FwImage :=
  { version := BitVec.ofNat 64 (leAt b 16 8), svn := leAt b 24 1, digest := digestAt b 32, flags := BitVec.ofNat 8 (leAt b 11 1),
    revoke := leAt b 25 1, key := leAt b 10 1, handover := leAt b 26 2,
    patterns := if bitOf (leAt b 11 1) 0 then patParse (sub b (1600 + leAt b 64 4) (leAt b 68 4)) else none }

/-- The checks of R432 in their order: number and status of the first that fails. -/
def fwCheck (d : Dev) (nv : NonVol) (m : List Host.Cell) (j : FwJob) (sigOk : Bool) : Option (Nat × Status) :=
  let inRange := decide (0x0F000000 ≤ j.off) && decide (j.off + j.len ≤ 0x10000000) && decide (j.len ≤ 0x400000) && decide (4032 ≤ j.len)
  if ! inRange then some (1, .badArg) else
  let b := staged m j.off j.len
  let body := leAt b 12 4
  if j.len ≠ 1600 + body + 2432 then some (1, .badArg) else
  let i := fwImage b
  let fmt := decide (b.take 8 = asciiBytes "DXFIRMWR") && decide (leAt b 8 2 = 1) && decide (i.svn ≤ 64) && decide (i.flags.toNat < 8) &&
    decide (i.revoke < 16) && decide (leAt b 72 184 = 0) && decide (leAt b 1568 32 = 0) &&
    (! bitOf i.flags.toNat 0 || decide (leAt b 64 4 + leAt b 68 4 ≤ body))
  if ! fmt then some (2, .badArg) else
  let dw := match j.activate with
    | none => true
    | some a => (domEntry d a.domain).isSome && (decide (a.window = 0) || (decide (5 ≤ a.window) && decide (a.window ≤ 300)))
  if ! dw then some (3, .badArg) else
  let ho := match j.activate, d.sec.running with | some _, some r => decide (i.handover / 256 = r.handover / 256) | _, _ => true
  if ! ho then some (4, .badArg) else
  if ! (decide (nv.romKeys[i.key]? = some (sha3 (sub b 256 1312))) && ! nv.fuses.revoked.getLsbD i.key) then some (5, .auth) else
  if ! sigOk then some (6, .auth) else
  if i.digest ≠ sha3 (sub b 1600 body) then some (7, .auth) else
  if i.svn < floorOf nv.fuses then some (8, .stale) else
  match j.activate with
  | none => none
  | some a =>
    if i.version.toNat ≤ (fwVersion d).toNat then some (9, .stale) else
    let x := getDom d a.domain
    if a.step ≠ 0 ∧ x.belled ∧ a.step ≤ x.step then some (10, .stale) else none

/-- A switch of images (R436): the pending image runs, the running one becomes the previous, the window opens. -/
def switchFw (window : Nat) (d : Dev) : Dev :=
  let s := { d.sec with previous := d.sec.running, running := d.sec.pend, pend := none, armed := none, switching := true,
                        windowOpen := true, windowLen := window, windowTick := d.tick }
  msix 4 (raise .sc 2 0 0 { d with sec := s })

/-- The confirmation window of an activation: the command's, else the domain's fw_window, else 30 s. -/
def windowOf (d : Dev) (a : ArmedFw) : Nat :=
  if a.window ≠ 0 then a.window else
  let w := ((stepEntry d a.domain).map (·.fwWindow)).getD 0
  if w = 0 then 30 else w

/-- An armed activation at a bell of domain k that starts step s (R435). -/
def fwAtBell (k s : Nat) (d : Dev) : Dev :=
  match d.sec.armed with
  | none => d
  | some a => if a.domain = k ∧ a.step ≤ s then switchFw (windowOf d a) d else d

/-- Check 1-10 have ended for the oldest verification (R432, R435). A verification whose activation meets an armed one,
an open window, or a state without steps to come ends without effect (log 19). -/
def fwVerified (nv : NonVol) (m : List Host.Cell) (sigOk : Bool) (d : Dev) : Dev :=
  match d.sec.fwJobs with
  | [] => d
  | j :: rest =>
    let d := { d with sec := { d.sec with fwJobs := rest } }
    if j.activate.isSome && (d.sec.armed.isSome || d.sec.windowOpen) then finishJob j.ring .busy 0 d else
    match fwCheck d nv m j sigOk with
    | some (n, st) =>
      finishJob j.ring st 0 (raise .sc 0 0 0 { d with sec := { d.sec with lastFail := n, lastFailStatus := statusCode st } })
    | none =>
      let i := fwImage (staged m j.off j.len)
      match j.activate with
      | none =>
        if d.state ≠ .awaitFw then finishJob j.ring .state 0 d
        else finishJob j.ring .ok 0 { d with sec := { d.sec with running := some i, starting := true } }
      | some a =>
        let d1 := { d with sec := { d.sec with pend := some i } }
        if d.state = .ready ∧ a.step = 0 then switchFw (windowOf d1 a) (finishJob j.ring .ok 0 d1)
        else if d.state = .ready ∨ d.state = .serving ∨ d.state = .draining then
          finishJob j.ring .ok 0 (raise .sc 1 0 0 { d1 with sec := { d1.sec with armed := some a } })
        else finishJob j.ring .state 0 d

/-! ### Commands -/

def fwLoad (c : Cmd) (d : Dev) : Dev × Verdict :=
  let j : FwJob := { ring := c.ring, off := param c.params 8 4, len := param c.params 12 4, activate := none }
  ({ d with sec := { d.sec with fwJobs := d.sec.fwJobs ++ [j] } }, .later)

def fwActivateAt (c : Cmd) (d : Dev) : Dev × Verdict :=
  if d.sec.armed.isSome || d.sec.windowOpen then fail .busy d else
  let a : ArmedFw := { domain := param c.params 24 1, step := param c.params 16 8, window := param c.params 26 2 }
  let j : FwJob := { ring := c.ring, off := param c.params 8 4, len := param c.params 12 4, activate := some a }
  ({ d with sec := { d.sec with fwJobs := d.sec.fwJobs ++ [j] } }, .later)

/-- R435: STALE with nothing armed. -/
def fwCancel (d : Dev) : Dev × Verdict :=
  if d.sec.armed.isNone then fail .stale d else ok0 { d with sec := { d.sec with armed := none, pend := none } }

def execFwLoad (c : Cmd) (s : State) : R := onDev (hostCmd 0x10 c (fwLoad c)) s
def execFwActivateAt (c : Cmd) (s : State) : R := onDev (hostCmd 0x11 c (fwActivateAt c)) s
def execFwActivateCancel (c : Cmd) (s : State) : R := onDev (hostCmd 0x12 c fwCancel) s
def execFirmwareVerificationEnd (sigOk : Bool) (s : State) : R := onDev (fwVerified s.nv s.mem sigOk) s

/-- R425: the image that FW_LOAD verified runs. -/
def execClerksStart (s : State) : R :=
  onDev (fun d =>
    if d.sec.starting && decide (d.state = .awaitFw) then enter .awaitPlan { d with sec := { d.sec with starting := false } } else d) s

/-- R436: the new image has taken over. -/
def execClerkHandover (s : State) : R :=
  onDev (fun d => if d.sec.switching then { d with sec := { d.sec with switching := false }, doms := d.doms.map fun e => (e.1, { e.2 with workTick := d.tick }) } else d) s

/-! ### Patterns (R389) -/

def patternLoad (c : Cmd) (d : Dev) : Dev × Verdict :=
  ({ d with sec := { d.sec with patJobs := d.sec.patJobs ++ [(c.ring, param c.params 8 4, param c.params 12 4)] } }, .later)

/-- R389: AUTH, BAD_ARG and STALE in the order in which the rule lists them; the set takes effect at the next bell, or at
once outside SERVING. -/
def patVerified (m : List Host.Cell) (sigOk : Bool) (d : Dev) : Dev :=
  match d.sec.patJobs with
  | [] => d
  | (ring, off, len) :: rest =>
    let d := { d with sec := { d.sec with patJobs := rest } }
    let bad := fun st => finishJob ring st 0 (raise .sc 0 0 0 d)
    if ! sigOk then bad .auth else
    if off + len > 0x10000000 ∨ off < 0x0F000000 ∨ 0x400000 < len then bad .badArg else
    match patParse (staged m off len) with
    | none => bad .badArg
    | some p =>
      if p.serial < patSerial d then bad .stale else
      let mk := if d.state = .serving then { d.mkt with patsNext := some p } else { d.mkt with pats := some p, patsNext := none }
      finishJob ring .ok p.serial { d with mkt := mk }

def execPatternLoad (c : Cmd) (s : State) : R := onDev (hostCmd 0x13 c (patternLoad c)) s
def execPatternSetVerified (sigOk : Bool) (s : State) : R := onDev (patVerified s.mem sigOk) s

/-! ### Confirmation and fallback (R437, R438) -/

/-- The steps lo .. lo + n - 1, blown in ascending order; a step that does not read blown ends the sequence (log 20). -/
def blowSteps (bad : List Nat) : Nat → Nat → Fuses → Fuses
  | 0, _, f => f
  | n + 1, k, f =>
    if bad.contains k then f
    else blowSteps bad n (k + 1) { f with floorA := f.floorA ||| (1#64 <<< (k - 1)), floorB := f.floorB ||| (1#64 <<< (k - 1)) }

def blowKeys (bad : List Nat) (revoke own : Nat) (f : Fuses) : Fuses :=
  (List.range 4).foldl (fun f i =>
    if bitOf revoke i && decide (i ≠ own) && ! bad.contains (64 + i) then { f with revoked := f.revoked ||| (1#4 <<< i) } else f) f

/-- The commit of the running image: fuses after it, and whether one that was asked for did not read blown. -/
def commitFuses (bad : List Nat) (i : FwImage) (f : Fuses) : Fuses × Bool :=
  let fl := floorOf f
  let wantF := bitOf i.flags.toNat 1 && decide (fl < i.svn)
  let wantK := bitOf i.flags.toNat 2
  let f1 := if wantF then blowSteps bad (i.svn - fl) (fl + 1) f else f
  let f2 := if wantK then blowKeys bad i.revoke i.key f1 else f1
  let failF := wantF && (List.range (i.svn - fl)).any fun k => bad.contains (fl + 1 + k)
  let failK := wantK && (List.range 4).any fun k => bitOf i.revoke k && decide (k ≠ i.key) && bad.contains (64 + k)
  (f2, failF || failK)

def confirmFw (bad : List Nat) (d : Dev) (nv : NonVol) : Dev × NonVol :=
  match d.sec.windowOpen && ! d.sec.switching, d.sec.running with
  | true, some i =>
    let p := commitFuses bad i nv.fuses
    let d := msix 4 (raise .sc 3 0 0 { d with sec := { d.sec with windowOpen := false, previous := none } })
    let d := if p.2 then raise .sc 6 0 0 d else if p.1 ≠ nv.fuses then raise .sc 5 0 0 d else d
    (d, { nv with fuses := p.1 })
  | _, _ => (d, nv)

/-- The previous image runs again (R437). -/
def fallBack (d : Dev) : Dev :=
  let s := { d.sec with running := d.sec.previous, previous := none, windowOpen := false, switching := false, fellBack := true }
  msix 4 (raise .sc 4 0 0 { d with sec := s })

def execFwConfirm (bad : List Nat) (s : State) : R := onNv (confirmFw bad) s
def execConfirmationWindowExpiry (s : State) : R := onDev (fun d => if d.sec.windowOpen then fallBack d else d) s
/-- Outside a window a trap raises FAULT in every domain (R437). -/
def execClerkTrap (s : State) : R :=
  onDev (fun d => if ! fwRuns d then d else if d.sec.windowOpen then fallBack d else raiseFaultAll d) s

/-! ### ATTEST_GET (R415, R441) -/

def attestGet (nv : NonVol) (c : Cmd) (d : Dev) : Dev × Verdict :=
  let addr := param c.params 8 8
  if addr % 4096 ≠ 0 ∨ param c.params 16 4 < 7720 then fail .badArg d else
  let r := report d nv 0 0 0 (BitVec.ofNat 256 (param c.params 20 32)) 0
  (if c.wrOk then emit (.hostWrite addr r) d else d, .now .ok 7720)

def execAttestGet (c : Cmd) (s : State) : R := onDev (hostCmd 0x02 c (attestGet s.nv c)) s

end Sys2Proof.Machine
end

