-- ==== Sys2Proof/Machine/Topo.lean ====
section
/-! DEFINITION. Arrays and stalls on the die (R22, R48, R50), script words (R103), endpoints and routes (R134-R147). -/
namespace Sys2Proof.Machine

/-! ### Arrays (R22, R46, R50) -/

def aisleOf (a : Nat) : Nat := a / 768
def posOf (a : Nat) : Nat := a / 16 % 48
def isShelf (a : Nat) : Bool := decide (a % 16 = 15) && decide (a / 16 < 1024)

/-- The chunk-map entries of the plan in force. -/
def chunkMap (d : Dev) : List ChunkEntry := ((theDoc d).map (·.chunks)).getD []

/-- Shelf entries: chunk-map entries of the back-shelf crate (R301). -/
def shelfEntry (p : PlanDoc) (e : ChunkEntry) : Bool :=
  match p.shelf with | some s => decide (e.crate = s.crate) | none => false

/-- An array that the plan assigns to stock. -/
def isStock (d : Dev) (a : Nat) : Bool := (chunkMap d).any fun e => decide (e.array = a)

/-- Arrays that hold or will hold stock in place of a planned one: spares taken by copies, recoveries, and redirects. -/
def spareTaken (d : Dev) (a : Nat) : Bool :=
  d.net.copies.any (fun c => decide (c.spare = a)) || d.net.redirects.any (fun e => decide (e.2 = a)) ||
    d.net.recoveries.any (fun r => r.moves.any fun m => decide (m.2 = a)) ||
    d.net.fetches.any (fun f => f.planes.any fun q => decide (q.2.1 = a)) ||
    d.stock.parts.any (fun p => p.2.refresh.any fun r => r.moves.any fun m => decide (m.2.1 = a)) ||
    d.stock.parts.any (fun p => p.2.liveMap.any (fun m => decide (m.2.1 = a)) || p.2.sideMap.any (fun m => decide (m.2.1 = a)))

/-- A spare: neither stock nor back shelf, not retired and not taken. -/
def isSpare (d : Dev) (a : Nat) : Bool :=
  decide (a < 30720) && ! isShelf a && ! isStock d a && ! (getArr d a).retired && ! (getArr d a).retiring && ! (getArr d a).suspect &&
    ! d.net.fenced.contains (stallOf a) && ! spareTaken d a

/-- The spare for an array (R48): same aisle first, then the nearest aisle, lower aisle on a tie; in the aisle the nearest
position, lower on a tie; the lowest slot. The key orders the candidates. -/
def spareKey (a s : Nat) : Nat :=
  let da := (aisleOf a - aisleOf s) + (aisleOf s - aisleOf a)
  let dp := (posOf a - posOf s) + (posOf s - posOf a)
  (((da * 64 + aisleOf s) * 64 + dp) * 64 + posOf s) * 16 + s % 16

def takeSpare (d : Dev) (a : Nat) : Option Nat :=
  (((List.range 30720).filter fun s => isSpare d s).foldl (fun (b : Option Nat) s =>
    match b with
    | none => some s
    | some x => if spareKey a s < spareKey a x then some s else b) none)

/-- The role of an array (R53). -/
def roleOf (d : Dev) (a : Nat) : Nat :=
  if (getArr d a).retired then 3 else if isShelf a then 2 else if isStock d a || spareTaken d a then 1 else 0

/-! ### Script words (R103) -/

structure Sw where
  op : Nat
  sel : Nat
  a : Nat
  flags : Nat
  b : Nat
  c : Nat
  rsv : Nat
  deriving DecidableEq, Repr

def swOf (w : W64) : Sw :=
  let v := w.toNat
  { op := bits v 63 56, sel := bits v 55 45, a := bits v 44 32, flags := bits v 31 29, b := bits v 28 16, rsv := bits v 15 13, c := bits v 12 0 }

/-! ### Endpoints (R134, R18) -/

def endpointOk (e : Nat) : Bool :=
  decide (e < 1920) || (decide (2048 ≤ e) && decide (e < 2094)) || (decide (2304 ≤ e) && decide (e < 2544))

def isRing (e : Nat) : Bool := decide (2048 ≤ e) && decide (e < 2094)

/-- Endpoint number of a porter: stall-side 0-239, ring-side 240-255 (R18, R134). -/
def porterEndpoint (p : Nat) : Nat := if p < 240 then 2304 + p else 2048 + 29 + (p - 240)
def portEndpoint (n : Nat) : Nat := 2048 + n

/-! ### Attachment (R135): the routers of a ring block's cart links, as (x, y) -/

def westRows (k : Nat) : List Nat :=
  (match k with
   | 0 => List.range 8 | 1 => (List.range 8).map (12 + ·) | 2 => (List.range 8).map (24 + ·) | 3 => (List.range 8).map (36 + ·)
   | _ => [])

def portRows (k : Nat) : List Nat :=
  match k with | 0 => [8, 9] | 1 => [10, 11] | 2 => [20, 21] | 3 => [22, 23] | 4 => [32, 33] | _ => [34, 35]

def ringRouters (b : Nat) : List (Nat × Nat) :=
  if b < 6 then (portRows b).map fun y => (0, y)
  else if b < 12 then (portRows (b - 6)).map fun y => (39, y)
  else if b < 16 then (westRows (b - 12)).map fun y => (0, y)
  else if b < 20 then (westRows (b - 16)).map fun y => (39, y)
  else if b < 24 then (List.range 8).map fun i => ([0, 8, 24, 32].getD (b - 20) 0 + i, 0)
  else if b < 28 then (List.range 8).map fun i => ([0, 8, 24, 32].getD (b - 24) 0 + i, 47)
  else if b = 28 then [(16, 0)]
  else if b < 33 then [(0, 44 + (b - 29))]
  else if b < 37 then [(39, 44 + (b - 33))]
  else if b < 41 then [(19 + (b - 37), 0)]
  else if b < 45 then [(16 + (b - 41), 47)]
  else [(17, 0), (18, 0)]

/-- The router at which an endpoint attaches; for a ring block, over its link. -/
def routerOf (e link : Nat) : Nat × Nat :=
  if e < 1920 then (e / 48, e % 48)
  else if 2304 ≤ e then (8 * (e - 2304) / 48, 8 * (e - 2304) % 48)
  else
    let l := ringRouters (e - 2048)
    l.getD (link % l.length) (0, 0)

/-! ### Routing (R143, R144). Ports: 0 north, 1 south, 2 east, 3 west, 4 local, 5 external, 6 porter -/

/-- The port of an endpoint at its router. A corner router has two external ports; the one of its north or south edge counts as 7 here. -/
def exitPort (r : Nat × Nat) (e : Nat) : Nat :=
  if e < 1920 then 4 else if ! isRing e then 6
  else if 2068 ≤ e ∧ e < 2076 ∧ (r.1 = 0 ∨ r.1 = 39) then 7 else 5

/-- XY: east or west until the aisle matches, then north or south, then out. -/
def xyPort (at_ dst : Nat × Nat) (out : Nat) : Nat :=
  if at_.1 < dst.1 then 2 else if dst.1 < at_.1 then 3
  else if at_.2 < dst.2 then 1 else if dst.2 < at_.2 then 0 else out

/-- The first active entry of R144 at a router that matches a destination and an input port. -/
def detourAt (p : PlanDoc) (act : BitVec 64) (r : Nat × Nat) (inp dest : Nat) : Option Nat :=
  let inp := if inp = 7 then 5 else inp
  (p.detours.find? fun e => decide (e.router = r.1 * 48 + r.2) && act.getLsbD e.set &&
    decide (e.lo ≤ dest) && decide (dest ≤ e.hi) && (decide (e.inp = 7) || decide (e.inp = inp))).map (·.out)

/-- Sets in force where a set k is active beside set 0. -/
def setsOf (k : Nat) : BitVec 64 := 1 ||| (1#64 <<< k)

/-- The next router by an output port, and the port it is entered on. -/
def hop (r : Nat × Nat) (out : Nat) : Option ((Nat × Nat) × Nat) :=
  match out with
  | 0 => if 0 < r.2 then some ((r.1, r.2 - 1), 1) else none
  | 1 => if r.2 < 47 then some ((r.1, r.2 + 1), 0) else none
  | 2 => if r.1 < 39 then some ((r.1 + 1, r.2), 3) else none
  | 3 => if 0 < r.1 then some ((r.1 - 1, r.2), 2) else none
  | _ => none

/-- One hop of a walk: the router, the output port taken, and whether the cart is on VC1. -/
structure HopRec where
  router : Nat
  out : Nat
  vc1 : Bool
  deriving DecidableEq, Repr

/-- Members of a chain, in the order in which the cart meets them (R147). -/
def chainMembers (first : Nat) (mode : Nat) (members : BitVec 48) : List Nat :=
  let l := ((List.range 48).filter fun p => members.getLsbD p).map fun p => first / 48 * 48 + p
  if mode = 3 then l.reverse else l

/-! ### The way of a cart or note (R143) -/

/-- Where a cart or note goes; a note has mode 0. -/
structure Way where
  dest : Nat
  link : Nat
  mode : Nat
  members : BitVec 48
  deriving DecidableEq, Repr

def Way.isChain (w : Way) : Bool := decide (w.mode = 2) || decide (w.mode = 3)

/-- The router of the destination, or of a chain's first member. -/
def Way.goal (w : Way) : Nat × Nat := routerOf w.dest w.link

/-- The endpoints that it reaches. -/
def Way.ends (w : Way) : List Nat := if w.isChain then chainMembers w.dest w.mode w.members else [w.dest]

/-- The router at which it leaves the net. -/
def Way.last (w : Way) : Nat × Nat := if w.isChain then ((w.ends.getLast?).map (routerOf · 0)).getD w.goal else w.goal

/-- R143: the output port at a router, and whether it goes on on VC1; `reached`: a chain's first member is reached. -/
def nextOut (p : PlanDoc) (act : BitVec 64) (w : Way) (r : Nat × Nat) (inp : Nat) (reached vc : Bool) : Nat × Bool :=
  match detourAt p act r inp w.dest with
  | some o => (if o = 5 then exitPort r w.dest else o, true)
  | none =>
    if w.isChain && reached then (if w.last = r then 4 else if w.mode = 3 then 0 else 1, vc)
    else (xyPort r w.goal (exitPort r w.dest), vc)

/-- The hops from a router on, and whether the last of them leaves the net where it should; the count is fuel. -/
def walk (p : PlanDoc) (act : BitVec 64) (w : Way) : Nat → Nat × Nat → Nat → Bool → Bool → List HopRec × Bool
  | 0, _, _, _, _ => ([], false)
  | n + 1, r, inp, reached, vc =>
    let reached := reached || decide (r = w.goal)
    let o := nextOut p act w r inp reached vc
    let h : HopRec := { router := r.1 * 48 + r.2, out := o.1, vc1 := o.2 }
    if 4 ≤ o.1 then ([h], decide (r = w.last) && decide (o.1 = if w.isChain then 4 else exitPort r w.dest))
    else match hop r o.1 with
      | none => ([h], false)
      | some (r', inp') => let q := walk p act w n r' inp' reached o.2; (h :: q.1, q.2)

/-- The way of a route entry. -/
def routeWay (r : RouteEntry) : Way := { dest := r.dest, link := r.link, mode := r.mode, members := r.members }

/-- The walk of a route entry with a detour set active, and whether it reaches its destination; a chain meets its members once each, in
order, the first first (R145, R147). -/
def routeWalk (p : PlanDoc) (set : Nat) (r : RouteEntry) : List HopRec × Bool :=
  let w := routeWay r
  let s := routerOf r.at_ (r.dest + r.queue)
  let q := walk p (setsOf set) w 600 s (exitPort s r.at_) false false
  (q.1, q.2 && (! w.isChain || decide ((q.1.map (·.router)).filter (fun x => w.ends.contains x) = w.ends)))

/-- The way of a note (R143, R144). -/
def noteWay (dest : Nat) : Way := { dest := dest, link := 0, mode := 0, members := 0 }

/-! ### Channel dependencies (R145) -/

abbrev Chn := Nat × Nat

/-- Dependencies between successive channels of one walk that satisfy sel. -/
def chnDeps (sel : HopRec → Bool) : List HopRec → List (Chn × Chn)
  | a :: b :: r =>
    let rest := chnDeps sel (b :: r)
    if sel a && sel b then ((a.router, a.out), (b.router, b.out)) :: rest else rest
  | _ => []

/-- Drop the dependencies whose target depends on nothing further; a cycle is what is left. The count is fuel. -/
def pruneDeps : Nat → List (Chn × Chn) → List (Chn × Chn)
  | 0, l => l
  | n + 1, l =>
    let l' := l.filter fun e => l.any fun f => decide (f.1 = e.2)
    if l'.length = l.length then l else pruneDeps n l'

def hasCycle (l : List (Chn × Chn)) : Bool := ! (pruneDeps l.length l).isEmpty

end Sys2Proof.Machine
end

