-- ==== Sys2Proof/Machine/PlanCheck.lean ====
section
/-! DEFINITION. The checks of a plan image (R201 and the rules it names). Each answers the index of the first item that
fails. Items of the PARTITION section are its entries, then the chunk-map entries (log 21). -/
namespace Sys2Proof.Machine

abbrev Bad := Option (Nat × Nat)

/-- Index of the first element that satisfies bad. -/
def firstIx {α : Type} (bad : α → Bool) (l : List α) : Option Nat := l.findIdx? bad

/-- The first element that conflicts with an earlier one. -/
def firstClash {α : Type} (clash : α → α → Bool) : Nat → List α → List α → Option Nat
  | _, _, [] => none
  | i, seen, x :: r => if seen.any (fun y => clash y x) then some i else firstClash clash (i + 1) (x :: seen) r

def clashIx {α : Type} (clash : α → α → Bool) (l : List α) : Option Nat := firstClash clash 0 [] l

/-- Section s, item i. -/
def inSect (s : Nat) (o : Option Nat) : Bad := o.map fun i => (s, i)
def whenBad (s : Nat) (b : Bool) : Bad := if b then some (s, 0) else none

def firstBad : List Bad → Bad
  | [] => none
  | some x :: _ => some x
  | none :: r => firstBad r

/-! ### 0x10 Arrays and partitions (R46, R204, R206) -/

def partBad (p : PlanDoc) (e : PartEntry) : Bool :=
  decide (15 < e.num) || decide (2 < e.kind) || decide (255 < e.stage) || decide (63 < e.tsr) || decide (3 < e.role) ||
    e.stalls.any (fun i => decide (1920 ≤ i)) ||
    (match p.domains.find? (·.num = e.domain) with
     | some x => e.stalls.any fun i => ! x.stalls.contains i
     | none => false)

def mapBad (p : PlanDoc) (e : ChunkEntry) : Bool :=
  decide (30720 ≤ e.array) || decide (64 < e.plane + e.planes) || decide (e.planes < 1) || decide (4 < e.format) ||
    (match p.parts.find? (·.num = e.part) with
     | some x => ! x.stalls.contains (stallOf e.array)
     | none => true) ||
    (isShelf e.array && ! shelfEntry p e) || (! isShelf e.array && shelfEntry p e)

/-- Two entries that share a plane, or a chunk index of one crate. -/
def mapClash (x y : ChunkEntry) : Bool :=
  (decide (x.array = y.array) && decide (x.plane < y.plane + y.planes) && decide (y.plane < x.plane + x.planes)) ||
    (decide (x.crate = y.crate) && decide (x.chunk = y.chunk))

def stockArrays (p : PlanDoc) : List Nat := (p.chunks.filter fun e => ! shelfEntry p e).foldl (fun l e => linsert l e.array) []

def arraysBad (p : PlanDoc) : Bool :=
  let st := stockArrays p
  decide (28672 < st.length) || decide (30720 - 1024 - st.length < 1024) ||
    (List.range 40).any fun a =>
      let room := if a < 21 then 720 else if a = 21 then 752 else 768
      decide (room ≤ (st.filter fun x => decide (aisleOf x = a)).length)

def check10 (p : PlanDoc) : Bad :=
  let n := p.parts.length
  firstBad [whenBad 1 (decide (n < 1) || decide (16 < n)), inSect 1 (firstIx (partBad p) p.parts),
    inSect 1 (clashIx (fun x y => decide (x.num = y.num) || x.stalls.any fun i => y.stalls.contains i) p.parts),
    inSect 1 ((firstIx (mapBad p) p.chunks).map (n + ·)), inSect 1 ((clashIx mapClash p.chunks).map (n + ·)),
    whenBad 1 (arraysBad p)]

/-! ### 0x12 Stall stores and scripts (R102, R103, R115, R123, R381) -/

def regionEnd (r : StoreRegion) : Nat := r.first + r.lines

def queueBad (q : QueueMap) : Bool :=
  q.regions.any (fun r => decide (6144 < regionEnd r)) ||
    (clashIx (fun x y => decide (x.first < regionEnd y) && decide (y.first < regionEnd x) && decide (0 < x.lines) && decide (0 < y.lines)) q.regions).isSome ||
    decide (2048 < (q.regions.filter (·.kind = .script)).foldl (fun n r => n + r.lines) 0) ||
    (decide (q.stall < 1920) && decide ((q.regions.filter (·.kind = .audit)).foldl (fun n r => n + r.lines) 0 < 128)) ||
    q.queues.any (fun e => decide (e.1 = 2047) || decide (4094 < e.1)) || ! endpointOk q.stall

/-- The block region that holds a line (R115). -/
def blockRegion (q : QueueMap) (line : Nat) : Option StoreRegion :=
  q.regions.find? fun r => decide (r.kind = .block) && decide (r.first ≤ line) && decide (line < regionEnd r)

def slotFits (q : QueueMap) (line : Nat) : Bool :=
  match blockRegion q line with | some r => decide (line + 57 ≤ regionEnd r) | none => false

def queueMapOf (p : PlanDoc) (i : Nat) : QueueMap :=
  (p.queues.find? (·.stall = i)).getD { stall := i, regions := [], queues := [], carried := [] }

/-- The lines that a word names lie in the stall store (R103). -/
def lineBad (x : Sw) : Bool :=
  let out := fun (l : Nat) => decide (6143 < l)
  match x.op with
  | 1 | 3 => out x.a || out x.b || out x.c
  | 2 => out x.a || out x.b || (bitOf x.flags 0 && out x.c)
  | 4 => out x.a || out x.b
  | 5 | 6 | 7 => out x.a || decide (6144 < x.a + x.b)
  | 8 => out x.a
  | _ => false

def wordBad (p : PlanDoc) (i : Nat) (q : QueueMap) (x : Sw) : Bool :=
  decide (x.op < 1) || decide (9 < x.op) || decide (x.rsv ≠ 0) || lineBad x ||
    (match x.op with
     | 2 => decide (x.sel < 1) || decide (65 < x.sel)
     | 1 => ! slotFits q x.a
     | 3 => ! p.kernels.any fun k => decide (k.stall = i) && decide (k.idx = x.sel)
     | 4 => ! slotFits q x.b
     | 5 | 6 => decide (x.b < 1) || decide (64 < x.b) || ((blockRegion q x.a).isSome && (decide (x.b < 57) || ! slotFits q x.a))
     | 7 => decide (x.b < 1) || decide (6143 < x.b)
     | _ => false)

def onlyDone (ws : List W64) : Bool := decide (ws.length = 1)

/-- A script's own faults. -/
def scriptWordsBad (p : PlanDoc) (i : Nat) (q : QueueMap) (ws : List W64) : Bool :=
  let xs := ws.map swOf
  decide (16384 < ws.length) || xs.any (wordBad p i q) || decide ((xs.filter (·.op = 9)).length ≠ 1) ||
    decide ((xs.getLast?.map (·.op)) ≠ some 9) || decide (128 < (xs.filter (·.op = 4)).length)

def scriptBad (p : PlanDoc) (s : StallScript) : Bool :=
  decide (1920 ≤ s.stall) || scriptWordsBad p s.stall (queueMapOf p s.stall) s.words ||
    (match s.cover with
     | none => ! onlyDone s.words
     | some (c, ws) =>
       decide (c = s.stall) || scriptWordsBad p c (queueMapOf p c) ws ||
         ! p.parts.any (fun e => e.stalls.contains s.stall && e.stalls.contains c) ||
         ! p.domains.any (fun e => e.stalls.contains s.stall && e.stalls.contains c) ||
         decide (16384 < ws.length + ((p.scripts.find? (·.stall = c)).map (·.words.length)).getD 0))

def check12 (p : PlanDoc) : Bad :=
  firstBad [inSect 7 (firstIx queueBad p.queues), inSect 7 (clashIx (fun x y => decide (x.stall = y.stall)) p.queues),
    inSect 2 (firstIx (scriptBad p) p.scripts), inSect 2 (clashIx (fun x y => decide (x.stall = y.stall)) p.scripts)]

/-! ### 0x13 Routes (R134, R145) -/

/-- No set, and every set that an entry or the fault map names; any other acts as none. -/
def detourSets (p : PlanDoc) : List Nat := (0 :: (p.faultMap.map (·.2) ++ p.detours.map (·.set))).eraseDups

def routeBad (p : PlanDoc) (r : RouteEntry) : Bool :=
  ! endpointOk r.dest || ! endpointOk r.at_ || decide (2047 < r.idx) || decide (r.mode = 1) || decide (3 < r.mode) ||
    (decide (2 ≤ r.mode) && (decide (1919 < r.dest) || decide ((chainMembers r.dest r.mode r.members).head? ≠ some r.dest))) ||
    (isRing r.dest && ! r.linkValid) ||
    ((detourSets p).any fun k =>
      let w := routeWalk p k r
      ! w.2 || (decide (k ≠ 0) && w.1.any fun h => p.faultMap.any fun f => decide (f.1 = h.router) && decide (f.2 = k)))

/-- Notes travel both ways between the ends of a route (log 22). -/
def noteWalk (p : PlanDoc) (set : Nat) (r : RouteEntry) : List HopRec × List HopRec :=
  let go := fun (a b : Nat) => let s := routerOf a 0; (walk p (setsOf set) (noteWay b) 600 s (exitPort s a) false false).1
  (go r.at_ r.dest, go r.dest r.at_)

def netsCyclic (p : PlanDoc) : Bool :=
  (detourSets p).any fun k =>
    hasCycle (p.routes.flatMap fun r => chnDeps (·.vc1) (routeWalk p k r).1) ||
      hasCycle (p.routes.flatMap fun r => let w := noteWalk p k r; chnDeps (fun _ => true) w.1 ++ chnDeps (fun _ => true) w.2)

/-- R144: a router holds up to 32 entries. -/
def tooManyDetours (p : PlanDoc) : Bool :=
  (p.detours.map (·.router)).eraseDups.any fun r => decide (32 < (p.detours.filter (·.router = r)).length)

def check13 (p : PlanDoc) : Bad :=
  firstBad [inSect 5 (firstIx (routeBad p) p.routes), whenBad 6 (tooManyDetours p), whenBad 6 (netsCyclic p)]

/-! ### 0x14 DRAM (R170, R172, R192) -/

def regionBad (r : DramRegion) : Bool :=
  decide (r.base % 65536 ≠ 0) || decide (r.size % 65536 ≠ 0) || decide (countingBase < r.base + r.size) ||
    (match r.kind with
     | .ticket => decide (r.size ≠ 0x20000000)
     | .pfx => decide (r.size ≠ 0x10000000)
     | .adapter => decide (r.size < 0x10000) || decide (0x1000000000 < r.size)
     | .kv => decide (r.size < 0x4000000)
     | _ => false)

def countKind (p : PlanDoc) (k : DramKind) : Nat := (p.regions.filter (·.kind = k)).length

def regionOf (p : PlanDoc) (k : DramKind) : DramRegion := (p.regions.find? (·.kind = k)).getD { kind := k, base := 0, size := 0 }

/-- A flow of a port block feeds a queue of a stall, through its own destination or as a member of its route's chain. -/
def portFeeds (p : PlanDoc) (i q : Nat) : Bool :=
  p.flows.any fun f => decide (f.queue = q) && (decide (f.dest = i) ||
    match p.routes.find? (fun r => decide (r.at_ = 2048 + f.port) && decide (r.idx = f.route)) with
    | some r => (routeWay r).ends.contains i
    | none => false)

/-- The entry bound of R192: RECVs that a port feeds, in scripts and in cover scripts, carried lines, and 256 bytes a ticket slot. -/
def journalBound (p : PlanDoc) : Nat :=
  let recvs := p.scripts.foldl (fun n s =>
    ((s.words ++ (s.cover.map (·.2)).getD []).map swOf).foldl (fun n x => if x.op = 6 ∧ portFeeds p s.stall x.sel then n + 64 * x.b else n) n) 0
  recvs + p.queues.foldl (fun n q => n + 64 * q.carried.length) 0 + 256 * p.steps.foldl (fun n e => n + e.slots) 0

def check14 (p : PlanDoc) : Bad :=
  firstBad [whenBad 9 (decide (64 < p.regions.length)), inSect 9 (firstIx regionBad p.regions),
    inSect 9 (clashIx (fun x y => decide (x.base < y.base + y.size) && decide (y.base < x.base + x.size)) p.regions),
    whenBad 9 (decide (countKind p .ticket ≠ 1) || decide (countKind p .pfx ≠ 1) || decide (countKind p .kv ≠ 1) ||
      decide (countKind p .journal ≠ 1) || decide (1 < countKind p .adapter) || decide ((regionOf p .journal).size < 3 * journalBound p))]

/-! ### 0x15 Descriptors (R183, R184) -/

def spaceOk (porter space : Nat) (dst : Bool) : Bool :=
  match space with
  | 0 | 1 => true
  | 2 | 3 => decide (porter < 240)
  | 4 => decide (240 ≤ porter)
  | 6 => dst
  | _ => false

def descBad (x : Desc) : Bool :=
  decide (4 < x.op) || decide (255 < x.porter) || ! spaceOk x.porter x.srcSpace false || ! spaceOk x.porter x.dstSpace true ||
    decide ((if x.porter < 240 then 2048 else 256) ≤ x.idx)

/-! ### 0x16 Quantisation (R85, R117, R119, R121, R126) -/

def notFinite (w : Word) : Bool := decide (bits w.toNat 30 23 = 255)

def check16 (p : PlanDoc) (audit : Bool) (size : Nat) : Bad :=
  firstBad [whenBad 13 (decide (255 < p.oAllow) || decide (511 < p.theta) || decide (p.eLo < -192) || decide (0 < p.eLo) ||
      decide (64 < p.outBudget) || (! audit && decide (128 < p.modelDevices)) || decide (size < p.modelDevices) || decide (2048 < p.modelDevices)),
    inSect 13 (firstIx notFinite p.consts), inSect 13 (firstIx (fun f => decide (3 ≤ f.2.2)) p.floors)]

/-! ### 0x17, 0x18 Steps and bells (R150, R204, R209, R215, R217) -/

def stepBad (e : StepEntry) : Bool :=
  decide (e.base < 64) || decide (8192 < e.base) || decide (e.slots < 1) || decide (64 < e.slots) || decide (e.base * 125 < e.allow * 8) ||
    decide (100 < e.widePct) || decide (1048575 < e.outRes) || (decide (e.fwWindow ≠ 0) && (decide (e.fwWindow < 5) || decide (300 < e.fwWindow)))

def domBad (size rank : Nat) (e : DomainEntry) : Bool :=
  decide (63 < e.num) || decide (32 < e.children.length) || decide (4 < e.depth) ||
    (! e.machine && (e.parent.isSome || ! e.children.isEmpty)) ||
    (e.children ++ e.parent.toList).any fun r => decide (size ≤ r) || decide (r = rank)

def flagBad (p : PlanDoc) (e : Nat × Nat) : Bool :=
  let defd := fun k => p.domains.any fun x => decide (x.num = k)
  decide (511 < e.1) || ! defd e.2 || (defd (e.1 / 8) && decide (e.1 % 8 ≠ 7))

def check18 (p : PlanDoc) (size rank : Nat) : Bad :=
  firstBad [inSect 11 (clashIx (fun x y => decide (x.num = y.num) || x.stalls.any fun i => y.stalls.contains i) p.domains),
    inSect 11 (firstIx (domBad size rank) p.domains), inSect 11 ((firstIx (flagBad p) p.flagMap).map (p.domains.length + ·)),
    inSect 1 (firstIx (fun e => ! p.domains.any fun x => decide (x.num = e.domain)) p.parts)]

/-! ### 0x1A Ports (R236) -/

def portEntryAt (p : PlanDoc) (n m : Nat) : Option PortEntry := p.ports.find? fun e => decide (e.port = n) && decide (e.sub = m)

/-- The two paths of a bell-tree edge (R236, R262): the first sub-port that faces the rank, and the first on another port. -/
def bellPaths (p : PlanDoc) (rank : Nat) : List PortEntry :=
  let l := p.ports.filter fun e => decide (e.role = 1) && decide (e.peerRank = rank)
  match l with
  | [] => []
  | e :: r => e :: (r.find? fun x => decide (x.port ≠ e.port)).toList

def treeRanks (p : PlanDoc) : List Nat := p.domains.flatMap fun e => e.parent.toList ++ e.children

def portBad (p : PlanDoc) (size rank : Nat) (e : PortEntry) : Bool :=
  decide (11 < e.port) || ! [1, 2, 4, 8].contains e.ways || decide (e.ways ≤ e.sub) || decide (2 < e.role) ||
    p.ports.any (fun x => decide (x.port = e.port) && decide (x.ways ≠ e.ways)) ||
    (List.range e.ways).any (fun m => (portEntryAt p e.port m).isNone) ||
    (decide (e.role = 1) && (decide (size ≤ e.peerRank) || decide (e.peerRank = rank))) ||
    ((treeRanks p).any (fun r => (bellPaths p r).contains e) && ! e.flags.getLsbD 4)

def planFlowBad (p : PlanDoc) (f : FlowEntry) : Bool :=
  let home := portEntryAt p f.port f.sub
  let alt := portEntryAt p f.altPort f.altSub
  let role : Nat := (home.map (·.role)).getD 0
  decide (49152 ≤ f.index) || home.isNone ||
    (decide (f.cls = 1) && (decide (f.port = f.altPort) || decide (role ≠ 1) || decide ((alt.map (·.role)).getD 0 ≠ role) ||
      decide ((home.map (·.peerRank)) ≠ (alt.map (·.peerRank))))) ||
    (decide (f.cls = 3) && decide (role = 1))

def check1A (p : PlanDoc) (size rank : Nat) : Bad :=
  firstBad [inSect 10 (firstIx (portBad p size rank) p.ports),
    inSect 10 (clashIx (fun x y => decide (x.port = y.port) && decide (x.sub = y.sub)) p.ports),
    whenBad 10 ((List.range 12).any fun n => ! p.ports.any fun e => decide (e.port = n)),
    whenBad 10 ((treeRanks p).any fun r => decide ((bellPaths p r).length < 2)),
    inSect 10 ((firstIx (planFlowBad p) p.flows).map (p.ports.length + ·)),
    inSect 10 ((clashIx (fun x y => decide (x.index = y.index)) p.flows).map (p.ports.length + ·))]

/-! ### 0x1B Digests (R285) -/

def digestEntryOk (e : DigestEntry) : Bool :=
  decide (e.leaves.length = e.chunks) && decide (e.seeds.length = e.chunks) && decide (merkleRoot e.leaves = e.root)

def digestOf (p : PlanDoc) (part : Nat) : Option DigestEntry := p.digests.find? (·.part = part)

def check1B (p : PlanDoc) : Bad :=
  firstBad [whenBad 14 (decide (16 < p.pubKeys.length)), inSect 14 (clashIx (fun x y => decide (x = y)) p.pubKeys),
    inSect 14 ((firstIx (fun e => ! digestEntryOk e ||
      p.chunks.any fun c => decide (c.part = e.part) && ! shelfEntry p c && (decide (c.crate ≠ e.crate) || decide (e.chunks ≤ c.chunk))) p.digests).map (p.pubKeys.length + ·)),
    inSect 14 ((clashIx (fun x y => decide (x.part = y.part)) p.digests).map (p.pubKeys.length + ·)),
    inSect 1 ((firstIx (fun c => ! shelfEntry p c && ! p.digests.any fun e => decide (e.part = c.part) && decide (e.crate = c.crate)) p.chunks).map (p.parts.length + ·)),
    inSect 14 (match p.shelf with
      | some s => if decide (s.chunks ≠ 1024) || ! digestEntryOk s then some (p.pubKeys.length + p.digests.length) else none
      | none => none)]

/-! ### 0x1C Serving (R310, R311, R355-R358) -/

def serveOk (p : PlanDoc) (size : Nat) (s : ServeCfg) : Bool :=
  let front := p.parts.find? fun x => x.role.testBit 0
  let k : Option Nat := match front with
    | none => none
    | some f => (p.steps[(p.domains.filter fun x => x.num < f.domain).length]?).map (·.slots)
  let ranks := s.stageRanks.flatten
  let depth : Nat := s.queues.foldl (fun n q => n + q.2) 0
  let kv := regionOf p .kv
  let pages := kv.size / 65536
  let pool := pages - (8 * pages + 65535) / 65536
  let need := 1 + s.layers * (1 + (s.kvTokens + s.tpp - 1) / s.tpp) + 1 + (s.kvTokens + 16383) / 16384
  decide (1 ≤ s.stages) && decide (s.stages ≤ 256) && decide (some s.slots = k) && decide (s.stages * s.slots ≤ 16384) &&
    decide (s.stageRanks.length = s.stages) && ranks.all (fun r => decide (r < size)) && decide (ranks.eraseDups.length = ranks.length) &&
    [64, 128, 256, 512, 1024, 2048].contains s.kvBytes && decide (s.tpp = 65536 / s.kvBytes) && decide (s.maxContext % s.tpp = 0) &&
    decide (0 < s.maxContext) && decide (s.maxContext ≤ min (8192 * s.tpp) 1048576) && decide (1 ≤ s.prefillDepth) && decide (s.prefillDepth ≤ 8) &&
    decide (1000 ≤ s.waitCapUs) && decide (s.waitCapUs ≤ 60000000) && decide (2000 ≤ s.retentionUs) && decide (s.retentionUs ≤ 60000000) &&
    decide (1 ≤ s.queues.length) && decide (s.queues.length ≤ 16384) && decide (depth ≤ 2097152) &&
    s.queues.all (fun q => decide (q.1 ≤ 7) && decide (1 ≤ q.2) && decide (q.2 ≤ 65535)) && decide (s.layers ≤ 8191) && decide (need ≤ pool) &&
    ((s.stageRanks.getLast?).getD []).contains s.reportRank

/-- Some front partition is of a kind. -/
def frontKind (p : PlanDoc) (sel : Nat → Bool) : Bool := p.parts.any fun x => x.role.testBit 0 && sel x.kind

/-- The SERVE section of a catalogue instance (R355). -/
def catServe (s : ServeCfg) : Bool := decide (s.stages = 1) && decide (s.kvBytes = 2048) && decide (s.maxContext = 32)

def frontRole (p : PlanDoc) : Bool := p.parts.any fun x => x.role.testBit 0

/-- Chunk-map entries of a partition in ascending chunk index. -/
def partChunks (p : PlanDoc) (n : Nat) : List ChunkEntry :=
  sortBy (fun x y => decide (x.chunk ≤ y.chunk)) (p.chunks.filter fun e => decide (e.part = n) && ! shelfEntry p e)

/-- Every chunk-map entry of a partition, shelf entries too, in ascending chunk index. -/
def partAll (p : PlanDoc) (n : Nat) : List ChunkEntry :=
  sortBy (fun x y => decide (x.chunk ≤ y.chunk)) (p.chunks.filter fun e => decide (e.part = n))

/-- The digests of a partition's crate; of the back-shelf crate where the partition is stocked from it (R301). -/
def partDigest (p : PlanDoc) (n : Nat) : Option DigestEntry :=
  match digestOf p n with
  | some e => some e
  | none => if (p.chunks.any fun e => decide (e.part = n) && shelfEntry p e) || decide (n = 16) then p.shelf else none

def catV (format : Nat) : Nat := if format = 4 then 512 else 128

/-- Vector groups of a partition: G consecutive chunks each (R357); the count is fuel. -/
def vecGroups (g : Nat) : Nat → List ChunkEntry → List (List ChunkEntry)
  | 0, _ => []
  | n + 1, l => if l.isEmpty then [] else l.take g :: vecGroups g n (l.drop g)

def consecutive : List ChunkEntry → Bool
  | a :: b :: r => decide (b.chunk = a.chunk + 1) && consecutive (b :: r)
  | _ => true

def groupOk (g : Nat) (l : List ChunkEntry) : Bool :=
  match l with
  | [] => true
  | x :: _ =>
    decide (l.length = g) && decide ((l.map (·.array)).eraseDups.length = g) &&
      l.all fun y => decide (stallOf y.array = stallOf x.array) && decide (y.plane = x.plane) && decide (y.planes = x.planes) && decide (y.param = x.param)

/-- The id interval of a group (R358). -/
def groupIds (format : Nat) (l : List ChunkEntry) : Nat × Nat :=
  match l with | [] => (0, 0) | x :: _ => (x.param, x.param + x.planes * catV format)

def catOk (p : PlanDoc) (c : CatEntry) : Bool :=
  let ch := partChunks p c.part
  let gs := vecGroups c.segments ch.length ch
  let planes := ch.foldl (fun n e => n + e.planes) 0
  let ids := gs.map (groupIds c.format)
  (decide (c.format = 0) || decide (c.format = 4)) && decide (1 ≤ c.segments) && decide (c.segments ≤ 8) && decide (512 * (c.segments - 1) < c.dims) &&
    decide (c.dims ≤ 512 * c.segments) && decide (c.queryCost ≤ 65535) && decide (1 ≤ c.kMax) && decide (c.kMax ≤ 256) && decide (c.sets ≤ 255) &&
    (decide (c.sets = 0) || p.regions.any fun r => decide (r.kind = .work) && decide (r.base ≤ c.maskBase) && decide (c.maskBase + c.sets * planes * 64 ≤ r.base + r.size)) &&
    decide (c.owners.length = c.sets) && consecutive ch && ch.all (fun e => decide (e.format = c.format)) && gs.all (groupOk c.segments) &&
    ids.all (fun i => decide (i.2 ≤ c.idEnd)) && (clashIx (fun x y => decide (x.1 < y.2) && decide (y.1 < x.2)) ids).isNone

def check1C (p : PlanDoc) (size : Nat) : Bad :=
  firstBad [whenBad 15 (match p.serve with | none => frontRole p | some s => ! frontRole p || ! serveOk p size s),
    whenBad 15 (p.parts.any fun e => decide (e.kind = 2) && ! p.cats.any fun c => decide (c.part = e.num)),
    whenBad 15 (frontKind p (fun k => decide (k = 2)) && (frontKind p (fun k => decide (k ≠ 2)) || ! p.serve.any catServe)),
    inSect 15 (firstIx (fun c => ! catOk p c) p.cats),
    inSect 15 (clashIx (fun x y => (vecGroups x.segments p.chunks.length (partChunks p x.part)).any fun g =>
      (vecGroups y.segments p.chunks.length (partChunks p y.part)).any fun h =>
        let a := groupIds x.format g; let b := groupIds y.format h
        decide (a.1 < b.2) && decide (b.1 < a.2)) p.cats)]

/-! ### The image (R198-R200) and all checks in the order of R201 -/

structure Head where
  sections : Nat
  flags : Nat
  length : Nat
  planId : Nat
  arith : Nat
  sliceId : Nat
  rank : Nat
  size : Nat
  epoch : Nat
  binding : Digest
  certOff : Nat
  certLen : Nat
  deriving DecidableEq, Repr

def headOf (b : List Byte) : Head :=
  { sections := leAt b 10 2, flags := leAt b 12 4, length := leAt b 16 8, planId := leAt b 24 8, arith := leAt b 32 8, sliceId := leAt b 40 8,
    rank := leAt b 48 2, size := leAt b 50 2, epoch := leAt b 52 4, binding := digestAt b 56, certOff := leAt b 88 8, certLen := leAt b 96 4 }

def lengthBad (h : Head) (stagedEnd : Nat) : Bool :=
  decide (h.length ≠ stagedEnd) || decide (251658240 < h.length) || decide (h.length < 256 + 32 * h.sections + h.certLen + 2420 + 8)

/-- A directory entry (R200): type, offset, length. -/
def dirEntry (b : List Byte) (i : Nat) : Nat × Nat × Nat := (leAt b (256 + 32 * i) 2, leAt b (260 + 32 * i) 8, leAt b (268 + 32 * i) 8)

def dirBad (b : List Byte) (h : Head) : Option Nat :=
  let l := (List.range h.sections).map (dirEntry b)
  let lo := 256 + 32 * h.sections
  let bad := fun (e : Nat × Nat × Nat) => decide (e.1 < 1) || decide (16 < e.1) || decide (e.2.1 % 64 ≠ 0) || decide (e.2.1 < lo) ||
    decide (h.certOff < e.2.1 + e.2.2) || (decide (e.2.2 = 0) && ! [6, 15].contains e.1)
  match firstIx bad l with
  | some i => some i
  | none =>
    match clashIx (fun x y => decide (x.1 = y.1) || (decide (x.2.1 < y.2.1 + y.2.2) && decide (y.2.1 < x.2.1 + x.2.2))) l with
    | some i => some i
    | none => if h.sections = 16 then none else some h.sections

/-! ### Entries that the image holds byte by byte (R142, R144, R205, R215, R235) -/

def chunkEntryOf (b : List Byte) : ChunkEntry :=
  { crate := leAt b 0 4, chunk := leAt b 4 4, param := leAt b 8 6 % 2 ^ 47, array := leAt b 14 2, plane := leAt b 16 1, planes := leAt b 17 1,
    format := leAt b 18 1, part := leAt b 19 1 }

def routeEntryOf (e idx : Nat) (b : List Byte) : RouteEntry :=
  let v := leAt b 0 16
  { at_ := e, idx := idx, dest := bits v 11 0, queue := bits v 23 12, mode := bits v 25 24, linkValid := bitOf v 26, link := bits v 29 27,
    members := BitVec.ofNat 48 (bits v 111 64) }

def detourEntryOf (router : Nat) (b : List Byte) : DetourEntry :=
  let v := leAt b 0 8
  { router := router, lo := bits v 11 0, hi := bits v 23 12, inp := bits v 26 24, out := bits v 29 27, set := bits v 35 30 }

def portEntryOf (dig : Digest) (b : List Byte) : PortEntry :=
  { port := leAt b 0 1, sub := leAt b 1 1, ways := leAt b 2 1, role := leAt b 3 1, peerRank := leAt b 4 2, peerPort := leAt b 6 1, peerSub := leAt b 7 1,
    vlan := leAt b 8 2 % 4096, pcp := leAt b 10 2 % 4096, flags := BitVec.ofNat 8 (leAt b 12 1), dscp := leAt b 13 1 % 64, mac := BitVec.ofNat 48 (leAt b 16 6),
    ip := BitVec.ofNat 128 (leAt b 24 16), peerIp := BitVec.ofNat 128 (leAt b 40 16), expectId := dig }

def stepEntryOf (b : List Byte) : StepEntry :=
  { base := leAt b 0 2, slots := leAt b 2 2, allow := leAt b 4 2, widePct := leAt b 6 1, outRes := leAt b 8 4, fwWindow := leAt b 12 2, first := leAt b 16 8 }

/-- The bytes of the section of a type, and its item count. -/
def sectionAt (b : List Byte) (t : Nat) : List Byte × Nat :=
  match (List.range (headOf b).sections).find? (fun i => decide ((dirEntry b i).1 = t)) with
  | some i => (sub b (dirEntry b i).2.1 (dirEntry b i).2.2, leAt b (276 + 32 * i) 4)
  | none => ([], 0)

/-- n entries of a size from a byte on. -/
def entriesAt (s : List Byte) (size off n : Nat) : List (List Byte) := (List.range n).map fun i => sub s (off + size * i) size

/-- The plan with the entries that the staged image holds. -/
def readTables (b : List Byte) (p : PlanDoc) : PlanDoc :=
  let q := p.places
  { p with
    chunks := (entriesAt (sectionAt b 1).1 32 q.chunks.1 q.chunks.2).map chunkEntryOf
    routes := q.routes.flatMap fun t => ((entriesAt (sectionAt b 5).1 16 t.2.1 t.2.2).zipIdx).map fun e => routeEntryOf t.1 e.2 e.1
    detours := q.detours.flatMap fun t => (entriesAt (sectionAt b 6).1 8 t.2.1 t.2.2).map (detourEntryOf t.1)
    ports := ((entriesAt (sectionAt b 10).1 64 q.ports.1 q.ports.2).zipIdx).map fun e => portEntryOf (q.expect.getD e.2 0) e.1
    steps := (entriesAt (sectionAt b 12).1 32 0 (sectionAt b 12).2).map stepEntryOf }

def planCrcOk (b : List Byte) : Bool := decide (crcOf 2 (b.take (b.length - 8)) = BitVec.ofNat 64 (leAt b (b.length - 8) 8))

/-- Check 0x04 (R433, R434): the format of the certificate, the root slot of the fuses and the root's digest; what the
signature engine finds of the entries' signatures and of the plan's is certOk and sigOk. -/
def certBad (b : List Byte) (h : Head) (f : Fuses) (certOk sigOk : Bool) : Bool :=
  let c := sub b h.certOff h.certLen
  let slot := leAt c 8 1
  let n := leAt c 9 1
  let ent := fun k => sub c (1328 + 3780 * k) 3780
  let key := fun k => sub (ent k) 48 1312
  decide (c.take 8 ≠ asciiBytes "DXCERT01") || decide (3 < slot) || ! (decide (n = 1) || decide (n = 2)) ||
    decide (h.certLen ≠ 1328 + 3780 * n) || ! f.rootsValid.getLsbD slot || decide (f.roots[slot]? ≠ some (sha3 (sub c 16 1312))) ||
    decide (digestAt (ent 0) 16 ≠ sha3 (sub c 16 1312)) || (decide (n = 2) && decide (digestAt (ent 1) 16 ≠ sha3 (key 0))) ||
    (List.range n).any (fun k => decide (leAt (ent k) 0 1 ≠ (if k + 1 = n then 2 else 1))) || ! certOk || ! sigOk

/-- R20: one rank named for two devices: two sub-ports that face one sub-port of a peer, a neighbour named twice in a device tree,
a rank twice among the devices of the stages. -/
def rankTwice (p : PlanDoc) : Bool :=
  (clashIx (fun x y => decide (x.role = 1) && decide (y.role = 1) && decide (x.peerRank = y.peerRank) && decide (x.peerPort = y.peerPort) &&
    decide (x.peerSub = y.peerSub)) p.ports).isSome ||
    p.domains.any (fun e => (clashIx (fun x y => decide (x = y)) (e.parent.toList ++ e.children)).isSome) ||
    p.serve.any fun s => (clashIx (fun x y => decide (x = y)) s.stageRanks.flatten).isSome

/-- The first check of R201 that fails: code, section, item. -/
def planCheck (b : List Byte) (stagedEnd : Nat) (f : Fuses) (idKey : Digest) (p : PlanDoc) (certOk sigOk : Bool) : Option (Nat × Nat × Nat) :=
  let h := headOf b
  let at_ := fun (c : Nat) (x : Bad) => x.map fun e => (c, e.1, e.2)
  if lengthBad h stagedEnd then some (0x01, 0, 0) else
  if ! planCrcOk b then some (0x02, 0, 0) else
  if b.take 8 ≠ asciiBytes "SKOVPLAN" ∨ leAt b 8 2 ≠ 2 ∨ 1 < h.flags ∨ leAt b 100 156 ≠ 0 then some (0x03, 0, 0) else
  if certBad b h f certOk sigOk then some (0x04, 0, 0) else
  if h.binding ≠ 0 ∧ h.binding ≠ idKey then some (0x05, 0, 0) else
  match dirBad b h with
  | some i => some (0x06, 0, i)
  | none =>
  match at_ 0x10 (check10 p) with
  | some x => some x
  | none =>
  if 2048 ≤ h.rank ∨ h.size ≤ h.rank ∨ 2048 < h.size ∨ rankTwice p then some (0x11, 0, 0) else
  let rest := [at_ 0x12 (check12 p), at_ 0x13 (check13 p), at_ 0x14 (check14 p), at_ 0x15 (inSect 8 (firstIx descBad p.descs)),
    at_ 0x16 (check16 p (bitOf h.flags 0) h.size),
    at_ 0x17 (if p.steps.length ≠ p.domains.length then some (12, min p.steps.length p.domains.length) else inSect 12 (firstIx stepBad p.steps)),
    at_ 0x18 (check18 p h.size h.rank), at_ 0x1A (check1A p h.size h.rank), at_ 0x1B (check1B p), at_ 0x1C (check1C p h.size)]
  (rest.filterMap id).head?

end Sys2Proof.Machine
end

