-- ==== Sys2Proof/Machine/Plan.lean ====
section
/-! DEFINITION. PLAN_LOAD, validation, DRAM initialisation and policy epochs (R121, R122, R173, R198-R203, R237, R414). -/
namespace Sys2Proof.Machine

/-- What PLAN_LOAD leaves of an array: its calibration goes on (R57, R77), with its retirement and tag contents; the work of
the plan is gone, and an array that holds no stock has margin 0 (R53, R68). -/
def arrKept (a : Nat) (x : Arr) : Arr :=
  { x with grant := none, pooled := false, esc := none, patTests := 0, margin := if isShelf a || x.retired then x.margin else 0 }

/-- A flow that the plan load closes is quarantined (R237, R248). -/
def flowClosed (x : Flow) : Flow :=
  if x.inUse ∨ x.quarantine then { gen := x.gen, quarantine := true } else { gen := x.gen }

def chanDiscarded (x : Chan) : Chan := if x.state = .idle then x else { x with state := .discarded, cause := 7, early := [] }

/-- The event registers at PLAN_LOAD: those whose section says that every register is cleared; the counters alone of the
others (R402); section 15's and 16's keep both (log 24). -/
def planClearEvs (d : Dev) : Dev :=
  let whole := [EvId.blStep, .st, .tg, .chFault]
  let keep := [EvId.wb, .sc]
  { d with evs := (List.range 14).map fun i =>
      let r := (d.evs[i]?).getD {}
      if whole.any (fun e => evIx e = i) then {} else if keep.any (fun e => evIx e = i) then r else { r with cnt := [] } }

/-- The rings whose STOCK_LOAD or SHELF_WRITE is still to complete. -/
def restockRings (d : Dev) : List Nat := d.stock.parts.filterMap fun e => match e.2.restock with
  | some r => if r.verified then none else some r.ring
  | none => none

/-- R201: the plan in force goes, with everything that R123, R173, R237 and R291 reset; pending audits
are skipped (R130). A restock command still under
verification ends with REFUSED (log 25). -/
def discardPlan (d : Dev) : Dev :=
  let d := (restockRings d).foldl (fun d i => finishJob i .refused 0 d) d
  let n := d.mkt.stalls.foldl (fun l s => l ++ s.2.audits.map fun _ => s.1) []
  let d := planClearEvs (n.foldl (fun d i => raise .cvQuant 4 i 0 d) d)
  let m := d.mkt
  let m' : Market :=
    { actCap := m.actCap, trimMode := m.trimMode, trimNext := m.trimNext, auditRate := m.auditRate, calRound := m.calRound, initDone := m.initDone,
      arrays := m.arrays.foldl (fun a e => mset a e.1 {} (arrKept e.1 e.2)) [], slices := m.slices, store := m.store }
  { d with
    mkt := m', doms := [], net := {}, stock := {}, srv := {}, epochs := {}, faults := {},
    dram := { stackMap := d.dram.stackMap, kvLow := d.dram.kvLow, chans := d.dram.chans.map fun e => (e.1, chanDiscarded e.2) },
    eth := { flows := d.eth.flows.map (fun e => (e.1, flowClosed e.2)), chks := d.eth.chks },
    sec := { d.sec with armed := none, pend := if d.sec.armed.isSome then none else d.sec.pend },
    plan := { rejected := d.plan.rejected, check := d.plan.check, sect := d.plan.sect, item := d.plan.item } }

/-- R201, R414. A device that faulted for a lost reference stays FAULTED while the reference is absent (R455; log 110). -/
def planLoad (c : Cmd) (d : Dev) : Dev × Verdict :=
  if decide (d.state = .faulted) && d.pwr.refLost then fail .state d else
  let d := discardPlan d
  (enter .awaitPlan { d with plan := { d.plan with validating := true, ring := c.ring } }, .later)

/-- PLAN_LOAD: a second one during validation completes with BUSY (R415). A program operation in progress ends (R41). -/
def execPlanLoad (c : Cmd) (s : State) : R :=
  onNv (fun d nv =>
    let d' := hostCmd 0x20 c (fun d => if d.plan.validating then fail .busy d else planLoad c d) d
    (d', if d'.plan.validating && ! d.plan.validating then endOps true d nv else nv)) s

/-! ### Installation -/

def clampCap (n : Nat) : Nat := max 10 (min 100 n)
def clampRate (n : Nat) : Nat := max 8 (min 16 n)

def floorMap (l : List (Nat × Nat × Nat)) : SMap Nat := l.foldl (fun m e => mset m (e.1 * 128 + e.2.1) 0 e.2.2) []

/-- The plane map that the chunk map gives (R286): (chunk, offset) to (array, plane). -/
def planeMap (p : PlanDoc) (part : Nat) : List ((Nat × Nat) × (Nat × Nat)) :=
  (partAll p part).flatMap fun e => (List.range e.planes).map fun o => ((e.chunk, o), (e.array, e.plane + o))

/-- The back shelf's plane map (R301): chunk i in array 15 of stall i. -/
def shelfMap : List ((Nat × Nat) × (Nat × Nat)) :=
  (List.range 1024).flatMap fun i => (List.range 64).map fun o => ((i, o), (16 * i + 15, o))

def initPart (p : PlanDoc) (n : Nat) : Part :=
  let g := partDigest p n
  { live := (g.map (·.gen)).getD 0, liveRoot := (g.map (·.root)).getD 0, liveLeaves := (g.map (·.leaves)).getD [],
    liveMap := if n = 16 then shelfMap else planeMap p n }

def partNums (p : PlanDoc) : List Nat := p.parts.map (·.num) ++ (if p.shelf.isSome then [16] else [])

/-- The plan takes effect (R51, R121, R127, R133, R195, R286, R389). -/
def install (b : List Byte) (p : PlanDoc) (d : Dev) : Dev :=
  let h := headOf b
  let plan : Plan :=
    { doc := p, planId := BitVec.ofNat 64 h.planId, arith := BitVec.ofNat 64 h.arith, sliceId := BitVec.ofNat 64 h.sliceId, rank := h.rank,
      size := h.size, audit := bitOf h.flags 0, digest := sha3 (b.take (h.certOff + h.certLen)) }
  { d with
    plan := { d.plan with plan := some plan, validating := false, rejected := false, planTick := d.tick },
    freeIx := d.freeIx + 1,
    mkt := { d.mkt with actCap := clampCap p.initCap, auditRate := clampRate p.rateLog2, seedIx := d.freeIx, pats := d.sec.running.bind (·.patterns) },
    dram := { d.dram with kvLow := p.initKvLow },
    epochs := { cur := h.epoch, tables := [(h.epoch, floorMap p.floors)] },
    stock := { d.stock with parts := (partNums p).foldl (fun m n => mset m n {} (initPart p n)) [] } }

/-- The staged plan image. -/
def stagedPlan (d : Dev) (m : List Host.Cell) : List Byte := staged m 0 d.host.stagedEnd

/-- R202. -/
def planValidated (nv : NonVol) (m : List Host.Cell) (doc : PlanDoc) (certOk sigOk : Bool) (d : Dev) : Dev :=
  if ! d.plan.validating then d else
  let b := stagedPlan d m
  let doc := readTables b doc
  let fin := fun (d : Dev) => { d with host := { d.host with stagedEnd := 0 } }
  match planCheck b d.host.stagedEnd nv.fuses (sha3 (deviceIdKey nv)) doc certOk sigOk with
  | some (c, sect, item) =>
    let st := if c = 0x04 ∨ c = 0x05 then Status.auth else .badArg
    let d := { d with plan := { d.plan with validating := false, rejected := true, check := c, sect := sect, item := item } }
    enter .held (finishJob d.plan.ring st (c + sect * 256 + item % 2 ^ 32 * 2 ^ 32) (fin d))
  | none => finishJob d.plan.ring .ok 0 (install b doc (fin d))

def execPlanValidationEnd (doc : PlanDoc) (certOk sigOk : Bool) (s : State) : R :=
  onDev (planValidated s.nv s.mem doc certOk sigOk) s

/-! ### DRAM initialisation (R173) -/

/-- Free pages of the KV pool (R175): its first page number and its size. -/
def kvPool (p : PlanDoc) : Nat × Nat :=
  let r := regionOf p .kv
  let n := r.size / 65536
  let f := (8 * n + 65535) / 65536
  (r.base / 65536 + f, n - f)

def portsStart (p : PlanDoc) (m : SMap SubPort) : SMap SubPort :=
  p.ports.foldl (fun m e => if e.role = 0 then m else mmod m (e.port * 8 + e.sub) {} fun x => { x with state := .training }) m

def dramInit (d : Dev) (m : List Host.Cell) : Dev × List Host.Cell :=
  match theDoc d with
  | none => (d, m)
  | some p =>
    if d.state ≠ .awaitPlan ∨ d.plan.validating then (d, m) else
    let m' := p.tables.foldl (fun m t => memWrites m t.1 t.2) (memZero m 0 stagingBase)
    let k := kvPool p
    let d := { d with dram := { d.dram with kvBase := k.1, kvPages := k.2, fresh := 0, free := k.2 },
                      mkt := { d.mkt with calRound := 0, initDone := false,
                                          arrays := d.mkt.arrays.foldl (fun m e => mset m e.1 {} { e.2 with phase := .idle }) [] },
                      eth := { d.eth with subs := portsStart p d.eth.subs } }
    (enter .stocking d, m')

def execDramInitEnd (s : State) : R := onMem dramInit s

/-! ### Policy epochs (R121, R122) -/

/-- Floors of a staged table: 2 bits for each stall and ordinal; the count is fuel. -/
def unpackFloors : Nat → List Byte → SMap Nat → SMap Nat
  | _, [], m => m
  | i, b :: r, m =>
    unpackFloors (i + 4) r ((List.range 4).foldl (fun m k => mset m (i + k) 0 (bits b.toNat (2 * k + 1) (2 * k))) m)

def floorBad (b : Byte) : Bool := (List.range 4).any fun k => decide (bits b.toNat (2 * k + 1) (2 * k) = 3)

def epochSet (m : List Host.Cell) (c : Cmd) (d : Dev) : Dev × Verdict :=
  let n := param c.params 8 4
  let off := param c.params 12 4
  if n ≤ d.epochs.cur ∨ 0x10000000 < off + 61440 then fail .badArg d else
  let b := staged m off 61440
  if b.any floorBad then fail .badArg d else
  if d.epochs.pins.any (fun e => decide (e.1 < d.epochs.cur) && decide (0 < e.2)) then fail .busy d else
  ok0 { d with epochs := { d.epochs with next := some (n, unpackFloors 0 b []) } }

def execEpochSet (c : Cmd) (s : State) : R := onDev (hostCmd 0x21 c (epochSet s.mem c)) s

/-- The floor of a stall's ordinal under an epoch. -/
def floorAt (d : Dev) (epoch stall ord : Nat) : Nat :=
  match d.epochs.tables.find? (fun t => decide (t.1 = epoch)) with
  | some t => mget t.2 (stall * 128 + ord) 0
  | none => 0

/-- A new epoch at the first bell after its command (R121): the table in force before stays while tickets are pinned. -/
def epochAtBell (d : Dev) : Dev :=
  match d.epochs.next with
  | none => d
  | some (n, t) =>
    let keep := d.epochs.tables.filter fun x => decide (x.1 = d.epochs.cur) || decide (0 < mget d.epochs.pins x.1 0)
    { d with epochs := { d.epochs with cur := n, next := none, tables := (n, t) :: keep } }

/-- A ticket is pinned to, or released from, an epoch (R122). -/
def pinEpoch (e : Nat) (d : Dev) : Dev := { d with epochs := { d.epochs with pins := mmod d.epochs.pins e 0 (· + 1) } }
def unpinEpoch (e : Nat) (d : Dev) : Dev := { d with epochs := { d.epochs with pins := mmod d.epochs.pins e 0 (· - 1) } }

end Sys2Proof.Machine
end

