-- ==== Sys2Proof/Machine/Power.lean ====
section
/-! DEFINITION. Supply, reset, clocks, heat and the weighbridge (section 16, R19, R397, R482). -/
namespace Sys2Proof.Machine

/-! ### Resets -/

/-- A reset leaves nothing of the device but its cells and fuses (R2, R397): a fresh device with the given supply and pin
state. The model's own counters and record of outputs go on (logs 2, 3, 8). -/
def coldDev (d : Dev) (p : Power) : Dev :=
  { tick := d.tick, cycle := d.cycle, freeIx := d.freeIx + 1, out := d.out, pwr := p }

def resetPower (p : Power) : Power := { p with outOfReset := false, perstWaits := none, stopped := [], khz := [] }

/-- A reset of the die while the rails stand (R397, R482): operations in progress end whole, none starts; DRAM keeps
nothing (log 12). -/
def dieReset (p : Power) (s : State) : R :=
  let d := tickCycle s.dev
  .next { s with dev := coldDev d p, nv := endOps true d s.nv, mem := [] }

/-- The rails go down (R452): VPGM first, so that an operation in progress ends whole only where the input capacitance
holds the rails long enough (R449). -/
def railsDown (whole : Bool) (p : Power) (s : State) : R :=
  let d := tickCycle s.dev
  let p := { resetPower p with sequencing := false, railsGood := false, refLost := false, tray := 0, slot := 0 }
  .next { s with dev := coldDev d p, nv := endOps whole d s.nv, mem := [] }

def railsUp (p : Power) : Bool := p.railsGood || p.sequencing

/-- The die leaves reset and the straps are latched (R19, R451, R479). -/
def release (t k : Nat) (p : Power) : Power :=
  { p with perst := false, perstWaits := none, outOfReset := true, tray := t % 64, slot := k % 8 }

/-- PERST# deasserts: at once, or when the last rail is good (R451). -/
def deassert (t k : Nat) (p : Power) : Power :=
  if ! p.perst then p
  else if p.railsGood then release t k p else { p with perst := false, perstWaits := some (t, k) }

/-! ### ALERT# (R467, R470) -/

def hbmMax (d : Dev) : Nat := d.therm.stackMap.foldl (fun m e => max m e.2) 0

/-- WB_COND. -/
def wbCond (d : Dev) : Byte :=
  BitVec.ofNat 8 (b2n (! d.wb.fresh) + 2 * b2n d.wb.implausible + 4 * b2n d.pwr.inputLow + 8 * b2n d.wb.railOut +
    16 * b2n (decide (1 ≤ d.therm.level)) + 32 * b2n (decide (3 ≤ d.therm.level)) + 64 * b2n (decide (95 ≤ hbmMax d)) +
    128 * b2n d.therm.overTemp)

/-- Assert ALERT# while an enabled condition holds; a condition that clears starts the 1 ms hold. -/
def updateAlert (d : Dev) : Dev :=
  if wbCond d &&& d.wb.alertMask ≠ 0 then
    if d.wb.alert then { d with wb := { d.wb with alertHold := false } }
    else raiseIbi 0x03 (msix 3 { d with wb := { d.wb with alert := true, alertHold := false } })
  else if d.wb.alert then { d with wb := { d.wb with alertHold := true } }
  else d

/-- A write of WB_ALERT_CTL: a condition that the mask no longer enables releases ALERT# at once. -/
def alertMaskWrite (v : Word) (d : Dev) : Dev :=
  let held := d.wb.alertHold
  let d := { d with wb := { d.wb with alertMask := v.setWidth 8 } }
  if wbCond d &&& d.wb.alertMask = 0 && d.wb.alert && ! held then { d with wb := { d.wb with alert := false } }
  else updateAlert d

/-! ### The effective cap (R37, R38) -/

/-- Arrays that the plan's chunk map names: its MVM arrays. -/
def mvmArrays (d : Dev) : List Nat := (((theDoc d).map (·.chunks)).getD []).foldl (fun l c => linsert l c.array) []

def thermalLimit (level : Nat) : Nat := match level with | 0 => 100 | 1 => 50 | 2 => 40 | 3 => 30 | 4 => 20 | _ => 10

def staleLimit (d : Dev) : Nat := if d.wb.fresh then 100 else 40

def hostCap (d : Dev) : Nat := max 10 (min 100 d.mkt.actCap)

def effCap (d : Dev) : Nat := min (hostCap d) (min (thermalLimit d.therm.level) (staleLimit d))

/-! ### Islands (R14, R18, R454) -/

/-- Nominal frequency and range of an island, in kHz (1.6). -/
def islandRange (i : Nat) : Nat × Nat × Nat :=
  if i < 1960 then (3300000, 2400000, 3600000)
  else if i < 2029 then (2000000, 1600000, 2200000)
  else if i = 2029 then (1500000, 1200000, 1600000)
  else (825000, 700000, 825000)

/-- Ceilings of the thermal level (R457) and of stale telemetry (R464) for an island. -/
def islandCeiling (d : Dev) (i : Nat) : Nat :=
  let l := d.therm.level
  if i < 1960 then
    let th := match l with | 0 => 3600000 | 1 => 3000000 | 2 => 2800000 | 3 => 2600000 | _ => 2400000
    if d.wb.fresh then th else min th 3000000
  else if i < 2029 then (match l with | 0 => 2200000 | 1 => 2000000 | 2 => 1800000 | 3 => 1800000 | _ => 1600000)
  else if i = 2029 then 1600000
  else (match l with | 0 => 825000 | 1 => 825000 | 2 => 825000 | 3 => 750000 | _ => 700000)

def islandTarget (d : Dev) (i : Nat) : Nat := min (islandRange i).1 (islandCeiling d i)

def islandKhz (d : Dev) (i : Nat) : Nat := mget d.pwr.khz i (islandRange i).1

/-- Whether a number names an island (R18): 1,960-1,983 name none, bit 11 is the converter flag. -/
def isIsland (i : Nat) : Bool :=
  decide (i < 1960) || (decide (1984 ≤ i) && decide (i < 2030)) || (decide (2048 ≤ i) && decide (i < 3968))

/-- One comparison of an island's loop: the clock moves towards its target, at most up to it. -/
def clockMove (i khz : Nat) (d : Dev) : Dev :=
  if ! isIsland i || islandStopped d i || d.pwr.refLost || ! d.pwr.railsGood then d else
  let c := islandKhz d i
  let t := islandTarget d i
  let n := max (min c t) (min (max c t) khz)
  { d with pwr := { d.pwr with khz := mset d.pwr.khz i (islandRange i).1 n } }

/-! ### Heat (R456-R459) -/

/-- T_die, and the lowest sensor that gives it. -/
def dieTemp (d : Dev) : Nat × Nat :=
  (List.range 64).foldl (fun m i => let v := mget d.therm.sensors i 0; if m.1 < v then (v, i) else m) (0, 0)

/-- Codes of WB_THERMAL.t_die at which the levels are entered. -/
def levelEntry : Nat → Nat | 0 => 0 | 1 => 1080 | 2 => 1096 | 3 => 1112 | 4 => 1128 | _ => 1144

def levelReached (t : Nat) : Nat :=
  if 1144 ≤ t then 5 else if 1128 ≤ t then 4 else if 1112 ≤ t then 3 else if 1096 ≤ t then 2 else if 1080 ≤ t then 1 else 0

/-- The level after one evaluation (R457): up at once, down by one and only 2 K below the present level's entry; 2 or
above while a stack is at 95 °C; 5 while the over-temperature hold of R459 lasts. -/
def nextLevel (cur t hbm : Nat) (held : Bool) : Nat :=
  if held then 5 else
  let r := levelReached t
  let n := if cur ≤ r then r else if t + 16 ≤ levelEntry cur then cur - 1 else cur
  if 95 ≤ hbm then max n 2 else n

def evalThermal (hbm : List Nat) (d : Dev) : Dev :=
  let was := hbmMax d
  let d := { d with therm := { d.therm with stackMap := (List.range 16).foldl (fun m h => mset m h 0 (min 255 ((hbm[h]?).getD 0))) d.therm.stackMap } }
  let h := hbmMax d
  let t := (dieTemp d).1
  let d := if was < 95 && 95 ≤ h then raise .wb 5 0 0 d else d
  let hot := decide (1160 ≤ t) || decide (105 ≤ h)
  let cool := decide (t < 1128) && decide (h < 101)
  let held := if d.therm.overTemp then ! cool else hot
  let starts := held && ! d.therm.overTemp
  let n := nextLevel d.therm.level t h held
  let rises := decide (d.therm.level < n)
  let d := { d with therm := { d.therm with level := n, overTemp := held } }
  let d := if rises then raise .wb 4 0 0 d else d
  let d := if starts then raiseFaultAll (raise .wb 6 0 0 d) else d
  updateAlert d

/-! ### The weighbridge (R460-R465) -/

/-- Largest deviation allowed of channels 2-15 of converter A: nominal codes of the rails (R450, R461). -/
def railNominal : List Nat :=
  [13500, 33000, 8000, 7500, 8500, 7500, 9000, 33000, 9000, 12000, 18000, 10500, 7500, 18000]

/-- A rail outside 3% of its nominal code. -/
def railsOut (a : List Nat) : Bool :=
  (List.range 14).any fun k =>
    let n := (railNominal[k]?).getD 0
    let c := (a[2 + k]?).getD 0
    decide (100 * c < 97 * n) || decide (103 * n < 100 * c)

def selfCheck (codes : List Nat) : Bool :=
  decide (12375 ≤ (codes[22]?).getD 0) && decide ((codes[22]?).getD 0 ≤ 12625) && decide ((codes[23]?).getD 0 ≤ 125)

def absDiff (a b : Nat) : Nat := (a - b) + (b - a)

/-- One burst passes: the shared channels agree and both self-checks hold (R461, R463). -/
def burstPasses (a b : List Nat) : Bool :=
  decide (absDiff ((a[0]?).getD 0) ((b[0]?).getD 0) ≤ 983) && decide (absDiff ((a[1]?).getD 0) ((b[1]?).getD 0) ≤ 983) &&
    selfCheck a && selfCheck b

def codeMap (l : List Nat) : SMap Nat :=
  (List.range 24).foldl (fun m k => mset m k 0 (((l[k]?).getD 0) % 65536)) []

def codeList (m : SMap Nat) : List Nat := (List.range 24).map fun k => mget m k 0

/-- The results of one burst (R460, R463-R465, R472, R473). -/
def endBurst (a b : List Nat) (d : Dev) : Dev :=
  if ! d.wb.burst then d else
  let ca := codeMap a
  let cb := codeMap b
  let a := codeList ca
  let b := codeList cb
  let pass := burstPasses a b
  let bad := if pass then 0 else d.wb.badRun + 1
  let good := if pass then d.wb.goodRun + 1 else 0
  let impl := if d.wb.implausible then decide (good < 16) else decide (16 ≤ bad)
  let fresh := ! impl
  let sumI := (a[0]?).getD 0 + (b[0]?).getD 0
  let sumV := (a[1]?).getD 0 + (b[1]?).getD 0
  let out := railsOut a
  let vOk := decide (92000 ≤ sumV) && decide (sumV ≤ 112000)
  let turnsStale := d.wb.fresh && ! fresh
  let w := { d.wb with burst := false, burstNo := (d.wb.burstNo + 1) % 65536, codesA := ca, codesB := cb, badRun := min bad 16,
                       goodRun := min good 16, implausible := impl, fresh := fresh, railOut := fresh && out,
                       supplyOk := fresh && vOk && ! out,
                       powers := if impl then d.wb.powers else ((sumI * sumV / 4) :: d.wb.powers).take 4096 }
  let d := { d with wb := w }
  let d := if pass then d else raise .wb 0 0 0 d
  let d := if turnsStale then raise .wb 1 0 0 d else d
  let d := if fresh && out then raise .wb 3 0 0 d else d
  updateAlert d

/-- WB_POWER: mean input power of the newest n bursts in 0.1 W (R473). -/
def meanPower (n : Nat) (d : Dev) : Nat :=
  let l := d.wb.powers.take n
  if ! d.wb.fresh || l.isEmpty then 0 else min 65535 (l.foldl (· + ·) 0 / l.length / 100000)

def sampleEdgeFx (d : Dev) : Dev :=
  if ! d.pwr.outOfReset then d else
  let w := { d.wb with windowEdges := d.wb.windowEdges + 1 }
  if d.wb.burst then raise .wb 7 0 0 { d with wb := { w with overlaps := min 255 (d.wb.overlaps + 1) } }
  else { d with wb := { w with burst := true } }

/-! ### Meanings -/

/-- The input rises through the lockout and the rails start in order; not after a trip (R448, R451, R466). -/
def execInputPowerRise (s : State) : R :=
  onDev (fun d => if railsUp d.pwr || d.pwr.tripped then d else { d with pwr := { d.pwr with sequencing := true } }) s

/-- Every rail is good: a pending PERST# deassertion takes effect (R451). -/
def execRailsInRegulation (s : State) : R :=
  onDev (fun d =>
    if ! d.pwr.sequencing then d else
    let p := { d.pwr with sequencing := false, railsGood := true }
    { d with pwr := match p.perstWaits with | some (t, k) => release t k p | none => p }) s

/-- R448, R452. -/
def execUndervoltageLockout (s : State) : R := if railsUp s.dev.pwr then railsDown true s.dev.pwr s else onDev id s

/-- Below 20 V: rails still up go down (R448), THERMTRIP# is released and the module may restart (R466, R480). -/
def execInputBelow20v (s : State) : R :=
  let p := { s.dev.pwr with tripped := false, thermtrip := false }
  if railsUp p then railsDown true p s else onDev (fun d => { d with pwr := p }) s

/-- R449. -/
def execInputLow (s : State) : R :=
  onDev (fun d =>
    if d.pwr.inputLow then d else
    let d := { d with pwr := { d.pwr with inputLow := true } }
    if d.pwr.outOfReset then updateAlert (raise .wb 2 0 0 d) else d) s

/-- R449. -/
def execInputRecovered (s : State) : R :=
  onDev (fun d =>
    if ! d.pwr.inputLow then d else
    let d := { d with pwr := { d.pwr with inputLow := false } }
    if d.pwr.outOfReset then updateAlert d else d) s

/-- A trip of R466: the hot-swap stage opens and stays open until the input has been below 20 V. -/
def trip (therm : Bool) (s : State) : R :=
  let p := { s.dev.pwr with tripped := true, thermtrip := s.dev.pwr.thermtrip || therm }
  if railsUp p then railsDown false p s else onDev (fun d => { d with pwr := p }) s

def execInputOverCurrentTrip (s : State) : R := trip false s
def execInputOverVoltageTrip (s : State) : R := trip false s
/-- A rail carries load only while it is up. -/
def execRailOverCurrentTrip (s : State) : R := if railsUp s.dev.pwr then trip false s else onDev id s
/-- The diodes are read while the rails are up; THERMTRIP# is asserted (R466, R480, R493). -/
def execDieOverTemperatureTrip (s : State) : R := if railsUp s.dev.pwr then trip true s else onDev id s

/-- PERST# has stayed asserted for 1 µs (R482): the reported straps end (R19). A deassertion that still waited for the
rails is withdrawn (R451). -/
def execPerstAssert (s : State) : R :=
  let p := { s.dev.pwr with perst := true }
  if p.outOfReset then dieReset { resetPower p with tray := 0, slot := 0 } s
  else onDev (fun d => { d with pwr := { p with perstWaits := none } }) s

def execPerstDeassert (tray slot : Nat) (s : State) : R := onDev (fun d => { d with pwr := deassert tray slot d.pwr }) s

/-- R397: as PERST#, but the straps are not sampled again and the die is released at once. -/
def execFunctionReset (s : State) : R :=
  if s.dev.pwr.outOfReset then dieReset { resetPower s.dev.pwr with outOfReset := true } s else onDev id s

/-- R455. -/
def execReferenceLost (s : State) : R :=
  onDev (fun d =>
    if d.pwr.refLost || ! d.pwr.outOfReset then d
    else raiseFaultAll (raise .wb 8 0 0 { d with pwr := { d.pwr with refLost := true } })) s

/-- R455. -/
def execReferenceRestored (s : State) : R := onDev (fun d => { d with pwr := { d.pwr with refLost := false } }) s

/-- R14. -/
def execIslandClockStop (isl : Nat) (s : State) : R :=
  onDev (fun d => if isIsland isl && d.pwr.railsGood then { d with pwr := { d.pwr with stopped := linsert d.pwr.stopped isl } } else d) s

/-- R14. -/
def execIslandClockRestart (isl : Nat) (s : State) : R :=
  onDev (fun d => { d with pwr := { d.pwr with stopped := lremove d.pwr.stopped isl } }) s

/-- R454. -/
def execIslandClockAdjust (isl khz : Nat) (s : State) : R := onDev (clockMove isl khz) s

/-- R456. -/
def execSensorConversion (sensor code : Nat) (s : State) : R :=
  onDev (fun d =>
    if decide (64 ≤ sensor) || ! d.pwr.railsGood then d
    else { d with therm := { d.therm with sensors := mset d.therm.sensors sensor 0 (code % 4096) } }) s

/-- R457-R459. -/
def execThermalEvaluation (hbmTemps : List Nat) (s : State) : R :=
  onDev (fun d => if d.pwr.outOfReset then evalThermal hbmTemps d else d) s

/-- R460, R462, R482. -/
def execSampleEdge (s : State) : R := onDev sampleEdgeFx s

/-- R463-R465. -/
def execBurstEnd (a b : List Nat) (s : State) : R := onDev (endBurst a b) s

/-- R462, R471. -/
def execSampleWindowEnd (s : State) : R :=
  onDev (fun d => { d with wb := { d.wb with edges := min 4095 d.wb.windowEdges, windowEdges := 0 } }) s

/-- R464. -/
def execTelemetryStaleTimeout (s : State) : R :=
  onDev (fun d => if d.wb.fresh then updateAlert (raise .wb 1 0 0 { d with wb := { d.wb with fresh := false } }) else d) s

/-- R467: ALERT# is deasserted where no condition has returned. -/
def execAlertHoldEnd (s : State) : R :=
  onDev (fun d => if d.wb.alertHold then { d with wb := { d.wb with alert := false, alertHold := false } } else d) s

end Sys2Proof.Machine
end

