-- ==== Sys2Proof/Machine/StockCore.lean ====
section
/-! DEFINITION. What the stock and recovery families share: plane maps and redirects (R286, R287, R377), programming
queues, copies, stocktake, retirement and spares (R40-R49, R293, R294, R375). -/
namespace Sys2Proof.Machine

/-! ### Where a logical plane lies -/

/-- The array that an array's work has been moved to (R377). -/
def physArr (d : Dev) (a : Nat) : Nat := mget d.net.redirects a a

/-- The chunk-map entry that holds a logical plane, and the plane's offset in it. -/
def entryAt (d : Dev) (a p : Nat) : Option (ChunkEntry × Nat) :=
  ((chunkMap d).find? fun e => decide (e.array = a) && decide (e.plane ≤ p) && decide (p < e.plane + e.planes)).map fun e => (e, p - e.plane)

/-- The plane map of a generation that is present on the device. -/
def genMap (x : Part) (gen : Nat) : Option (List ((Nat × Nat) × (Nat × Nat))) :=
  if x.live = gen ∧ ¬ x.gone then some x.liveMap
  else if x.side = gen ∧ 2 ≤ x.sideState then some x.sideMap else none

/-- The physical plane of (chunk, offset) of a generation. -/
def physOf (d : Dev) (part gen chunk off : Nat) : Option (Nat × Nat) :=
  match genMap (getPart d part) gen with
  | none => none
  | some m => (m.find? fun e => decide (e.1 = (chunk, off))).map fun e => (physArr d e.2.1, e.2.2)

/-- Every use of a physical plane: partition, chunk, offset, and whether it is the side generation's. -/
def usesOf (d : Dev) (a p : Nat) : List (Nat × Nat × Nat × Bool) :=
  d.stock.parts.flatMap fun e =>
    ((e.2.liveMap.filter fun m => decide (physArr d m.2.1 = a) && decide (m.2.2 = p)).map fun m => (e.1, m.1.1, m.1.2, false)) ++
    ((e.2.sideMap.filter fun m => decide (physArr d m.2.1 = a) && decide (m.2.2 = p)).map fun m => (e.1, m.1.1, m.1.2, true))

/-- The planes of an array that a generation's map uses. -/
def stockedPlanes (d : Dev) (a : Nat) : List Nat := (List.range 64).filter fun p => ! (usesOf d a p).isEmpty

/-! ### Records -/

def stallStep (d : Dev) (i : Nat) : Nat := match domOfStall d i with | some k => (getDom d k).step | none => 0

/-- A record about an array. -/
def arrRec (kind stage unit a : Nat) (d : Dev) : FaultRec :=
  { blankRec with kind := kind, stage := stage, unit := unit, lStep := (getArr d a).lStep, step := stallStep d (stallOf a), stall := stallOf a, array := a }

/-- A record about a stall. -/
def stallRec (kind stage unit i : Nat) (d : Dev) : FaultRec :=
  { blankRec with kind := kind, stage := stage, unit := unit, step := stallStep d i, stall := i }

/-! ### Grants -/

/-- An activity ends: its grant goes back (R37). -/
def endGrant (a : Nat) (d : Dev) : Dev := modArr a (fun x => { x with grant := none, pooled := false }) d

/-! ### Programming (R41) -/

def progAt (d : Dev) (a : Nat) : Option Prog := d.stock.progs.find? fun p => decide (p.array = a)

def setProg (p : Prog) (d : Dev) : Dev :=
  { d with stock := { d.stock with progs := d.stock.progs.map fun q => if q.array = p.array ∧ q.plane = p.plane then p else q } }

def dropProg (a pl : Nat) (d : Dev) : Dev :=
  { d with stock := { d.stock with progs := d.stock.progs.filter fun q => ! (decide (q.array = a) && decide (q.plane = pl)) } }

def isRestockProg (p : Nat) (q : Prog) : Bool := match q.why with | .restock k _ _ => decide (k = p) | _ => false

/-- Planes under way or waiting are programmed no further. -/
def dropProgs (sel : Prog → Bool) (d : Dev) : Dev :=
  let gone := d.stock.progs.filter sel
  let d := { d with stock := { d.stock with progs := d.stock.progs.filter fun q => ! sel q } }
  gone.foldl (fun d q => if (getArr d q.array).grant = some .program then endGrant q.array d else d) d

/-- Queue a plane for programming; the planes of one array are programmed one after another. -/
def addProg (p : Prog) (d : Dev) : Dev := { d with stock := { d.stock with progs := d.stock.progs ++ [p] } }

/-- A phase that an erase pulse or a row program carries; step 5 of R41 programs tag cells. -/
def needsProgram : ProgPhase → Bool
  | .erase _ | .tag | .row _ | .hash => true
  | _ => false

/-! ### Spares and copies (R48, R375, R382) -/

def noSpareAt (stage a : Nat) (d : Dev) : Dev := raise .chFault 6 (stallOf a) 0 (faultRec (arrRec 22 stage 15 a d) d)
def noSpare (a : Nat) (d : Dev) : Dev := noSpareAt 0 a d

/-- The newest record that a record continues, or 0 (R384). -/
def priorRec (sel : FaultRec → Bool) (d : Dev) : Nat := ((d.faults.log.find? sel).map (·.seq)).getD 0

/-- The newest record of a kind about an array. -/
def priorOf (kind a : Nat) (d : Dev) : Nat := priorRec (fun r => decide (r.kind = kind) && decide (r.array = a)) d

/-- Start the background copy of a suspect, stopped or retiring array. -/
def startCopy (a kind : Nat) (d : Dev) : Dev :=
  if d.net.copies.any (fun c => decide (c.array = a)) || ! (isStock d a || isShelf a || spareTaken d a) then d else
  match takeSpare d a with
  | none => noSpare a d
  | some s =>
    let ps := stockedPlanes d a
    let c : Copy := { array := a, spare := s, kind := kind, planes := ps, redirect := ps.isEmpty, retiring := (getArr d a).retiring }
    faultRec { arrRec kind 3 13 a d with prior := priorOf kind a d } { d with net := { d.net with copies := d.net.copies ++ [c] } }

/-- R64: an array whose margin has fallen below 3; at 0 it serves no more and works on the audit path. The flag and the
record come once. -/
def marginRetire (a : Nat) (d : Dev) : Dev :=
  let x := getArr d a
  let d := modArr a (fun x => { x with lStep := 3, qualified := 0, stopped := x.stopped || decide (x.margin = 0), qStepUp := false }) d
  let d := if x.lStep < 3 then raise .cv 5 a 0 (raise .cv 0 a 0 d) else d
  if x.low then d else
  let d := modArr a (fun x => { x with retiring := true, low := true }) d
  startCopy a 24 (faultRec (arrRec 24 0 13 a d) (raise .cv 2 a 0 d))

/-- The figure that a spare brings (R68). -/
def spareMargin (x : Arr) : Nat := (x.hist.foldl (fun (m : Option Nat) v => some (match m with | none => v | some u => min u v)) none).getD x.refMargin

/-- A spare whose first chunk is programmed (R68): L = 15, its rotation starts with window 0. -/
def spareServes (a : Nat) (d : Dev) : Dev :=
  let x := getArr d a
  if x.background then d else
  let m := spareMargin x
  let d := setArr d a { x with margin := m, initMargin := m, hist := [], lStep := 3, qualified := 0, window := 0, phase := .idle, background := true }
  if m < 3 then marginRetire a d else d

/-! ### Retirement (R47) and replacement before service (R49) -/

def retireArr (a : Nat) (d : Dev) : Dev :=
  let d := if isShelf a && ! (getArr d a).retired then raise .st 7 0 0 d else d
  let d := modArr a (fun x => { x with retired := true, phase := .idle, grant := none, pooled := false, esc := none, calibrated := false }) d
  { d with stock := { d.stock with progs := d.stock.progs.filter fun p => decide (p.array ≠ a) } }

/-- The retirement marks of arrays that a command has retired: tag byte 32 of every plane (R47, R284). The back shelf is
not programmed outside its own procedure (R44). -/
def markRetirements (old new : Dev) (nv : NonVol) : NonVol :=
  { nv with cells := new.mkt.arrays.foldl (fun m e =>
      if e.2.retired && ! (getArr old e.1).retired && (! isShelf e.1 || (getPart new 16).restock.isSome) then
        (List.range 64).foldl (fun m p => orTagByte m e.1 p 32 0xFF) m
      else m) nv.cells }

/-- A change of the device that may retire arrays. -/
def onRet (f : Dev → Dev) (s : State) : R := onNv (fun d nv => let d' := f d; (d', markRetirements d d' nv)) s

/-- The work of array a moves to s (R377). -/
def redirectTo (a s : Nat) (d : Dev) : Dev :=
  let m := d.net.redirects.map fun e => if e.2 = a then (e.1, s) else e
  { d with net := { d.net with redirects := mput m a s } }

/-- Before the device serves, a retired array's work goes to a spare at once. -/
def replaceNow (a : Nat) (d : Dev) : Dev :=
  match takeSpare d a with
  | none => noSpare a d
  | some s => redirectTo a s d

/-! ### Stocktake and readiness (R293, R294) -/

/-- Physical planes of a partition's generations. -/
def partPlanes (d : Dev) (p : Nat) : List (Nat × Nat) :=
  let x := getPart d p
  (x.liveMap ++ (if 2 ≤ x.sideState then x.sideMap else [])).map fun e => (physArr d e.2.1, e.2.2)

def startTake (parts : List Nat) (d : Dev) : Dev :=
  { d with stock := { d.stock with take := (parts.flatMap (partPlanes d)).eraseDups, takeRunning := true, bad := [] } }

def chunksOf (x : Part) : List Nat := (x.liveMap.map (·.1.1)).eraseDups

def missingChunks (x : Part) : List Nat := (chunksOf x).filter fun c => ! x.liveDone.contains c

/-- Missing live chunks over all partitions (R308). -/
def missingAll (d : Dev) : Nat := d.stock.parts.foldl (fun n e => if e.1 < 16 then n + (missingChunks e.2).length else n) 0

/-- R49: every array that the plan assigns works on an array that is not retired. -/
def assignedOk (d : Dev) : Bool := (mvmArrays d).all fun a => ! (getArr d (physArr d a)).retired

/-- STOCKING ends when every live generation is complete and R49 is met. -/
def tryReady (d : Dev) : Dev :=
  if d.state = .stocking ∧ d.mkt.initDone ∧ d.stock.takeDone ∧ ¬ d.stock.takeRunning ∧ missingAll d = 0 ∧ assignedOk d then enter .ready d else d

/-- The stocktake has read its last plane. -/
def takeEnd (d : Dev) : Dev :=
  if d.stock.takeRunning && d.stock.take.isEmpty then
    tryReady { d with stock := { d.stock with takeRunning := false, takeDone := true } }
  else d

/-- The back shelf is complete: every chunk there, none on a fenced stall (R302, R308, R380). -/
def shelfOk (d : Dev) : Bool :=
  decide ((getPart d 16).liveDone.length = 1024) && (List.range 1024).all fun i => ! (getArr d (16 * i + 15)).retired && ! d.net.fenced.contains i

end Sys2Proof.Machine
end

