-- ==== Sys2Proof/Machine/Calib.lean ====
section
/-! DEFINITION. The count decision, calibration, trims, margins and the ones-limit ladder (R54-R73, R492). -/
namespace Sys2Proof.Machine

/-! ### The count decision (R54). A sample of n counts with an error of e/64 code stands at v = 126 n / L + e / 64 codes; the
model keeps 64 L v, and the boundaries B(k) on the same scale -/

def sampleV (l n : Nat) (e : Int) : Int := 8064 * (n : Int) + l * e

/-- The 7-bit code x. -/
def sampleCode (l : Nat) (v : Int) : Int := max 0 (min 127 (v / (64 * (l : Int))))

/-- Boundary k. -/
def boundary (k : Int) : Int := 8064 * k - 4032

/-- The boundaries, of 1 to L, that lie at or below a point. -/
def boundariesTo (l : Nat) (t : Int) : Int := min (l : Int) (max 0 ((t + 4032) / 8064))

/-- The count that a slice delivers: the boundaries at or below its code, and one further comparison where the next boundary
lies inside [x, x + 1). -/
def sliceCount (l n : Nat) (e : Int) : Int :=
  let v := sampleV l n e
  let x := sampleCode l v
  let c := boundariesTo l (64 * (l : Int) * x)
  if c < l ∧ boundary (c + 1) < 64 * (l : Int) * (x + 1) ∧ boundary (c + 1) ≤ v then c + 1 else c

/-! ### Margins (R59): every sample is measured at the scale of L = 63, where a probe step p moves the boundaries by 1/32 code -/

def decide63 (n : Nat) (e p : Int) : Int := max 0 (min 63 ((128 * (n : Int) + e - 2 * p + 64) / 128))

/-- One less than the smallest probe magnitude that changes the decision, in either direction; 0 for a sample that is decided
wrongly. No probe of the range changes it: 63. -/
def sampleMargin (n : Nat) (e : Int) (want : Int) : Nat :=
  if decide63 n e 0 ≠ want then 0 else
  ((List.range 63).find? fun (k : Nat) => decide (decide63 n e ((k : Int) + 1) ≠ want) || decide (decide63 n e (- ((k : Int) + 1)) ≠ want)).getD 63

def refMarginOf (r : RefSample) : Nat := sampleMargin r.n r.err r.n
def liveMarginOf (r : LiveSample) : Nat := sampleMargin r.n r.err r.delivered

def minOf (m : Nat) (l : List Nat) : Nat := l.foldl min m

/-- R69: the slices differ on a live sample. -/
def shadowDiffers (r : LiveSample) : Bool := decide (decide63 r.n r.err 0 ≠ (r.delivered : Int))

def refOk (r : RefSample) : Bool := decide (decide63 r.n r.err 0 = (r.n : Int))

/-! ### The ladder (R62) -/

/-- The rung of a margin: 0 L = 63, 1 L = 47, 2 L = 31, 3 L = 15. -/
def rungOf (m : Nat) : Nat := if 12 ≤ m then 0 else if 8 ≤ m then 1 else if 5 ≤ m then 2 else 3

/-- Margin that a step-up from a rung needs at the end of two consecutive complete rotations. -/
def upNeed (r : Nat) : Nat := match r with | 1 => 14 | 2 => 10 | _ => 7

/-- A margin below the present L's threshold steps the array down at once (R62, R63, R73); below 3 it retires (R64). -/
def stepDown (a : Nat) (d : Dev) : Dev :=
  let x := getArr d a
  if x.margin < 3 then marginRetire a d
  else if x.lStep < rungOf x.margin then
    let d := raise .cv 0 a 0 (setArr d a { x with lStep := rungOf x.margin, qualified := 0, qStepUp := false })
    if 2 ≤ rungOf x.margin then raise .cv 5 a 0 d else d
  else d

/-- One rung up (R62). -/
def stepUp (a : Nat) (d : Dev) : Dev :=
  raise .cv 1 a 0 (modArr a (fun x => { x with lStep := x.lStep - 1, qualified := 0, qStepUp := false }) d)

/-- In boundary mode a change at a pass boundary waits for the next bell where the array holds a grant in a state with
bells (R65, R492). -/
def queues (a : Nat) (d : Dev) : Bool := d.mkt.trimMode && steps d.state && (getArr d a).grant.isSome

/-! ### Initial calibration (R67, R68) -/

/-- Arrays on whose margin R61-R64 act: stock and back shelf, and a spare from its first chunk on (R68). -/
def servesStock (d : Dev) (a : Nat) : Bool := isStock d a || isShelf a || (spareTaken d a && (getArr d a).background)

/-- A twos-complement 6-bit trim code. -/
def trimCode (n : Nat) : Int := if n % 64 < 32 then (n % 64 : Nat) else ((n % 64 : Nat) : Int) - 64

/-- The trims of slices s, s + 1, ... of an array. -/
def setTrims (a : Nat) : Nat → List (Nat × Nat) → SMap Slice → SMap Slice
  | _, [], m => m
  | s, t :: r, m => setTrims a (s + 1) r (mmod m (a * 69 + s) {} fun x => { x with offset := trimCode t.1, gain := t.2 % 64 })

/-- One array's round: its trims, and the figure of its samples. -/
def calFigure (f : CalFig) (d : Dev) : Dev :=
  let m := minOf 127 (f.samples.map refMarginOf)
  let d := { d with mkt := { d.mkt with slices := setTrims f.array 0 (f.trims.take 69) d.mkt.slices } }
  modArr f.array (fun x => { x with initMargin := m, refMargin := m, calibrated := true, background := false, hist := [], window := 0, phase := .idle,
                                    rotations := 0, qualified := 0, low := false, stopped := false }) d

/-- The figures of one round: each array of its 480 stalls that was measured. -/
def roundFigures (r : Nat) (fs : List CalFig) (d : Dev) : Dev :=
  fs.foldl (fun d f =>
    if decide (stallOf f.array / 480 = r) && decide (f.array < 30720) && ! (getArr d f.array).retired then calFigure f d else d) d

/-- After the fourth round each stock and back-shelf array starts at the L of its margin, without hysteresis; a spare has
margin 0 and the ladder leaves it alone. The copy of an array that was retiring or suspect before starts anew. -/
def calStart (d : Dev) : Dev :=
  let as := (d.mkt.arrays.filter fun e => e.2.calibrated).map (·.1)
  as.foldl (fun d a =>
    let x := getArr d a
    if ! servesStock d a then setArr d a { x with margin := 0, lStep := 0 } else
    let d := setArr d a { x with margin := x.initMargin, lStep := rungOf x.initMargin, background := true }
    if x.initMargin < 3 then marginRetire a d
    else if x.suspect then startCopy a x.suspKind d
    else if x.retiring then startCopy a 24 d else d) d

/-- R67; with the last round the power-up stocktake starts (R293, R425). -/
def calRoundEnd (fs : List CalFig) (d : Dev) : Dev :=
  if d.state ≠ .stocking ∨ d.mkt.initDone ∨ fs.any (fun f => ! convOn d (stallOf f.array)) then d else
  let d := roundFigures d.mkt.calRound fs d
  let d := { d with mkt := { d.mkt with calRound := d.mkt.calRound + 1 } }
  if d.mkt.calRound < 4 then d else
  let d := calStart { d with mkt := { d.mkt with initDone := true } }
  takeEnd (startTake (d.stock.parts.map (·.1)) d)

def execInitialCalRoundEnd (figs : List CalFig) (s : State) : R := onDev (calRoundEnd figs) s

/-! ### Windows (R57-R61, R68-R71) -/

/-- Initial calibration has the arrays for itself (R67). -/
def inInitialCal (d : Dev) : Bool := decide (d.state = .stocking) && ! d.mkt.initDone

/-- A window begins: its slice goes offline. Window 0 starts a rotation, and the array's count of matched retries (R373). -/
def windowStart (a : Nat) (d : Dev) : Dev :=
  let x := getArr d a
  if inInitialCal d || ! x.calibrated || x.retired || decide (x.phase ≠ .idle) then d else
  let x := { x with phase := .reference, winMin := 127, winZero := false, refCount := 0, repeated := false }
  setArr d a (if x.window = 0 then { x with skipped := false, retries := 0 } else x)

/-- New trims of the offline slice take effect when it returns, or wait for the bell (R65, R492). -/
def applyTrims (a : Nat) (d : Dev) : Dev :=
  let x := getArr d a
  if queues a d then
    setArr d a { x with qTrims := (x.qTrims.filter fun t => t.1 ≠ x.window) ++ [(x.window, x.newOffset, x.newGain)] }
  else
    let d := setArr d a { x with qTrims := x.qTrims.filter fun t => t.1 ≠ x.window }
    { d with mkt := { d.mkt with slices := mmod d.mkt.slices (a * 69 + x.window) {} fun s => { s with offset := x.newOffset, gain := x.newGain } } }

/-- R60: too few reference samples, unless a live shadow differed. -/
def tooFew (x : Arr) : Bool := decide (x.refCount < 4096) && ! x.winZero

/-- R69: the slices differ on a live sample. -/
def shadowSeen (a : Nat) (d : Dev) : Dev := raise .cv 3 a 0 (modArr a (fun x => { x with winZero := true }) d)

/-- The margin phase: reference samples, and the live samples of an array that serves. -/
def marginPhase (a : Nat) (refs : List RefSample) (lives : List LiveSample) (d : Dev) : Dev :=
  let x := getArr d a
  let lives := if servesStock d a then lives else []
  let m := minOf (minOf x.winMin (refs.map refMarginOf)) (lives.map liveMarginOf)
  let d := setArr d a { x with winMin := m, refCount := x.refCount + (refs.map (·.times)).sum, phase := .confirm }
  if lives.any shadowDiffers && ! x.winZero then shadowSeen a d else d

/-- A slice that fails its confirmation twice (R70): slice 68 keeps its columns, and the array's margin is 0. -/
def sliceFails (a : Nat) (d : Dev) : Dev :=
  let x := getArr d a
  let d := setArr d a { x with phase := .closing }
  let d := { d with mkt := { d.mkt with slices := mmod d.mkt.slices (a * 69 + x.window) {} fun s => { s with failed := true } } }
  let d := raise .cv 7 a 0 d
  if servesStock d a then marginRetire a (modArr a (fun x => { x with margin := 0 }) d) else d

def phaseEnd (a : Nat) (p : CalPhase) (d : Dev) : Dev :=
  let x := getArr d a
  if inInitialCal d then d else
  match x.phase, p with
  | .reference, .reference o g n => setArr d a { x with newOffset := trimCode o, newGain := g % 64, refCount := x.refCount + n, phase := .margin }
  | .margin, .margin refs lives => marginPhase a refs lives d
  | .confirm, .confirm refs =>
    let x := { x with winMin := minOf x.winMin (refs.map refMarginOf) }
    if refs.all refOk then
      let d := setArr d a { x with phase := .closing }
      if tooFew x then d else applyTrims a d
    else if ! x.repeated then setArr d a { x with phase := .reference, winMin := 127, refCount := 0, repeated := true }
    else sliceFails a (setArr d a x)
  | _, _ => d

/-- The read bias moves one code towards zero mean error (3.3): live error in 1/64 count against live counts. -/
def biasMove (err : Int) (n : Nat) (b : Nat) : Nat :=
  if err.natAbs * 100000 ≤ 375 * 64 * n then b
  else if err < 0 then min 63 (b + 1) else b - 1

def applyBias (a : Nat) (err : Int) (n : Nat) (d : Dev) : Dev :=
  let x := getArr d a
  let b := biasMove err n (x.qBias.getD x.readBias)
  if b = x.qBias.getD x.readBias then d
  else if queues a d then setArr d a { x with qBias := some b } else setArr d a { x with readBias := b, qBias := none }

/-- The end of a rotation: a complete one counts towards a step-up (R62). -/
def rotationEnd (a : Nat) (d : Dev) : Dev :=
  let x := getArr d a
  if x.skipped then setArr d a { x with qualified := 0 } else
  let x := { x with rotations := min 255 (x.rotations + 1) }
  if x.lStep = 0 ∨ x.margin < upNeed x.lStep ∨ ¬ servesStock d a then setArr d a { x with qualified := 0 }
  else if x.qualified = 0 then setArr d a { x with qualified := 1 }
  else if queues a d then setArr d a { x with qStepUp := true, qualified := 1 }
  else stepUp a (setArr d a x)

/-- R61: the smallest of the last 69 window margins. -/
def minMargin (h : List Nat) : Nat := h.foldl min 127

def windowEnd (a : Nat) (err : Int) (n : Nat) (d : Dev) : Dev :=
  let x := getArr d a
  if x.phase ≠ .closing ∨ inInitialCal d then d else
  let few := tooFew x
  let live := servesStock d a
  let wm := if x.winZero then 0 else min 127 x.winMin
  let x1 := { x with phase := .idle, window := (x.window + 1) % 69, skipped := x.skipped || few }
  let d := if few then raise .cv 6 a 0 (setArr d a x1) else
    let h := (wm :: x.hist).take 69
    let d := setArr d a { x1 with hist := h, lastWinMargin := wm, margin := if live then minMargin h else x.margin }
    { d with mkt := { d.mkt with slices := mmod d.mkt.slices (a * 69 + x.window) {} fun s => { s with margin := wm } } }
  let d := if live then applyBias a err n d else d
  let d := if live && ! few then stepDown a d else d
  if x.window = 68 then rotationEnd a d else d

/-- R60: a live sample that an idle array takes in the margin phase of its window. -/
def calSample (a : Nat) (r : LiveSample) (d : Dev) : Dev :=
  let x := getArr d a
  if x.grant.isSome || decide (x.phase ≠ .margin) || ! servesStock d a || inInitialCal d then d else
  let d := setArr d a { x with winMin := min x.winMin (liveMarginOf r) }
  if shadowDiffers r && ! x.winZero then shadowSeen a d else d

def execCalWindowStart (array : Nat) (s : State) : R := onDev (clocked (fun d => convOn d (stallOf array)) (windowStart array)) s
def execCalPhaseEnd (array : Nat) (p : CalPhase) (s : State) : R := onDev (clocked (fun d => convOn d (stallOf array)) (phaseEnd array p)) s
def execCalWindowEnd (array : Nat) (liveErr : Int) (liveSamples : Nat) (s : State) : R := onDev (clocked (fun d => convOn d (stallOf array)) (windowEnd array liveErr liveSamples)) s
def execCalibrationOnlySample (array : Nat) (x : LiveSample) (s : State) : R := onDev (clocked (fun d => convOn d (stallOf array)) (calSample array x)) s

end Sys2Proof.Machine
end

