-- ==== Sys2Proof/Machine/Fabric.lean ====
section
/-! DEFINITION. The cart and note nets between their ends (R16, R137, R138, R140, R143, R147, R148, 6.5): flits in the routers' input
buffers, each sent on only against a free slot of the next one. -/
namespace Sys2Proof.Machine

/-! ### Flits (R137, R148) -/

/-- A number of fields, each with its width, the lowest first. -/
def packBits : List (Nat × Nat) → Nat
  | [] => 0
  | (v, w) :: r => v % 2 ^ w + 2 ^ w * packBits r

/-- The header flit of a cart. -/
def headerFlit (c : Cart) : Line :=
  BitVec.ofNat 512 (packBits [(c.dest, 12), (0, 4), (c.src, 12), (0, 4), (c.typ, 8), (c.flits.length, 8), (c.queue, 12), (0, 4), (c.route, 11), (0, 5),
    (c.mode, 2), (c.vc, 1), (b2n c.linkValid, 1), (c.link, 3), (0, 1), (0, 8), (c.members.toNat, 48), (c.slot, 16), (c.step, 32), (c.seq, 32), (c.addr, 48)])

def cartFlits (c : Cart) : List Line := headerFlit c :: c.flits

/-- The first flit of a note. -/
def noteFlit (n : Note) : W64 := BitVec.ofNat 64 (packBits [(n.dest, 12), (n.src, 12), (n.typ, 4), (n.len, 2), (n.body.toNat, 34)])

def noteFlits (n : Note) : List W64 := noteFlit n :: n.extra

/-! ### Header errors (R157) -/

def cartHeadOk (c : Cart) : Bool := endpointOk c.dest && endpointOk c.src && decide (c.typ < 8)
def noteHeadOk (n : Note) : Bool := endpointOk n.dest && endpointOk n.src && decide (n.typ < 6)

/-! ### What travels -/

def Load.flits : Load → Nat
  | .cart c _ => 1 + c.flits.length
  | .note n => n.len + 1

def Load.src : Load → Nat
  | .cart c _ => c.src
  | .note n => n.src

def Load.way : Load → Way
  | .cart c _ => { dest := c.dest, link := c.link, mode := c.mode, members := c.members }
  | .note n => noteWay n.dest

def Load.isCart : Load → Bool
  | .cart _ _ => true
  | .note _ => false

/-- The router where it enters: a ring block's link is fixed by destination and queue, its notes use the first router (R135, R136). -/
def Load.start : Load → Nat × Nat
  | .cart c _ => routerOf c.src (c.dest + c.queue)
  | .note n => routerOf n.src 0

/-- The router at which it enters forwards nothing of a load with a bad header (R157). -/
def Load.ok : Load → Bool
  | .cart c _ => cartHeadOk c
  | .note n => noteHeadOk n

/-- Credit and FENCED notes come from a stall's routers, all else from the stall (R153). -/
def Load.fromRouter : Load → Bool
  | .note n => decide (n.typ = 2) || decide (n.typ = 3)
  | .cart _ _ => false

/-! ### Buffers: 16 flits for each input port and VC of a cart router, 8 for each input port of a note router -/

def routerIx (r : Nat × Nat) : Nat := r.1 * 48 + r.2
def routerXY (i : Nat) : Nat × Nat := (i / 48, i % 48)

def bufOf (l : Load) (r : Nat × Nat) (inp : Nat) (vc : Bool) : Nat :=
  if l.isCart then (routerIx r * 8 + inp) * 2 + b2n vc else 32768 + routerIx r * 8 + inp

def bufRouter (k : Nat) : Nat := if k < 32768 then k / 16 else (k - 32768) / 8
def bufInput (k : Nat) : Nat := if k < 32768 then k / 2 % 8 else k % 8
def bufDepth (k : Nat) : Nat := if k < 32768 then 16 else 8

/-- The flights and the buffers. -/
abbrev Fabric := List Flight × SMap (List (Nat × Nat))

def bufUsed (b : SMap (List (Nat × Nat))) (k : Nat) : Nat := (mget b k []).foldl (fun n e => n + e.2) 0

/-- A link credit of a buffer: a free slot (R138). -/
def slotFree (b : SMap (List (Nat × Nat))) (k : Nat) : Bool := decide (bufUsed b k < bufDepth k)

/-- One flit more at the back of a buffer. -/
def pushFlit (id : Nat) : List (Nat × Nat) → List (Nat × Nat)
  | [] => [(id, 1)]
  | [(i, n)] => if i = id then [(i, n + 1)] else [(i, n), (id, 1)]
  | e :: r => e :: pushFlit id r

/-- One flit less at the front. -/
def popFlit : List (Nat × Nat) → List (Nat × Nat)
  | (i, n + 2) :: r => (i, n + 1) :: r
  | _ :: r => r
  | [] => []

def pushBuf (b : SMap (List (Nat × Nat))) (k id : Nat) : SMap (List (Nat × Nat)) := mset b k [] (pushFlit id (mget b k []))
def popBuf (b : SMap (List (Nat × Nat))) (k : Nat) : SMap (List (Nat × Nat)) := mset b k [] (popFlit (mget b k []))

/-! ### One flit, one hop -/

/-- The hop by which a flight leaves a buffer: found when its head stands there, and the same for the flits behind it (R143). -/
def hopOf (p : PlanDoc) (act : BitVec 64) (f : Flight) (k : Nat) : Hop :=
  match f.path.find? (·.buf = k) with
  | some h => h
  | none =>
    let r := routerXY (bufRouter k)
    let w := f.load.way
    let reached := decide (r = w.goal) || f.path.any fun h => decide (bufRouter h.buf = routerIx w.goal)
    let o := nextOut p act w r (bufInput k) reached (f.path.any (·.vc))
    { buf := k, out := o.1, vc := o.2, passed := 0 }

/-- The output ports that a flight uses at a router: a chain also leaves a copy at a member's (R147). -/
def hopOuts (l : Load) (h : Hop) : List Nat := if l.way.isChain && l.way.ends.contains (bufRouter h.buf) then [h.out, 4] else [h.out]

/-- Another cart, or another note, stands in the middle of an output link that a flight needs. -/
def linkBusy (fs : List Flight) (f : Flight) (h : Hop) : Bool :=
  let mine := hopOuts f.load h
  fs.any fun g => decide (g.id ≠ f.id) && decide (g.load.isCart = f.load.isCart) &&
    g.path.any fun x => decide (bufRouter x.buf = bufRouter h.buf) && decide (x.passed < g.load.flits) && (hopOuts g.load x).any mine.contains

/-- One flit of a flight passes a router. -/
def passHop (id : Nat) (h : Hop) (fs : List Flight) : List Flight :=
  fs.map fun g => if g.id = id then { g with path := g.path.filter (fun x => decide (x.buf ≠ h.buf)) ++ [{ h with passed := h.passed + 1 }] } else g

/-- Routers work while their column has its clock and they have not failed (R14, R155). -/
def routerWorks (d : Dev) (r : Nat) : Bool := columnOn d r && ! d.net.routerFail.contains r

/-- The flit at the front of a buffer goes on, or out; the flag says whether it did. -/
def moveFlit (p : PlanDoc) (d : Dev) (s : Fabric × Bool) (k : Nat) : Fabric × Bool :=
  let fs := s.1.1
  let b := s.1.2
  match (mget b k []).head?.bind (fun e => fs.find? (·.id = e.1)) with
  | none => s
  | some f =>
    let h := hopOf p d.net.detours f k
    let r := bufRouter k
    if ! routerWorks d r || linkBusy fs f h then s
    else if 4 ≤ h.out then ((passHop f.id h fs, popBuf b k), true)
    else match hop (routerXY r) h.out with
      | none => s
      | some (r', inp') =>
        let k' := bufOf f.load r' inp' h.vc
        if slotFree b k' then ((passHop f.id h fs, pushBuf (popBuf b k) k' f.id), true) else s

/-! ### Injection -/

def entryBuf (l : Load) : Nat := bufOf l l.start (exitPort l.start l.src) false

/-- A fenced stall starts no cart or note; one begun goes on (R153). -/
def mayEnter (d : Dev) (f : Flight) : Bool :=
  f.load.ok && decide (0 < f.left) && ! (d.net.fenced.contains f.load.src && decide (f.left = f.load.flits) && ! f.load.fromRouter)

/-- The next flit of a source enters its router; of the loads of one port the oldest goes first, whole. -/
def enterFlit (d : Dev) (s : (Fabric × Bool) × List Nat) (f : Flight) : (Fabric × Bool) × List Nat :=
  let k := entryBuf f.load
  if ! mayEnter d f || s.2.contains k then s
  else if routerWorks d (bufRouter k) && slotFree s.1.1.2 k then
    (((s.1.1.1.map fun g => if g.id = f.id then { g with left := g.left - 1 } else g, pushBuf s.1.1.2 k f.id), true), k :: s.2)
  else (s.1, k :: s.2)

/-- One cycle: every source and every buffer moves a flit where it can. -/
def fabricCycle (p : PlanDoc) (d : Dev) (s : Fabric) : Fabric × Bool :=
  let s := (s.1.foldl (enterFlit d) ((s, false), [])).1
  (s.1.2.map (·.1)).foldl (moveFlit p d) s

/-- Cycles until nothing moves; the count is fuel. -/
def fabricRun (p : PlanDoc) (d : Dev) : Nat → Fabric → Fabric
  | 0, s => s
  | n + 1, s => let q := fabricCycle p d s; if q.2 then fabricRun p d n q.1 else q.1

/-- Enough cycles for every flit to take 1,024 hops, one after another. -/
def fabricFuel (fs : List Flight) : Nat := fs.foldl (fun n f => n + 1024 * f.load.flits) 1

/-- The flits on the nets go as far as they can. -/
def settleNets (d : Dev) : Dev :=
  match theDoc d with
  | none => d
  | some p =>
    let s := fabricRun p d (fabricFuel d.net.flights) (d.net.flights, d.net.bufs)
    { d with net := { d.net with flights := s.1, bufs := s.2 } }

/-! ### Sending -/

def launch (l : Load) (d : Dev) : Dev :=
  { d with net := { d.net with flights := d.net.flights ++ [{ id := d.net.nextFlight, load := l, left := l.flits, path := [] }], nextFlight := d.net.nextFlight + 1 } }

/-- A note of the device goes on the note net. -/
def sendNote (n : Note) (d : Dev) : Dev := emit (.note n (noteFlits n)) (launch (.note n) d)

/-! ### Arriving -/

/-- The hop at which the whole of a flight has reached an endpoint: it has left the net there, or, as a chain, has passed the member's
router (R147). -/
def landing (f : Flight) (e : Nat) : Option Hop :=
  f.path.find? fun h => decide (h.passed = f.load.flits) &&
    (if f.load.way.isChain then decide (bufRouter h.buf = e) else decide (4 ≤ h.out))

/-- The copies of a flight that have come, each with the VC that it came on. -/
def landedCopies (f : Flight) : List Cart :=
  match f.load with
  | .cart _ cs => cs.filterMap fun c => (landing f (if f.load.way.isChain then c.dest else 0)).map fun h => { c with vc := b2n h.vc }
  | .note _ => []

/-- Every cart that has come and not been received, in the order sent. -/
def arrived (d : Dev) : List Cart := d.net.flights.flatMap landedCopies

def cartKey (c : Cart) : Nat × Nat × Nat × Nat := (c.src, c.dest, c.queue, c.vc)

/-- A cart has come, and is the next of its source, destination, queue and VC (R140). -/
def cartHere (d : Dev) (c : Cart) : Bool := decide ((arrived d).find? (fun x => decide (cartKey x = cartKey c)) = some c)

/-- Flights leave the nets, with their flits. -/
def dropFlights (sel : Flight → Bool) (d : Dev) : Dev :=
  let ids := (d.net.flights.filter sel).map (·.id)
  let bs := d.net.bufs.foldl (fun m e => mset m e.1 [] (e.2.filter fun x => ! ids.contains x.1)) []
  { d with net := { d.net with flights := d.net.flights.filter (fun f => ! sel f), bufs := bs } }

def dropFirst {α : Type} (p : α → Bool) : List α → List α
  | [] => []
  | a :: r => if p a then r else a :: dropFirst p r

def sameCart (c x : Cart) : Bool := decide ({ x with vc := c.vc } = c)

/-- A copy of a flight is received. -/
def takeFrom (c : Cart) (f : Flight) : Flight :=
  match f.load with
  | .cart o cs => { f with load := .cart o (dropFirst (sameCart c) cs) }
  | .note _ => f

def spentCart (f : Flight) : Bool := match f.load with | .cart _ [] => true | _ => false

def mapFirst {α : Type} (p : α → Bool) (g : α → α) : List α → List α
  | [] => []
  | a :: r => if p a then g a :: r else a :: mapFirst p g r

/-- The cart leaves the net: the first flight with such a copy gives it up, and ends with its last. -/
def takeCart (c : Cart) (d : Dev) : Dev :=
  dropFlights spentCart { d with net := { d.net with flights := mapFirst (fun f => (landedCopies f).contains c) (takeFrom c) d.net.flights } }

/-- The flight with a copy of a cart, come or not. -/
def flightOf (d : Dev) (c : Cart) : Option Flight :=
  d.net.flights.find? fun f => match f.load with | .cart _ cs => cs.any (sameCart c) | .note _ => false

def inFlight (d : Dev) (c : Cart) : Bool := (flightOf d c).isSome

/-- The whole of a cart is lost, wherever it is (R156). -/
def loseCart (c : Cart) (d : Dev) : Dev :=
  match flightOf d c with
  | some f => dropFlights (fun g => decide (g.id = f.id)) d
  | none => d

def isNote (n : Note) (f : Flight) : Bool := match f.load with | .note m => decide (m = n) | .cart _ _ => false

/-- A note that has come. -/
def noteCame (n : Note) (f : Flight) : Bool := isNote n f && (landing f 0).isSome

def notesHere (d : Dev) (n : Note) : Nat := (d.net.flights.filter (noteCame n)).length

/-- One such note leaves the net. -/
def takeNote (n : Note) (d : Dev) : Dev :=
  match d.net.flights.find? (noteCame n) with
  | some f => dropFlights (fun g => decide (g.id = f.id)) d
  | none => d

end Sys2Proof.Machine
end

