-- ==== Sys2Proof/Machine/Recover.lean ====
section
/-! DEFINITION. Replay and fence recovery (R153-R155, R220-R223, R376-R382, R490, R491, R496): what every family that can
order a replay, fence a stall or lose a plane shares. -/
namespace Sys2Proof.Machine

/-! ### Scripts in force (R103, R381) -/

def scriptOf (d : Dev) (i : Nat) : Option StallScript := (theDoc d).bind fun p => p.scripts.find? (·.stall = i)

def ownWords (d : Dev) (i : Nat) : List W64 := ((scriptOf d i).map (·.words)).getD []

/-- The cover stall of a stall, and the cover script. -/
def coverOf (d : Dev) (f : Nat) : Option Nat := ((scriptOf d f).bind (·.cover)).map (·.1)
def coverWords (d : Dev) (f : Nat) : List W64 := (((scriptOf d f).bind (·.cover)).map (·.2)).getD []

/-- The fenced stall whose cover script stall i runs. -/
def coverJob (d : Dev) (i : Nat) : Option Nat := d.net.covered.find? fun f => decide (coverOf d f = some i)

/-- The words that stall i runs in a step: its own script, then its cover script. -/
def allWords (d : Dev) (i : Nat) : List W64 :=
  ownWords d i ++ (match coverJob d i with | some f => coverWords d f | none => [])

def membersOf (d : Dev) (k : Nat) : List Nat := ((domEntry d k).map (·.stalls)).getD []

/-- A stall whose script runs: its domain runs a step that is not stopped, it is not fenced, and its arithmetic island
has its clock. -/
def stallActive (d : Dev) (i : Nat) : Bool :=
  match domOfStall d i with
  | some k => (getDom d k).running && ! (getDom d k).halted && ! d.net.fenced.contains i && ! islandStopped d i
  | none => false

/-- Destination and queue after the rewriting of step 6 of R380. -/
def coverDest (d : Dev) (dest q : Nat) : Nat × Nat :=
  if d.net.covered.contains dest then (match coverOf d dest with | some c => (c, q + 2048) | none => (dest, q)) else (dest, q)

/-! ### A step from word 0 -/

/-- A stall at the start of a step's scripts. -/
def stallStart (x : Stall) : Stall :=
  { x with pc := 0, curSlot := 0xFFFF, issued := [], inq := [], doneIssued := false, done := false, masked := [], rqRule := 0, rqFell := 0,
           outPasses := 0, widePasses := 0, led := [], select := [], scores := [], tills := [], guests := [] }

/-- Types that belong to a step (R141). -/
def stepCart (t : Nat) : Bool := decide (t ≠ 4) && decide (t ≠ 6)

/-- A cart of a step of a domain with members ms, or a credit or FENCED note of its stalls. -/
def stepFlight (ms : List Nat) (f : Flight) : Bool :=
  match f.load with
  | .cart c _ => stepCart c.typ && (ms.contains c.src || ms.contains c.dest)
  | .note n => f.load.fromRouter && (ms.contains n.src || ms.contains n.dest)

/-- Credits and sequence numbers (source, destination, queue) that a replay restores: those of the domain's stalls, and of port blocks
towards them (R155, R157). -/
def replayKey (ms : List Nat) (k : Nat × Nat × Nat) : Bool := ms.contains k.1 || (isRing k.1 && ms.contains k.2.1)

/-- What a step of domain k has in flight is gone: issued words, guests, escalations, carts and credits (R155, R221). -/
def dropStep (k : Nat) (d : Dev) : Dev :=
  let ms := membersOf d k
  let d := ms.foldl (fun d i => modStall i stallStart d) d
  let sts := d.mkt.stalls.foldl (fun m e => mset m e.1 {} { e.2 with guests := e.2.guests.filter fun g => ! ms.contains g.1 }) []
  let arrs := d.mkt.arrays.foldl (fun m e =>
      let mine := match e.2.esc with | some x => ms.contains x.stall | none => false
      let serves := decide (e.2.grant = some .mvm) && ms.contains (stallOf e.1)
      mset m e.1 {} (if mine || serves then { e.2 with esc := none, grant := none, pooled := false } else e.2)) []
  let chans := d.dram.chans.map fun e =>
    if e.2.state = .running && ((e.2.d.map (·.inSlot)).getD false) && decide (e.2.domain = k) then (e.1, { e.2 with state := .discarded, early := [] }) else e
  let d := dropFlights (stepFlight ms) { d with mkt := { d.mkt with stalls := sts, arrays := arrs }, dram := { d.dram with chans := chans } }
  { d with net := { d.net with credits := d.net.credits.filter (fun e => ! replayKey ms e.1),
                               waiting := d.net.waiting.filter (fun c => ! ms.contains c.dest),
                               heldSends := d.net.heldSends.filter fun h => ! ms.contains h.1 } }

/-- A cart lies in its stall's store and waits for its RECV. -/
def queueCart (c : Cart) (d : Dev) : Dev :=
  let t := coverDest d c.dest c.queue
  modStall t.1 (fun x => { x with inq := x.inq ++ [(t.2, c)] }) d

def journalOf (d : Dev) (k s : Nat) : Option JEntry := d.net.journal.find? fun e => decide (e.domain = k) && decide (e.step = s)

/-- A replay numbers the messages of its step flows from 0 again (R222, R255). -/
def restartFlow (k : Nat) (x : Flow) : Flow := if x.inUse && decide (x.domain = k) && decide (x.cls = 1) then { x with nextMsg := 0, gather := [] } else x

/-- Steps 3 and 4 of R221: carried lines, carts, credits and sequence numbers as the journal has them; scripts from word 0. -/
def restart (k : Nat) (d : Dev) : Dev :=
  let ms := membersOf d k
  let d := dropStep k d
  let d := { d with eth := { d.eth with flows := d.eth.flows.map fun e => (e.1, restartFlow k e.2) } }
  let e := journalOf d k (getDom d k).step
  let d := ((e.map (·.lines)).getD []).foldl (fun d l => setLine d (l.1 / 8192) (l.1 % 8192) l.2) d
  let d := ((e.map (·.carts)).getD []).foldl (fun d c => queueCart c d) d
  let sq := (d.net.seqs.filter fun q => ! replayKey ms q.1) ++ (d.net.seqs0.filter fun q => replayKey ms q.1)
  let d := { d with net := { d.net with seqs := sq } }
  modDom k (fun x => { x with replayed := true, replaying := false, halted := x.faultRaised }) (raise .blStep 0 k 0 d)

/-! ### Ordering a replay (R220, R223, R491) -/

/-- A second failure in a replayed step, or what no replay can mend, is FAULT with replay_failed. -/
def replayFails (k : Nat) (d : Dev) : Dev := raiseFault k (raise .blStep 1 k 0 d)

/-- Stop issue for a replay. A cause met while issue is already stopped is served by the same replay; after the device's done has
risen only a peer's request, or a failure in a replay on one, counts for the step (R223, R491; log 28). -/
def orderReplay (k : Nat) (peer : Bool) (d : Dev) : Dev :=
  let x := getDom d k
  if ! x.running || x.faultRaised || x.replaying || (x.done && ! peer && ! x.post) then d
  else if x.replayed then replayFails k d
  else
    let d := setDom d k { x with replaying := true, halted := true, post := x.done }
    if peer then raise .blStep 2 k 0 d else d

/-- The work of the domain's step has not ended: its done has not risen, or a replay on a peer's request runs (R491). -/
def inStep (d : Dev) (k : Nat) : Bool := let x := getDom d k; x.running && (! x.done || x.post)

def orderReplayOf (i : Nat) (d : Dev) : Dev :=
  match domOfStall d i with | some k => orderReplay k false d | none => d

/-! ### Blocking recoveries (R379, R382) -/

def blocked (d : Dev) (k : Nat) : Bool := d.net.recoveries.any fun r => decide (r.domain = k)

/-- The x4 stretch flag for a step that a recovery holds. -/
def holdFlag (k : Nat) (d : Dev) : Dev := if (getDom d k).running then raiseFlag k (8 * k + 6) d else d

/-- No spare for a blocking recovery: FAULT (R382). -/
def noSpareBlocking (k a : Nat) (d : Dev) : Dev := raiseFault k (noSpareAt 6 a d)

/-- A spare for a blocking recovery: a free one, else one of a background copy that has not been redirected. -/
def blockingSpare (a : Nat) (d : Dev) : Option (Nat × Dev) :=
  match takeSpare d a with
  | some s => some (s, d)
  | none =>
    match d.net.copies.find? (fun c => ! c.redirect && ! d.net.recoveries.any fun r => r.moves.any fun m => decide (m.1 = c.array)) with
    | none => none
    | some c =>
      let d := { d with net := { d.net with copies := d.net.copies.filter fun x => decide (x.array ≠ c.array) },
                        stock := { d.stock with progs := d.stock.progs.filter fun p => decide (p.array ≠ c.spare) } }
      some (c.spare, startCopy c.array c.kind d)

/-- A fence that R382 turns into FAULT: the stall covers another, or its cover is fenced or already covering. -/
def fenceBad (d : Dev) (i : Nat) : Bool :=
  let covering := fun c => (coverJob d c).isSome || d.net.recoveries.any fun r => r.array.isNone && decide (coverOf d r.stall = some c)
  covering i || (match coverOf d i with | some c => d.net.fenced.contains c || covering c | none => false)

/-- The audits of a stall are skipped (R130). -/
def skipAudits (i : Nat) (d : Dev) : Dev :=
  let n := (getStall d i).audits.length
  times n (raise .cvQuant 4 i 0) (modStall i (fun x => { x with audits := [] }) d)

/-- Fence a stall and start its recovery (R153, R378-R380, R496). One fence, one recovery. -/
def fence (i kind unit prior : Nat) (d : Dev) : Dev :=
  if d.net.fenced.contains i then d else
  let d := { d with net := { d.net with fenced := d.net.fenced ++ [i] } }
  let d := raise .chFault 3 i 0 (faultRec { stallRec kind 4 unit i d with prior := prior } d)
  let d := if i < 1024 && (mfind d.stock.parts 16).isSome then raise .st 7 0 0 d else d
  let d := skipAudits i d
  match domOfStall d i with
  | none => d
  | some k =>
    if fenceBad { d with net := { d.net with recoveries := d.net.recoveries.filter fun r => r.stall ≠ i } } i then raiseFault k d
    else if (getDom d k).faultRaised then d
    else
      let r : Recovery := { stall := i, domain := k, array := none, plane := 0, kind := kind, startTick := d.tick, phase := 2, moves := [] }
      let d := holdFlag k { d with net := { d.net with recoveries := d.net.recoveries ++ [r] } }
      if inStep d k then modDom k (fun x => { x with replaying := true, halted := true }) d else d

/-! ### Steps 3-6 of R380 -/

/-- The peers that can serve stock: device peers of the PORT section whose sub-port is UP, lowest rank first (R292, R380). -/
def stockPeers (d : Dev) : List Nat :=
  let ps := ((theDoc d).map (·.ports)).getD []
  sortBy (fun a b => decide (a ≤ b)) ((ps.filter fun e => decide (e.role = 1) && decide ((getSub d e.port e.sub).state = .up)).map (·.peerRank)).eraseDups

/-- The rank to fetch from, or 0xFFFF when there is none. -/
def firstPeer (d : Dev) : Nat := ((stockPeers d).head?).getD 0xFFFF

/-- Fetches that rebuild every chunk part of array a's planes in array s. -/
def fetchesFor (d : Dev) (a s : Nat) : List Fetch :=
  let us := (List.range 64).flatMap fun p => (usesOf d a p).map fun u => (u, p)
  let keys := (us.map fun u => (u.1.1, u.1.2.1, u.1.2.2.2)).eraseDups
  keys.map fun q =>
    let x := getPart d q.1
    let mine := us.filter fun u => decide ((u.1.1, u.1.2.1, u.1.2.2.2) = q)
    { part := q.1, gen := if q.2.2 then x.side else x.live, chunk := q.2.1, src := firstPeer d,
      planes := mine.map fun u => (u.1.2.2.1, s, u.2), rx := [], got := false, left := mine.map fun u => u.1.2.2.1, moves := false }

/-- The stock arrays that a stall holds. -/
def stallStock (d : Dev) (i : Nat) : List Nat :=
  ((List.range 16).map (16 * i + ·)).filter fun a => ! isShelf a && ! (getArr d a).retired && (isStock d a || spareTaken d a) && ! (stockedPlanes d a).isEmpty

/-- Step 3 and 4 for one array: its spare, and the copy from its own cells or from a peer. -/
def moveArray (i : Nat) (a : Nat) (d : Dev) : Option (Nat × Dev) :=
  match d.net.copies.find? (fun c => decide (c.array = a)) with
  | some c => some (c.spare, d)
  | none =>
    match blockingSpare a d with
    | none => none
    | some (s, d) =>
      let own := ! d.net.routerFail.contains i && ! islandStopped d (2048 + i) && ! (getArr d a).suspect
      if own then
        let c : Copy := { array := a, spare := s, kind := 0, planes := stockedPlanes d a, redirect := false, retiring := false }
        some (s, { d with net := { d.net with copies := d.net.copies ++ [c] } })
      else some (s, { d with net := { d.net with fetches := d.net.fetches ++ fetchesFor d a s } })

def moveAll (i : Nat) : List Nat → List (Nat × Nat) → Dev → Option (List (Nat × Nat) × Dev)
  | [], ms, d => some (ms, d)
  | a :: r, ms, d => match moveArray i a d with
    | none => none
    | some (s, d) => moveAll i r (ms ++ [(a, s)]) d

def setRecovery (r : Recovery) (d : Dev) : Dev :=
  { d with net := { d.net with recoveries := d.net.recoveries.map fun q => if q.stall = r.stall ∧ q.array = r.array ∧ q.plane = r.plane then r else q } }

def dropRecovery (r : Recovery) (d : Dev) : Dev :=
  { d with net := { d.net with recoveries := d.net.recoveries.filter fun q => ! (decide (q.stall = r.stall) && decide (q.array = r.array) && decide (q.plane = r.plane)) } }

/-- A fence recovery after the quiescence: its spares and copies. No spare left is FAULT (R382). -/
def startMoves (r : Recovery) (d : Dev) : Dev :=
  if r.array.isSome || decide (r.phase ≠ 2) then d else
  match moveAll r.stall (stallStock d r.stall) [] d with
  | some (ms, d) => setRecovery { r with phase := 3, moves := ms } d
  | none => noSpareBlocking r.domain (16 * r.stall) d

/-- Every plane hash of an array's move is written. -/
def moveDone (d : Dev) (m : Nat × Nat) : Bool :=
  (d.net.copies.all fun c => decide (c.array ≠ m.1) || c.redirect) &&
    (d.net.fetches.all fun f => ! f.planes.any (fun p => decide (p.2.1 = m.2)) || f.left.isEmpty)

def movesReady (d : Dev) (r : Recovery) : Bool := decide (r.phase = 3) && r.moves.all (moveDone d)

/-- Step 6: the cover takes over, or a stall without one leaves the done combination. -/
def coverEnable (r : Recovery) (d : Dev) : Dev :=
  let d := r.moves.foldl (fun d m =>
    let d := redirectTo m.1 m.2 d
    { d with net := { d.net with copies := d.net.copies.filter (fun c => decide (c.array ≠ m.1)),
                                 fetches := d.net.fetches.filter fun f => ! f.planes.any fun p => decide (p.2.1 = m.2) } }) d
  let d := { d with net := { d.net with covered := d.net.covered ++ [r.stall] } }
  let prior := priorRec (fun x => decide (x.kind = r.kind) && decide (x.stall = r.stall)) d
  raise .chFault 4 r.stall 0 (faultRec { stallRec r.kind 5 15 r.stall d with prior := prior } (dropRecovery r d))

/-- Words held by a FENCED note are issued again once their route entry names the replacement (R154). -/
def reissueHeld (d : Dev) : Dev :=
  let d := d.net.heldSends.foldl (fun d h => modStall h.1 (fun x => { x with issued := x.issued.map fun w =>
    if w.pos = h.2 then { w with held := false } else w }) d) d
  { d with net := { d.net with heldSends := [] } }

/-- The fence recoveries of a domain end together, and the step is replayed (R380 step 7, R382); one that falls between the device's done
and the next bell belongs to the next step, which has run nothing yet (R491). -/
def tryCover (k : Nat) (d : Dev) : Dev :=
  let rs := d.net.recoveries.filter fun r => decide (r.domain = k) && r.array.isNone
  if rs.isEmpty || ! rs.all (movesReady d) || (getDom d k).faultRaised then d else
  let d := reissueHeld (rs.foldl (fun d r => coverEnable r d) d)
  if ! inStep d k then d
  else if (getDom d k).replayed then replayFails k d
  else restart k d

/-- REPLAY_QUIESCED: no cart, note or porter unit of the step is in flight, and every credit has returned. -/
def quiesced (k : Nat) (d : Dev) : Dev :=
  let fences := d.net.recoveries.filter fun r => decide (r.domain = k) && r.array.isNone
  if (getDom d k).faultRaised then d
  else if fences.isEmpty then (if (getDom d k).replaying then restart k d else d)
  else tryCover k (fences.foldl (fun d r => startMoves r d) d)

def execReplayQuiesced (domain : Nat) (s : State) : R := onDev (quiesced domain) s

/-- R379. -/
def recoveryTimeout (k : Nat) (d : Dev) : Dev :=
  match d.net.recoveries.find? fun r => decide (r.domain = k) with
  | none => d
  | some r => raiseFault k (raise .chFault 5 r.stall 0
    (faultRec { stallRec 21 6 15 r.stall d with prior := priorRec (fun x => decide (x.kind = r.kind) && decide (x.stall = r.stall)) d } d))

def execRecoveryTimeout (domain : Nat) (s : State) : R := onDev (recoveryTimeout domain) s

/-- R378: the arithmetic island is still stopped, with the supply inside its limits. -/
def execIslandStopTimeout (stall : Nat) (s : State) : R :=
  onDev (fun d => if decide (stall < 1920) && islandStopped d stall && d.wb.supplyOk then fence stall 20 6 0 d else d) s

/-- The domain of a step's cart or note: its destination's, else its source's. -/
def stepDomain (d : Dev) (src dest : Nat) : Option Nat :=
  match domOfStall d dest with | some k => some k | none => domOfStall d src

def flightDomain (d : Dev) (f : Flight) : Option Nat :=
  match f.load with
  | .cart c _ => if stepCart c.typ then stepDomain d c.src c.dest else none
  | .note n => stepDomain d n.src n.dest

/-- A flight with flits in a router, or in the middle of one. -/
def caughtIn (d : Dev) (i : Nat) (f : Flight) : Bool :=
  d.net.bufs.any (fun e => decide (bufRouter e.1 = i) && e.2.any fun x => decide (x.1 = f.id)) ||
    f.path.any fun h => decide (bufRouter h.buf = i) && decide (h.passed < f.load.flits)

/-- What a failed router holds is lost, and the steps that it belongs to are replayed (R155). -/
def loseCaught (i : Nat) (d : Dev) : Dev :=
  let lost := d.net.flights.filter (caughtIn d i)
  let ks := (lost.filterMap (flightDomain d)).eraseDups
  let d := dropFlights (fun f => lost.any fun g => decide (g.id = f.id)) d
  ks.foldl (fun d k => orderReplay k false d) d

/-- R146: the detour set of a router takes effect at the next bell of every domain; at once where none runs. -/
def activateDetour (i : Nat) (d : Dev) : Dev :=
  match (((theDoc d).map (·.faultMap)).getD []).find? (·.1 = i) with
  | some (_, n) =>
    if n = 0 then d
    else if (runningDoms d).isEmpty then { d with net := { d.net with detours := setsOf n } }
    else { d with net := { d.net with detourNext := some (n, []) } }
  | none => d

/-- R155, R146: the router is failed and forwards nothing more, what it holds is lost, its stall fenced, its detour set activated. A
second failure while a set is active or waits raises FAULT. -/
def creditTimeout (i : Nat) (d : Dev) : Dev :=
  if ! decide (i < 1920) || d.net.routerFail.contains i || ! d.plan.plan.isSome then d else
  let busy := decide (d.net.detours ≠ 1) || d.net.detourNext.isSome
  let d := settleNets { d with net := { d.net with routerFail := d.net.routerFail ++ [i] } }
  let d := loseCaught i (fence i 9 8 0 (raise .chNet 4 i 0 d))
  if busy then raiseFault ((domOfStall d i).getD 0) d else activateDetour i d

def execCreditTimeout (stall : Nat) (s : State) : R := onDev (creditTimeout stall) s

/-! ### Lost planes (R376) -/

/-- Chunk planes moved to an array, at the same plane numbers. -/
def moveMap (m : List ((Nat × Nat) × (Nat × Nat))) (chunk : Nat) (planes : List (Nat × Nat × Nat)) : List ((Nat × Nat) × (Nat × Nat)) :=
  m.map fun e => if e.1.1 = chunk then (match planes.find? (fun p => decide (p.1 = e.1.2)) with | some p => (e.1, (p.2.1, p.2.2)) | none => e) else e

/-- The fetch of the chunk that a plane belongs to, into a spare. -/
def planeFetch (d : Dev) (a p s : Nat) : Option Fetch :=
  match usesOf d a p with
  | [] => none
  | u :: _ =>
    let x := getPart d u.1
    let m := (if u.2.2.2 then x.sideMap else x.liveMap).filter fun e => decide (e.1.1 = u.2.1)
    some { part := u.1, gen := if u.2.2.2 then x.side else x.live, chunk := u.2.1, src := firstPeer d,
           planes := m.map fun e => (e.1.2, s, e.2.2), rx := [], got := false, left := m.map (·.1.2), moves := false }

/-- A plane that an MVM of stall i waits for is lost: a blocking recovery. -/
def losePlane (i a p kind : Nat) (d : Dev) : Dev :=
  let k := (domOfStall d i).getD 0
  if d.net.recoveries.any fun r => decide (r.array = some a) && decide (r.plane = p) then d else
  match blockingSpare a d with
  | none => noSpareBlocking k a d
  | some (s, d) =>
    let r : Recovery := { stall := i, domain := k, array := some a, plane := p, kind := kind, startTick := d.tick, phase := 3, moves := [(a, s)] }
    let d := { d with net := { d.net with recoveries := d.net.recoveries ++ [r], fetches := d.net.fetches ++ (planeFetch d a p s).toList } }
    holdFlag k d

/-- The spare of a lost plane is programmed: the plane map moves, and the held MVM is issued to its unit again. -/
def planeBack (r : Recovery) (d : Dev) : Dev :=
  match r.array, r.moves with
  | some a, (_, s) :: _ =>
    let fs := d.net.fetches.filter fun f => f.planes.any fun p => decide (p.2.1 = s)
    let d := fs.foldl (fun d f => modPart f.part (fun x =>
      if x.side = f.gen ∧ x.live ≠ f.gen then { x with sideMap := moveMap x.sideMap f.chunk f.planes } else { x with liveMap := moveMap x.liveMap f.chunk f.planes }) d) d
    let d := { d with net := { d.net with fetches := d.net.fetches.filter fun f => ! f.planes.any fun p => decide (p.2.1 = s) } }
    let d := match (getArr d a).esc with
      | some e =>
        let d := modArr a (fun x => { x with esc := none }) d
        let d := if e.guest then modStall (stallOf a) (fun x => { x with guests := x.guests.filter fun g => ! (decide (g.1 = e.stall) && decide (g.2.1 = e.word)) }) d else d
        modStall e.stall (fun x => { x with issued := x.issued.map fun w => if w.pos = e.word then { w with held := false, owed := [] } else w }) d
      | none => d
    raise .chFault 4 r.stall 0 (faultRec { stallRec r.kind 5 15 r.stall d with array := a, plane := r.plane, prior := priorOf r.kind a d } (dropRecovery r d))
  | _, _ => d

/-! ### What a bell moves (R375, R377) -/

/-- Background copies whose last plane hash is written: their work moves, and the array retires. -/
def redirectsAtBell (d : Dev) : Dev :=
  let cs := d.net.copies.filter fun c => c.redirect && ! d.net.recoveries.any fun r => r.moves.any fun m => decide (m.1 = c.array)
  cs.foldl (fun d c =>
    let d := redirectTo c.array c.spare d
    let d := { d with net := { d.net with copies := d.net.copies.filter fun x => decide (x.array ≠ c.array) } }
    retireArr c.array (faultRec { arrRec c.kind 5 0 c.array d with prior := priorOf c.kind c.array d } d)) d

/-- Chunks fetched for a stocktake in service: their planes take their place at a bell (R294). -/
def fetchesAtBell (d : Dev) : Dev :=
  let fs := d.net.fetches.filter fun f => f.moves && f.got && f.left.isEmpty
  let d := fs.foldl (fun d f => modPart f.part (fun x =>
    if x.live = f.gen then { x with liveMap := moveMap x.liveMap f.chunk f.planes, liveDone := linsert x.liveDone f.chunk }
    else { x with sideMap := moveMap x.sideMap f.chunk f.planes, sideDone := linsert x.sideDone f.chunk }) d) d
  { d with net := { d.net with fetches := d.net.fetches.filter fun f => ! (f.moves && f.got && f.left.isEmpty) } }

end Sys2Proof.Machine
end

