-- ==== Sys2Proof/Machine/Fp.lean ====
section
/-! DEFINITION. Floating point of the stalls: binary32 with round to nearest even (R84), reductions (R91), and the LUT
functions (R93). A finite value is (-1)^s m 2^e with m a natural number, so that every product and sum is exact before its
one rounding. -/
namespace Sys2Proof.Machine

inductive FpVal where
  | nan
  | inf (neg : Bool)
  | fin (neg : Bool) (m : Nat) (e : Int)
  deriving DecidableEq, Repr

def nanW : Word := 0x7FC00000
def infW (neg : Bool) : Word := if neg then 0xFF800000 else 0x7F800000
def zeroW (neg : Bool) : Word := if neg then 0x80000000 else 0
def oneW : Word := 0x3F800000

def fpOf (w : Word) : FpVal :=
  let s := w.getLsbD 31
  let ex := bits w.toNat 30 23
  let fr := bits w.toNat 22 0
  if ex = 255 then (if fr = 0 then .inf s else .nan)
  else if ex = 0 then .fin s fr (-149) else .fin s (fr + 2 ^ 23) ((ex : Int) - 150)

/-- m / 2^k to the nearest integer, ties to even. -/
def rneShift (m k : Nat) : Nat :=
  let q := m / 2 ^ k
  let r := m % 2 ^ k
  if 2 ^ k < 2 * r ∨ (2 * r = 2 ^ k ∧ q % 2 = 1) then q + 1 else q

/-- m 2^e to the nearest integer, ties to even. -/
def rneScale (m : Nat) (e : Int) : Nat := if 0 ≤ e then m * 2 ^ e.toNat else rneShift m (-e).toNat

/-- The binary32 nearest to (-1)^s m 2^e. -/
def roundW (neg : Bool) (m : Nat) (e : Int) : Word :=
  if m = 0 then zeroW neg else
  let q := max (e + (m.log2 : Int) - 23) (-149)
  let k := rneScale m (e - q)
  let (k, q) := if 2 ^ 24 ≤ k then (k / 2, q + 1) else (k, q)
  let ex := if k < 2 ^ 23 then 0 else (q + 150).toNat
  if 255 ≤ ex then infW neg
  else BitVec.ofNat 32 ((if neg then 2 ^ 31 else 0) + ex * 2 ^ 23 + k % 2 ^ 23)

def sgn (neg : Bool) (m : Nat) : Int := if neg then -(m : Int) else m

/-- The rounded sum of two finite values. -/
def roundSum (s₁ : Bool) (m₁ : Nat) (e₁ : Int) (s₂ : Bool) (m₂ : Nat) (e₂ : Int) : Word :=
  let e := min e₁ e₂
  let v := sgn s₁ (m₁ * 2 ^ (e₁ - e).toNat) + sgn s₂ (m₂ * 2 ^ (e₂ - e).toNat)
  if v = 0 then zeroW (s₁ && s₂) else roundW (decide (v < 0)) v.natAbs e

def addVal (x y : FpVal) : Word :=
  match x, y with
  | .nan, _ | _, .nan => nanW
  | .inf a, .inf b => if a = b then infW a else nanW
  | .inf a, _ => infW a
  | _, .inf b => infW b
  | .fin s m e, .fin s' m' e' => roundSum s m e s' m' e'

/-- An exact product. -/
def mulVal (x y : FpVal) : FpVal :=
  match x, y with
  | .nan, _ | _, .nan => .nan
  | .inf a, .inf b => .inf (a != b)
  | .inf a, .fin s m _ => if m = 0 then .nan else .inf (a != s)
  | .fin s m _, .inf b => if m = 0 then .nan else .inf (s != b)
  | .fin s m e, .fin s' m' e' => .fin (s != s') (m * m') (e + e')

def wordOf : FpVal → Word
  | .nan => nanW
  | .inf s => infW s
  | .fin s m e => roundW s m e

def fadd (x y : Word) : Word := addVal (fpOf x) (fpOf y)
def fmul (x y : Word) : Word := wordOf (mulVal (fpOf x) (fpOf y))
def ffma (x y z : Word) : Word := addVal (mulVal (fpOf x) (fpOf y)) (fpOf z)
def fneg (x : Word) : Word := match fpOf x with | .nan => nanW | _ => x ^^^ 0x80000000
def fsub (x y : Word) : Word := fadd x (fneg y)

def isNan (x : Word) : Bool := decide (fpOf x = .nan)

/-- The order of the non-NaN values; both zeros are 0. -/
def fkey (x : Word) : Int := sgn (x.getLsbD 31) (x.toNat % 2 ^ 31)
def flt (x y : Word) : Bool := ! isNan x && ! isNan y && decide (fkey x < fkey y)
/-- Maximum and minimum; a NaN operand gives NaN (log 26). -/
def fmax (x y : Word) : Word := if isNan x || isNan y then nanW else if fkey x < fkey y then y else x
def fmin (x y : Word) : Word := if isNan x || isNan y then nanW else if fkey y < fkey x then y else x

/-- BF16 (R84): the upper half, rounded to nearest even. -/
def toBf16 (x : Word) : BitVec 16 :=
  match fpOf x with
  | .nan => 0x7FC0
  | _ => BitVec.ofNat 16 (rneShift x.toNat 16)
def ofBf16 (b : BitVec 16) : Word := b.setWidth 32 <<< 16

/-- An integer times a power of two, rounded once. -/
def intScale (v : Int) (e : Int) : Word := roundW (decide (v < 0)) v.natAbs e

/-- R85: P s 2^E, rounded once; a zero product is +0.0. -/
def scaleOut (p : Int) (s : BitVec 16) (e : Int) : Word :=
  match fpOf (ofBf16 s) with
  | .fin n m x => if p = 0 ∨ m = 0 then 0 else roundW (n != decide (p < 0)) (p.natAbs * m) (x + e)
  | v => wordOf (mulVal v (.fin (decide (p < 0)) p.natAbs e))

/-! ### Reductions (R91) -/

def lane0 {α : Type} (l : List α) (k : Nat) : List α := (l.zipIdx.filter fun e => decide (e.2 % 64 = k)).map (·.1)

def treeLevel : List Word → List Word
  | a :: b :: r => fadd a b :: treeLevel r
  | l => l

/-- Six levels over the 64 lanes. -/
def treeSum (l : List Word) : Word :=
  ((treeLevel (treeLevel (treeLevel (treeLevel (treeLevel (treeLevel l)))))).head?).getD 0

def fsum (l : List Word) : Word := treeSum ((List.range 64).map fun k => (lane0 l k).foldl fadd 0)
def fdot (xs ys : List Word) : Word :=
  treeSum ((List.range 64).map fun k => (lane0 (xs.zip ys) k).foldl (fun a e => ffma e.1 e.2 a) 0)

/-! ### LUT functions (R93). Exact values as integers in units of 2^-400; the ROM's bits are the exact result rounded, moved
by the free value `Config.lutOffset` where the bound admits it (log 11) -/

def fxP : Nat := 400
def fxOne : Int := 2 ^ fxP
def fxMul (a b : Int) : Int := a * b / 2 ^ fxP
def fxDiv (a b : Int) : Int := if b = 0 then 0 else a * 2 ^ fxP / b

/-- A value in fixed point; what lies below 2^-400 is dropped. -/
def fxOf (neg : Bool) (m : Nat) (e : Int) : Int :=
  let k := e + (fxP : Int)
  let v : Int := if 0 ≤ k then (m : Int) * 2 ^ k.toNat else (m : Int) / 2 ^ (-k).toNat
  if neg then -v else v

/-- Σ z^(2i+1)/(2i+1) from i = k on; the count is fuel. -/
def atanhFrom (z2 : Int) : Nat → Nat → Int → Int
  | 0, _, _ => 0
  | n + 1, k, t => t / (2 * k + 1 : Nat) + atanhFrom z2 n (k + 1) (fxMul t z2)

def fxLog1 (y : Int) : Int :=
  let z := fxDiv (y - fxOne) (y + fxOne)
  2 * atanhFrom (fxMul z z) 140 0 z

def fxLn2 : Int := fxLog1 (2 * fxOne)

def expFrom (r : Int) : Nat → Nat → Int → Int
  | 0, _, _ => 0
  | n + 1, k, t => t + expFrom r n (k + 1) (fxMul t r / (k + 1 : Nat))

/-- e^x as (mantissa in fixed point, binary exponent). -/
def fxExp (x : Int) : Int × Int :=
  let k := x / fxLn2
  (expFrom (x - k * fxLn2) 90 0 fxOne, k)

/-- e^x in fixed point. -/
def fxExpV (x : Int) : Int :=
  let p := fxExp x
  if 0 ≤ p.2 then p.1 * 2 ^ p.2.toNat else p.1 / 2 ^ (-p.2).toNat

def erfFrom (z2 : Int) : Nat → Nat → Int → Int
  | 0, _, _ => 0
  | n + 1, k, t => t + erfFrom z2 n (k + 1) (fxMul (2 * t) z2 / (2 * k + 3 : Nat))

/-- √(v) in fixed point. -/
def fxSqrt (v : Nat) : Int := (Nat.sqrt (v * 2 ^ fxP) : Nat)

/-- 4 atan 1, by Machin's formula. -/
def atanInv (q : Nat) : Nat → Nat → Int → Int
  | 0, _, _ => 0
  | n + 1, k, t => (if k % 2 = 0 then t / (2 * k + 1 : Nat) else -(t / (2 * k + 1 : Nat))) + atanInv q n (k + 1) (t / (q * q : Nat))
def fxPi : Int := 4 * (4 * atanInv 5 180 0 (fxOne / 5) - atanInv 239 60 0 (fxOne / 239))

/-- Φ(x) = (1 + erf(x/√2)) / 2, |x| ≤ 14. -/
def fxPhi (x : Int) : Int :=
  let a : Int := x.natAbs
  let z := fxDiv a (fxSqrt (2 * 2 ^ fxP))
  let z2 := fxMul z z
  let e := fxMul (fxDiv (2 * fxMul (fxExpV (-z2)) (erfFrom z2 700 0 z)) (fxSqrt fxPi.toNat)) fxOne
  if 0 ≤ x then (fxOne + e) / 2 else (fxOne - e) / 2

inductive LutFn where
  | exp | ln | rsqrt | rcp | silu | gelu
  deriving DecidableEq, Repr

def lutFn : Nat → LutFn
  | 0 => .exp | 1 => .ln | 2 => .rsqrt | 3 => .rcp | 4 => .silu | _ => .gelu

def lutCode : LutFn → Nat
  | .exp => 0 | .ln => 1 | .rsqrt => 2 | .rcp => 3 | .silu => 4 | .gelu => 5

/-- The exact value of a function inside the domain of its bound, as (fixed-point mantissa, binary exponent). -/
def lutExact (f : LutFn) (neg : Bool) (m : Nat) (e : Int) : Int × Int :=
  let x := fxOf neg m e
  match f with
  | .exp => fxExp x
  | .ln =>
    let k := e + (m.log2 : Int)
    (fxLog1 ((m : Int) * 2 ^ (fxP - m.log2)) + k * fxLn2, 0)
  | .rsqrt =>
    let (m, e) := if e % 2 = 0 then (m, e) else (2 * m, e - 1)
    ((Nat.sqrt (2 ^ (2 * fxP) / m) : Nat), -(e / 2))
  | .rcp => ((if neg then -1 else 1) * (2 ^ fxP / m : Nat), -e)
  | .silu =>
    if 2 ^ fxP * 200 ≤ x then (sgn neg m, e + fxP)
    else if x ≤ -(2 ^ fxP * 200) then (0, 0)
    else (fxDiv x (fxOne + fxExpV (-x)), 0)
  | .gelu =>
    if 2 ^ fxP * 14 ≤ x then (sgn neg m, e + fxP)
    else if x ≤ -(2 ^ fxP * 14) then (0, 0)
    else (fxMul x (fxPhi x), 0)

/-- v 2^-400 2^k rounded to binary32; a zero takes the sign given. -/
def fxRound (z : Bool) (p : Int × Int) : Word :=
  if p.1 = 0 then zeroW z else roundW (decide (p.1 < 0)) p.1.natAbs (p.2 - fxP)

/-- The neighbour k ulp away from a finite word. -/
def ulpMove (w : Word) (k : Int) : Word :=
  let v := fkey w + k
  if v < 0 then BitVec.ofNat 32 (2 ^ 31 + v.natAbs) else BitVec.ofNat 32 v.natAbs

/-- Whether a word lies within n ulp of the exact value, or, for the last two functions, within 2^-24 of it. -/
def lutAdmits (f : LutFn) (p : Int × Int) (r c : Word) (n : Nat) : Bool :=
  match fpOf r, fpOf c with
  | .fin _ _ u, .fin s m e =>
    let x := p.2 - (fxP : Int)
    let lo := min (min e x) (min u (-24))
    let up := fun (k : Int) => (2 : Nat) ^ (k - lo).toNat
    let diff := (sgn s (m * up e) - p.1 * (up x : Nat)).natAbs
    decide (diff ≤ n * up u) || ((decide (f = .silu) || decide (f = .gelu)) && decide (diff ≤ up (-24)))
  | _, _ => false

def lutBound : LutFn → Nat
  | .exp => 2 | .ln => 2 | .rsqrt => 1 | .rcp => 1 | _ => 4

/-- A result inside the domain of the bound. -/
def lutIn (f : LutFn) (x : Word) (neg : Bool) (m : Nat) (e : Int) : Word :=
  let p := lutExact f neg m e
  let r := fxRound neg p
  let c := ulpMove r (Config.lutOffset (lutCode f) x)
  if lutAdmits f p r c (lutBound f) then c else r

/-- R93. -/
def lut (f : LutFn) (x : Word) : Word :=
  match f, fpOf x with
  | _, .nan => nanW
  | .exp, .inf s => if s then 0 else infW false
  | .ln, .inf s | .rsqrt, .inf s => if s then nanW else (if f = .ln then infW false else 0)
  | .rcp, .inf s => zeroW s
  | .silu, .inf s | .gelu, .inf s => if s then 0x80000000 else infW false
  | .exp, .fin s m e =>
    let v := fxOf s m e
    if 10 * v < -873 * fxOne then fxRound false (fxExp (max v (-2000 * fxOne)))
    else if 887 * fxOne < 10 * v then infW false else lutIn .exp x s m e
  | .ln, .fin s m e => if m = 0 then infW true else if s then nanW else lutIn .ln x s m e
  | .rsqrt, .fin s m e => if m = 0 then infW s else if s then nanW else lutIn .rsqrt x s m e
  | .rcp, .fin s m e => if m = 0 then infW s else lutIn .rcp x s m e
  | .silu, .fin s m e => if m = 0 then zeroW s else lutIn .silu x s m e
  | .gelu, .fin s m e => if m = 0 then zeroW s else lutIn .gelu x s m e

end Sys2Proof.Machine
end

