-- ==== Sys2Proof/Machine/Quant.lean ====
section
/-! DEFINITION. Activation blocks (R109-R116) and the requantiser (R88, R90, R116, R118). -/
namespace Sys2Proof.Machine

/-! ### Lines -/

def lineByte (l : Line) (k : Nat) : Byte := (l >>> (8 * k)).setWidth 8
def bytesLine (b : List Byte) : Line := BitVec.ofNat 512 (leNat (sub b 0 64))
def bytesOfLine (l : Line) : List Byte := leBytes 64 l.toNat

/-- n lines of a stall store from a line on. -/
def getLines (d : Dev) (stall line n : Nat) : List Line := (List.range n).map fun k => getLine d stall (line + k)
def setLines (d : Dev) (stall line : Nat) (ls : List Line) : Dev :=
  (ls.zipIdx).foldl (fun d e => setLine d stall (line + e.2) e.1) d

/-- n FP32 values from a line on, 16 a line. -/
def getF32 (d : Dev) (stall line n : Nat) : List Word :=
  (List.range n).map fun k => (getLine d stall (line + k / 16) >>> (32 * (k % 16))).setWidth 32
/-- n BF16 values from a line on, 32 a line. -/
def getBf16 (d : Dev) (stall line n : Nat) : List (BitVec 16) :=
  (List.range n).map fun k => (getLine d stall (line + k / 32) >>> (16 * (k % 32))).setWidth 16

/-- Lines of a byte stream; the count is fuel. -/
def linesOf : Nat → List Byte → List Line
  | 0, _ => []
  | n + 1, b => if b.isEmpty then [] else bytesLine (b.take 64) :: linesOf n (b.drop 64)

def f32Bytes (l : List Word) : List Byte := l.flatMap fun w => leBytes 4 w.toNat
def f32Lines (l : List Word) : List Line := linesOf l.length (f32Bytes l)
def bf16Lines (l : List (BitVec 16)) : List Line := linesOf l.length (l.flatMap fun w => leBytes 2 w.toNat)

/-! ### Blocks (R112, R113) -/

/-- A block: format 0 A8, 1 A12, 2 A16; elements as signed integers. -/
structure Block where
  fmt : Nat
  mark : Bool
  wide : Bool
  exp : Int
  nSat : Nat
  nZero : Nat
  xs : List Int
  shadow : List (BitVec 16)
  deriving DecidableEq, Repr

/-- Elements whose magnitude exceeds the format's bulk planes: outliers (R110). -/
def isOut (fmt : Nat) (x : Int) : Bool :=
  match fmt with | 0 => decide (127 < x.natAbs) | 1 => decide (2047 < x.natAbs) | _ => false

def outCount (fmt : Nat) (xs : List Int) : Nat := (xs.filter (isOut fmt)).length

def outLines (fmt n : Nat) : Nat := if fmt = 0 then (n + 15) / 16 else 0

def blockLines (fmt n : Nat) (mark : Bool) : Nat := 1 + (if fmt = 0 then 8 else 16) + outLines fmt n + (if mark then 16 else 0)

def s16 (v : Int) : Nat := (v % 65536).toNat

def blockBytes (b : Block) : List Byte :=
  let n := outCount b.fmt b.xs
  let nz := (b.xs.filter (· ≠ 0)).length
  let head := leBytes 1 (b.fmt + 4 * b2n b.mark + 8 * b2n b.wide) ++ leBytes 1 (blockLines b.fmt n b.mark) ++ leBytes 2 (s16 b.exp) ++
    leBytes 2 n ++ leBytes 2 b.nSat ++ leBytes 2 b.nZero ++ leBytes 2 nz ++ List.replicate 52 0
  let body :=
    if b.fmt = 0 then
      let els := b.xs.flatMap fun x => leBytes 1 (x.natAbs % 128 + 128 * b2n (decide (x < 0)))
      let ent := (b.xs.zipIdx.filter fun e => isOut 0 e.1).flatMap fun e => leBytes 4 (e.2 + (e.1.natAbs / 128) * 65536)
      els ++ sub ent 0 (64 * outLines 0 n)
    else b.xs.flatMap fun x => leBytes 2 (x.natAbs + 32768 * b2n (decide (x < 0)))
  let sh := if b.mark then b.shadow.flatMap fun w => leBytes 2 w.toNat else []
  head ++ body ++ sh

def blockOut (b : Block) : List Line := linesOf 60 (blockBytes b)

def signed16 (n : Nat) : Int := if n < 32768 then n else (n : Int) - 65536

/-- Outlier magnitudes by row: entries of 4 bytes. -/
def outEntries (by_ : List Byte) (n : Nat) : List (Nat × Nat) := (List.range n).map fun k => (leAt by_ (4 * k) 2 % 512, leAt by_ (4 * k + 2) 1)

def ascending : List (Nat × Nat) → Bool
  | a :: b :: r => decide (a.1 < b.1) && ascending (b :: r)
  | _ => true

/-- The block at a line, as the picker takes it: none where it is malformed (R114). -/
def readBlock (d : Dev) (stall line : Nat) : Option Block :=
  let h := bytesOfLine (getLine d stall line)
  let f := leAt h 0 1
  let fmt := f % 4
  let mark := bitOf f 2
  let lines := leAt h 1 1
  let e := signed16 (leAt h 2 2)
  let nOut := leAt h 4 2
  if fmt = 3 ∨ e < -192 ∨ 127 < e ∨ 512 < nOut ∨ lines ≠ blockLines fmt nOut mark then none else
  let body := (getLines d stall (line + 1) (lines - 1)).flatMap bytesOfLine
  let ents := outEntries (body.drop 512) nOut
  let hi := fun r => aget ents r 0
  let xs : List Int := (List.range 512).map fun r =>
    if fmt = 0 then
      let b := leAt body r 1
      sgn (bitOf b 7) (b % 128 + 128 * hi r)
    else
      let b := leAt body (2 * r) 2
      sgn (bitOf b 15) (b % 32768)
  let tail := sub (body.drop (512 + 4 * nOut)) 0 (64 * outLines 0 nOut - 4 * nOut)
  let nz := (xs.filter (· ≠ 0)).length
  let bad := decide (leAt h 10 2 ≠ nz) ||
    (match fmt with
     | 0 => ! ascending ents || ents.any (fun x => decide (x.2 = 0)) || tail.any (fun x => decide (x ≠ 0))
     | 1 => decide (nOut ≠ outCount 1 xs)
     | _ => decide (nOut ≠ 0))
  if bad then none else
  let shAt := 64 * ((if fmt = 0 then 8 else 16) + outLines fmt nOut)
  some { fmt := fmt, mark := mark, wide := bitOf f 3, exp := e, nSat := leAt h 6 2, nZero := leAt h 8 2, xs := xs,
         shadow := if mark then (List.range 512).map fun r => BitVec.ofNat 16 (leAt body (shAt + 2 * r) 2) else [] }

/-! ### Passes (R25-R27, R31) -/

/-- Rows whose bit b is set, of one sign, in ascending row order. -/
def planeRowsOf (xs : List Int) (b : Nat) (neg : Bool) : List Nat :=
  (xs.zipIdx.filter fun e => bitOf e.1.natAbs b && decide (decide (e.1 < 0) = neg)).map (·.2)

/-- Cut into groups of at most l; the count is fuel. -/
def groupsOf (l : Nat) : Nat → List Nat → List (List Nat)
  | 0, _ => []
  | n + 1, rows => if rows.isEmpty then [] else rows.take l :: groupsOf l n (rows.drop l)

/-- One pass: bit-plane, sign, rows. -/
structure Pass where
  b : Nat
  neg : Bool
  rows : List Nat
  deriving DecidableEq, Repr

/-- The passes of a block at a ones limit, in the order of R26. -/
def passesOf (l : Nat) (xs : List Int) : List Pass :=
  (List.range 15).flatMap fun b => [false, true].flatMap fun neg =>
    (groupsOf l 512 (planeRowsOf xs b neg)).map fun g => { b := b, neg := neg, rows := g }

/-- Passes in the outlier planes (R119) and in the planes of the wide fall-back (R120). -/
def outPassCount (fmt : Nat) (ps : List Pass) : Nat :=
  match fmt with
  | 0 => (ps.filter fun p => decide (7 ≤ p.b)).length
  | 1 => (ps.filter fun p => decide (11 ≤ p.b)).length
  | _ => 0
def widePassCount (ps : List Pass) : Nat := (ps.filter fun p => decide (p.b < 4)).length

/-- R387. -/
def groupHash (ps : List Pass) : W64 :=
  crcOf 2 (ps.flatMap fun p => leBytes 1 (p.b + 128 * b2n p.neg) ++ leBytes 64 (p.rows.foldl (fun n r => n + 2 ^ r) 0))

/-! ### The requantiser -/

/-- v 2^-E rounded to a multiple of 2^-24, as an integer of that unit: finite values. -/
def fixOf (s : Bool) (m : Nat) (x : Int) (e : Int) : Int := sgn s (rneScale m (x - e + 24))

def rneInt (t : Int) : Int := sgn (decide (t < 0)) (rneShift t.natAbs 24)

structure RqAcc where
  q : List Int
  carry : Int
  sat : Nat
  zeroed : Nat
  deriving DecidableEq, Repr

/-- One element (R88, R90). -/
def rqStep (e : Int) (a : RqAcc) (v : Word) : RqAcc :=
  match fpOf v with
  | .nan => { a with q := 0 :: a.q, carry := 0, zeroed := a.zeroed + 1 }
  | .inf s => { a with q := (if s then -32767 else 32767) :: a.q, carry := 0, sat := a.sat + 1 }
  | .fin s m x =>
    let f := fixOf s m x e
    if 2 ^ 39 ≤ f.natAbs then { a with q := (if s then -32767 else 32767) :: a.q, carry := 0, sat := a.sat + 1 } else
    let t := f + a.carry
    let n := rneInt t
    if 32767 < n.natAbs then { a with q := (if n < 0 then -32767 else 32767) :: a.q, carry := 0, sat := a.sat + 1 }
    else { a with q := n :: a.q, carry := t - n * 2 ^ 24, zeroed := if n = 0 ∧ m ≠ 0 then a.zeroed + 1 else a.zeroed }

/-- Eight groups of 64, the carry cleared before each. -/
def requant (e : Int) (vs : List Word) : RqAcc :=
  (List.range 8).foldl (fun a g => ((vs.drop (64 * g)).take 64).foldl (rqStep e) { a with carry := 0 }) { q := [], carry := 0, sat := 0, zeroed := 0 }

/-- floor(log2 |x|) of finite non-zero values, largest first. -/
def trueExps (vs : List Word) : List Int :=
  sortBy (fun a b => decide (b ≤ a)) (vs.filterMap fun v => match fpOf v with
    | .fin _ m x => if m = 0 then none else some (x + (m.log2 : Int))
    | _ => none)

def rqExp (es : List Int) (oAllow : Nat) (eLo : Int) (f : Nat) : Int :=
  match es with
  | [] => eLo
  | e0 :: _ =>
    if f = 2 ∨ es.length ≤ oAllow then max eLo (e0 - 14)
    else max eLo ((es[oAllow]?).getD e0 - (if f = 0 then 6 else 10))

/-- R116: format, exponent, and whether the block fell back. -/
def chooseBlock (vs : List Word) (sel floor oAllow theta : Nat) (eLo : Int) : Nat × Int × Bool :=
  let es := trueExps vs
  let ex := rqExp es oAllow eLo
  if sel ≠ 3 then (let f := max sel floor; (f, ex f, false))
  else if floor ≠ 0 then (floor, ex floor, false)
  else
    let q8 := requant (ex 0) vs
    if q8.zeroed + q8.sat ≤ theta ∨ ex 1 = ex 0 then (0, ex 0, false)
    else if (requant (ex 1) vs).sat ≤ q8.sat then (1, ex 1, true) else (0, ex 0, false)

/-- Shadow values of a marked block (R127). -/
def shadowOf (v : Word) : BitVec 16 := if isNan v then 0 else toBf16 v

def makeBlock (vs : List Word) (f : Nat) (e : Int) (wide mark : Bool) : Block :=
  let q := requant e vs
  { fmt := f, mark := mark, wide := wide, exp := e, nSat := q.sat, nZero := q.zeroed, xs := q.q.reverse,
    shadow := if mark then vs.map shadowOf else [] }

end Sys2Proof.Machine
end

