-- ==== Sys2Proof/Machine/Vec.lean ====
section
/-! DEFINITION. The vector unit's operations (R84, R91-R101, R339), on lines of a stall store. The first operand of an
operation counts from the word's line a, the others from b, the destination from c (log 6). -/
namespace Sys2Proof.Machine

/-- What a kernel knows of the word that runs it: the lines, and the ticket's sampling fields. -/
structure VecCtx where
  stall : Nat
  a : Nat
  b : Nat
  c : Nat
  mode : Nat
  k : Nat
  temp : Word
  minp : Word
  seed : W64
  pos : Nat
  /-- rank of the adapter that the ticket pins; 0 without one -/
  rank : Nat
  deriving DecidableEq, Repr

def zip3 (f : Word → Word → Word → Word) : List Word → List Word → List Word → List Word
  | x :: xs, y :: ys, z :: zs => f x y z :: zip3 f xs ys zs
  | _, _, _ => []

/-! ### Norms (R94) -/

def rmsNorm (xs gs : List Word) (invN eps : Word) : List Word :=
  let m := fmul (fdot xs xs) invN
  let r := lut .rsqrt (fadd m eps)
  List.zipWith (fun x g => fmul (fmul x r) g) xs gs

def layerNorm (xs gs bs : List Word) (invN eps : Word) : List Word :=
  let mu := fmul (fsum xs) invN
  let ds := xs.map fun x => fsub x mu
  let m := fmul (fdot ds ds) invN
  let r := lut .rsqrt (fadd m eps)
  zip3 (fun x g b => ffma (fmul x r) g b) ds gs bs

/-! ### Rotary (R95): values in pairs, table (c, s) by pair -/

def rotary : List Word → List Word → List Word
  | x0 :: x1 :: xs, c :: s :: t => ffma x0 c (fmul (fneg x1) s) :: ffma x1 c (fmul x0 s) :: rotary xs t
  | _, _ => []

/-! ### Attention (R96) -/

structure AttAcc where
  m : Word
  l : Word
  acc : List Word
  first : Bool
  deriving DecidableEq, Repr

/-- One chunk: scores and values of its positions. -/
def attChunk (ss : List Word) (vs : List (List Word)) (dh : Nat) (a : AttAcc) : AttAcc :=
  if ss.isEmpty then a else
  let mn := ss.foldl fmax a.m
  let al := if a.first then 0 else lut .exp (fsub a.m mn)
  let es := ss.map fun s => lut .exp (fsub s mn)
  { m := mn, l := ffma a.l al (fsum es), first := false,
    acc := (List.range dh).map fun d => ffma ((a.acc[d]?).getD 0) al (fdot es (vs.map fun v => (v[d]?).getD 0)) }

/-- Positions attended: 0 to t, less those outside the window (0: none outside). -/
def attended (t window : Nat) : List Nat := (List.range (t + 1)).filter fun p => decide (window = 0) || decide (t < p + window)

def attStart (dh : Nat) : AttAcc := { m := infW true, l := 0, acc := List.replicate dh 0, first := true }

/-- The positions of one chunk of 128 folded into the running state. -/
def attStep (q : List Word) (ks vs : Nat → List Word) (t dh window : Nat) (scale : Word) (acc : AttAcc) (m : Nat) : AttAcc :=
  let cs := (attended t window).filter fun p => decide (p / 128 = m)
  attChunk (cs.map fun p => fmul (fdot q (ks p)) scale) (cs.map vs) dh acc

def attResult (r : AttAcc) : List Word := r.acc.map fun x => fmul x (lut .rcp r.l)

def attention (q : List Word) (ks vs : Nat → List Word) (t dh window : Nat) (scale : Word) : List Word :=
  attResult ((List.range (t / 128 + 1)).foldl (attStep q ks vs t dh window scale) (attStart dh))

/-- A running state as lines: m, l and a flag that a chunk has been folded; then the accumulators. -/
def attWords (r : AttAcc) : List Word := [r.m, r.l, if r.first then 0 else 1] ++ List.replicate 13 0 ++ r.acc

def attOf (w : List Word) : AttAcc := { m := w.getD 0 0, l := w.getD 1 0, first := decide (w.getD 2 0 = 0), acc := w.drop 16 }

/-! ### Adapters (R98) -/

def adapterDelta (xs : List Word) (as bs : List (List Word)) (alpha : Word) : List Word :=
  let u := as.map fun r => fmul (fdot r xs) alpha
  bs.map fun r => fdot r u

/-! ### Sampling (R99-R101): (value, index) pairs, better first, the lower index on a tie -/

def better (x y : Word × Nat) : Bool := decide (fkey y.1 < fkey x.1) || (decide (fkey x.1 = fkey y.1) && decide (x.2 ≤ y.2))

def topPairs (k : Nat) (l : List (Word × Nat)) : List (Word × Nat) := (sortBy better l).take k

def logitOf (z : Word) : Word := if isNan z then infW true else z

/-- Scaled logits with their indices: z in mode 0, z inv_T in the others. -/
def scaled (x : VecCtx) (base : Nat) (zs : List Word) : List (Word × Nat) :=
  let inv := lut .rcp x.temp
  zs.zipIdx.map fun e => (logitOf (if x.mode = 0 then e.1 else fmul e.1 inv), base + e.2)

/-- The Gumbel value of a vocabulary index at a token position (R99). -/
def gumbel (seed : W64) (ix pos : Nat) : Word :=
  let w := philox0 seed (BitVec.ofNat 32 ix) (BitVec.ofNat 32 pos) 0 0
  let u := roundW false (2 * (w.toNat / 512) + 1) (-24)
  fneg (lut .ln (fneg (lut .ln u)))

/-- Pairs that a list of the first phase keeps: the ticket's k in top-k, else the largest. -/
def keepOf (x : VecCtx) : Nat := if x.mode = 2 then max 1 x.k else 1

def sampleLocal (x : VecCtx) (base : Nat) (zs : List Word) : List (Word × Nat) :=
  topPairs (keepOf x) (scaled x base zs)

/-- The second phase: the largest rne(s + g) of the candidates among this stall's logits. The token drawn follows the one that the slot
feeds, so the first of a prompt of n tokens has position n (R99). -/
def sampleChoose (x : VecCtx) (base : Nat) (cand : List (Word × Nat)) (zs : List Word) : List (Word × Nat) :=
  let ss := scaled x base zs
  if x.mode = 0 then topPairs 1 ss else
  let cand := topPairs (keepOf x) cand
  let top := ((cand.head?).map (·.1)).getD (infW true)
  let lim := fadd top (lut .ln x.minp)
  let ok := fun (s : Word × Nat) =>
    match x.mode with
    | 2 => cand.any fun c => decide (c.2 = s.2)
    | 3 => ! flt s.1 lim
    | _ => true
  topPairs 1 ((ss.filter ok).map fun s => (logitOf (fadd s.1 (gumbel x.seed s.2 (x.pos + 1))), s.2))

def pairBytes (l : List (Word × Nat)) : List Byte := l.flatMap fun e => leBytes 4 e.1.toNat ++ leBytes 4 e.2

/-- An absent pair of a list. -/
def padPair : Word × Nat := (infW true, 0xFFFFFFFF)

/-- The pairs of n places from a line on; absent ones are left out. -/
def getPairs (d : Dev) (stall line n : Nat) : List (Word × Nat) :=
  ((List.range n).map fun k =>
    let l := getLine d stall (line + k / 8)
    ((l >>> (64 * (k % 8))).setWidth 32, ((l >>> (64 * (k % 8) + 32)).setWidth 32 : Word).toNat)).filter fun e => decide (e.2 ≠ 0xFFFFFFFF)

/-! ### Experts (R339): the e largest logits; gate weights in ascending expert index -/

def experts (zs : List Word) (e : Nat) : List (Word × Nat) :=
  let sel := sortBy (fun a b => decide (a.2 ≤ b.2)) (topPairs e (zs.zipIdx.map fun z => (logitOf z.1, z.2)))
  let top := sel.foldl (fun m z => fmax m z.1) (infW true)
  let es := sel.map fun z => lut .exp (fsub z.1 top)
  let r := lut .rcp (fsum es)
  List.zipWith (fun g z => (fmul g r, z.2)) es sel

/-- The left fold of rne(g x o) over the selection (R339, R86). -/
def expertFold (gs : List (Word × List Word)) (n : Nat) : List Word :=
  match gs.map fun g => g.2.map (fmul g.1) with
  | [] => List.replicate n 0
  | o :: r => r.foldl (fun a b => List.zipWith fadd a b) o

/-! ### Kernels -/

def bfLines (n : Nat) : Nat := (n + 31) / 32
def fpLines (n : Nat) : Nat := (n + 15) / 16

/-- Row r of a matrix of n BF16 columns that lies packed from a line on, as a gather leaves it (R183). -/
def bfRow (d : Dev) (stall line n r : Nat) : List Word :=
  (List.range n).map fun c => let k := r * n + c; ofBf16 ((getLine d stall (line + k / 32) >>> (16 * (k % 32))).setWidth 16)

def bfRows (d : Dev) (stall line rows n : Nat) : List (List Word) := (List.range rows).map (bfRow d stall line n)

/-- n FP32 values of HBM from an address on. -/
def memF32 (m : List Host.Cell) (a n : Nat) : List Word := (List.range n).map fun k => BitVec.ofNat 32 (leNat (memReads m (a + 4 * k) 4))

def getVec (d : Dev) (x : VecCtx) (line n : Nat) : List Word := getF32 d x.stall line n
def putVec (x : VecCtx) (dst : Nat) (l : List Word) (d : Dev) : Dev := setLines d x.stall (x.c + dst) (f32Lines l)
/-- A list in n lines, filled up with absent pairs. -/
def putPairs (x : VecCtx) (dst n : Nat) (l : List (Word × Nat)) (d : Dev) : Dev :=
  setLines d x.stall (x.c + dst) (linesOf n (pairBytes ((l ++ List.replicate (8 * n - l.length) padPair).take (8 * n))))

/-- The exact FP32 values q 2^E of an activation block (R98). -/
def blockVals (d : Dev) (stall line n : Nat) : List Word :=
  match readBlock d stall line with
  | some b => (b.xs.take n).map fun q => intScale q b.exp
  | none => List.replicate n 0

/-- One operation of a kernel. -/
def vecOp (m : List Host.Cell) (x : VecCtx) (d : Dev) : VOp → Dev
  | .sum src n dst => putVec x dst [fsum (getVec d x (x.a + src) n)] d
  | .dot p q n dst => putVec x dst [fdot (getVec d x (x.a + p) n) (getVec d x (x.b + q) n)] d
  | .maxOf src n dst => putVec x dst [(getVec d x (x.a + src) n).foldl fmax (infW true)] d
  | .minOf src n dst => putVec x dst [(getVec d x (x.a + src) n).foldl fmin (infW false)] d
  | .add p q n dst => putVec x dst (List.zipWith fadd (getVec d x (x.a + p) n) (getVec d x (x.b + q) n)) d
  | .mul p q n dst => putVec x dst (List.zipWith fmul (getVec d x (x.a + p) n) (getVec d x (x.b + q) n)) d
  | .fma p q r n dst => putVec x dst (zip3 ffma (getVec d x (x.a + p) n) (getVec d x (x.b + q) n) (getVec d x (x.b + r) n)) d
  | .lut f src n dst => putVec x dst ((getVec d x (x.a + src) n).map (lut (lutFn f))) d
  | .toBf16 src n dst => setLines d x.stall (x.c + dst) (bf16Lines ((getVec d x (x.a + src) n).map toBf16))
  | .rmsNorm src g n dst i e => putVec x dst (rmsNorm (getVec d x (x.a + src) n) (getVec d x (x.b + g) n) i e) d
  | .layerNorm src g b n dst i e => putVec x dst (layerNorm (getVec d x (x.a + src) n) (getVec d x (x.b + g) n) (getVec d x (x.b + b) n) i e) d
  | .rotary src t n dst => putVec x dst (rotary (getVec d x (x.a + src) n) (memF32 m (t + x.pos * (4 * n)) n)) d
  | .attention q k v dh w s dst =>
    putVec x dst (attention (getVec d x (x.a + q) dh) (bfRow d x.stall (x.b + k) dh) (bfRow d x.stall (x.b + v) dh) x.pos dh w s) d
  | .attFold q k v chunk dh w s dst =>
    let acc := if chunk = 0 then attStart dh else attOf (getVec d x (x.c + dst) (16 + dh))
    let row := fun (base p : Nat) => bfRow d x.stall (x.b + base) dh (p - 128 * chunk)
    putVec x dst (attWords (attStep (getVec d x (x.a + q) dh) (row k) (row v) x.pos dh w s acc chunk)) d
  | .attOut src dh dst => putVec x dst (attResult (attOf (getVec d x (x.a + src) (16 + dh)))) d
  | .adapter blk rows brows al kMax dIn dOut dst =>
    let k := min kMax x.rank
    putVec x dst (adapterDelta (blockVals d x.stall (x.a + blk) dIn) (bfRows d x.stall (x.b + rows) k dIn) (bfRows d x.stall (x.b + brows) dOut k)
      ((getVec d x (x.b + al) 1).headD 0)) d
  | .sampleLocal src n base dst => putPairs x dst 32 (sampleLocal x base (getVec d x (x.a + src) n)) d
  | .sampleMerge src n choice dst => putPairs x dst (if choice then 1 else 32) (topPairs (if choice then 1 else keepOf x) (getPairs d x.stall (x.a + src) n)) d
  | .sampleChoose src n base cand dst => putPairs x dst 1 (sampleChoose x base (getPairs d x.stall (x.b + cand) 256) (getVec d x (x.a + src) n)) d
  | .experts src n e dst => putPairs x dst ((e + 7) / 8) (experts (getVec d x (x.a + src) n) e) d
  | .expertFold list outs n e dst =>
    putVec x dst (expertFold (((getPairs d x.stall (x.a + list) e)).map fun g => (g.1, getVec d x (x.b + outs + g.2 * fpLines n) n)) n) d

def runKernel (m : List Host.Cell) (x : VecCtx) (ops : List VOp) (d : Dev) : Dev := ops.foldl (vecOp m x) d

/-- Lines that an operation reads from a, from b, and writes from c: (offset, lines), for a slot at a position. -/
def opLines (pos : Nat) : VOp → List (Nat × Nat) × List (Nat × Nat) × (Nat × Nat)
  | .sum s n o => ([(s, fpLines n)], [], (o, 1))
  | .dot p q n o => ([(p, fpLines n)], [(q, fpLines n)], (o, 1))
  | .maxOf s n o | .minOf s n o => ([(s, fpLines n)], [], (o, 1))
  | .add p q n o | .mul p q n o => ([(p, fpLines n)], [(q, fpLines n)], (o, fpLines n))
  | .fma p q r n o => ([(p, fpLines n)], [(q, fpLines n), (r, fpLines n)], (o, fpLines n))
  | .lut _ s n o => ([(s, fpLines n)], [], (o, fpLines n))
  | .toBf16 s n o => ([(s, fpLines n)], [], (o, bfLines n))
  | .rmsNorm s g n o _ _ => ([(s, fpLines n)], [(g, fpLines n)], (o, fpLines n))
  | .layerNorm s g b n o _ _ => ([(s, fpLines n)], [(g, fpLines n), (b, fpLines n)], (o, fpLines n))
  | .rotary s _ n o => ([(s, fpLines n)], [], (o, fpLines n))
  | .attention q k v dh _ _ o => ([(q, fpLines dh)], [(k, bfLines ((pos + 1) * dh)), (v, bfLines ((pos + 1) * dh))], (o, fpLines dh))
  | .attFold q k v _ dh _ _ o => ([(q, fpLines dh)], [(k, bfLines (128 * dh)), (v, bfLines (128 * dh))], (o, 1 + fpLines dh))
  | .attOut s dh o => ([(s, 1 + fpLines dh)], [], (o, fpLines dh))
  | .adapter s r w l k i o t => ([(s, 57)], [(r, bfLines (k * i)), (w, bfLines (o * k)), (l, 1)], (t, fpLines o))
  | .sampleLocal s n _ o => ([(s, fpLines n)], [], (o, 32))
  | .sampleMerge s n k o => ([(s, (n + 7) / 8)], [], (o, if k then 1 else 32))
  | .sampleChoose s n _ c o => ([(s, fpLines n)], [(c, 32)], (o, 1))
  | .experts s n e o => ([(s, fpLines n)], [], (o, (e + 7) / 8))
  | .expertFold l w n e o => ([(l, (e + 7) / 8)], [(w, 6144)], (o, fpLines n))

end Sys2Proof.Machine
end

