-- ==== Sys2Proof/Machine/Script.lean ====
section
/-! DEFINITION. The stall sequencer and the script words other than MVM (R86, R87, R91, R102-R106, R116-R124, R139, R378). -/
namespace Sys2Proof.Machine

/-! ### Slots of the step (R325) -/

def stallPart (d : Dev) (i : Nat) : Option PartEntry := (((theDoc d).map (·.parts)).getD []).find? (·.stalls.contains i)

/-- What the schedule gives a slot on the partition of a stall; kind 3 is a catalogue query. -/
def slotUse (d : Dev) (i slot : Nat) : Option SlotUse :=
  (stallPart d i).bind fun p => d.srv.schedule.find? fun u => decide (u.slot = slot) &&
    (if p.kind = 2 then decide (u.kind = 3) && decide ((d.srv.scanning[u.ticket]?).map (·.part) = some p.num)
     else decide (u.kind ≠ 3) && decide (u.stage = p.stage))

def slotTicket (d : Dev) (i slot : Nat) : Option Nat := (slotUse d i slot).bind fun u => if u.kind = 3 then none else some u.ticket
def slotQuery (d : Dev) (i slot : Nat) : Option CatQuery := (slotUse d i slot).bind fun u => if u.kind = 3 then d.srv.scanning[u.ticket]? else none

def ticketHandle (d : Dev) (t : Nat) : Nat := handleOf t (getTicket d t).gen
def slotHandle (d : Dev) (i slot : Nat) : Nat := match slotTicket d i slot with | some t => ticketHandle d t | none => 0

/-- The generation of a slot's pin on a partition; work outside a slot uses the live one. -/
def slotGen (d : Dev) (i slot : Nat) : Option Nat :=
  match stallPart d i with
  | none => none
  | some p =>
    if slot = 0xFFFF then some (getPart d p.num).live
    else match slotQuery d i slot with
      | some q => some q.gen
      | none => (slotTicket d i slot).map fun t => if p.kind = 1 then (getTicket d t).genAdapt else (getTicket d t).genModel

/-- The policy epoch of a slot's pin (R121). -/
def slotEpoch (d : Dev) (i slot : Nat) : Nat := match slotTicket d i slot with | some t => (getTicket d t).epoch | none => d.epochs.cur

/-! ### Masking (R105, R181) -/

def isMasked (d : Dev) (i slot : Nat) : Bool := (getStall d i).masked.contains slot

/-- Mask a slot on a stall: the words not yet issued are skipped, the samples of its MVMs dropped (R130). -/
def maskSlot (i slot : Nat) (d : Dev) : Dev :=
  if isMasked d i slot then d else
  let held := (slotUse d i slot).isSome
  let n := ((getStall d i).audits.filter fun a => decide (a.slot = slot)).length
  let d := modStall i (fun x => { x with masked := x.masked ++ [slot], audits := x.audits.filter fun a => decide (a.slot ≠ slot) }) d
  let d := times n (raise .cvQuant 4 i 0) d
  if held then raise .cvDp 5 i 0 d else d

/-- A mask record of the step, once (R222). -/
def addMask (t pos cause : Nat) (d : Dev) : Dev :=
  if d.srv.maskRecs.contains (t, pos, cause) then d else { d with srv := { d.srv with maskRecs := d.srv.maskRecs ++ [(t, pos, cause)] } }

/-- Mask the ticket of a slot out of the step, with the cause that its mask record gives (R325, R340). -/
def maskTicket (i slot cause : Nat) (d : Dev) : Dev :=
  let d := maskSlot i slot d
  match slotUse d i slot with
  | some u => if u.kind = 3 then d else addMask u.ticket u.pos cause d
  | none => d

/-! ### The scoreboard (R104) -/

abbrev Span := Nat × Nat
def overlap (x y : Span) : Bool := decide (x.1 < y.1 + y.2) && decide (y.1 < x.1 + x.2)
def hits (xs ys : List Span) : Bool := xs.any fun x => ys.any fun y => overlap x y

/-- The stall whose script a word is of: the fenced one for a cover word. -/
def wordOwner (d : Dev) (i : Nat) (w : Issued) : Nat := if w.cover then (coverJob d i).getD i else i

/-- Outputs of a plane MVM by weight format (R80). -/
def outsOf (fmt : Nat) : Nat := match fmt with | 0 => 128 | 1 => 170 | 2 => 256 | 3 => 256 | _ => 512

/-- The logical array and plane of an MVM word. -/
def mvmArray (d : Dev) (i : Nat) (w : Issued) : Nat × Nat :=
  let s := (swOf w.word).sel
  (wordOwner d i w * 16 + bits s 10 7, bits s 6 1)

def mvmFormat (d : Dev) (i : Nat) (w : Issued) : Nat :=
  let a := mvmArray d i w
  match entryAt d a.1 a.2 with | some e => e.1.format | none => 0

def kernelOf (d : Dev) (i n : Nat) : List VOp :=
  match (((theDoc d).map (·.kernels)).getD []).find? (fun k => decide (k.stall = i) && decide (k.idx = n)) with
  | some k => k.ops
  | none => []

def combineOf (d : Dev) (i line : Nat) : Option CombineList :=
  (((theDoc d).map (·.combines)).getD []).find? fun c => decide (c.stall = i) && decide (c.line = line)

def descOf (d : Dev) (porter n : Nat) : Option Desc :=
  (((theDoc d).map (·.descs)).getD []).find? fun c => decide (c.porter = porter) && decide (c.idx = n)

/-- Elements of a transfer (R183): the attended positions where the descriptor counts from the slot. -/
def elemCount (x : Desc) (pos : Nat) : Nat := if x.op = 1 ∨ x.op = 2 then (if x.countFromSlot then pos + 1 else x.count) else 1

/-- Bytes of an element: a PORT word gives the length in lines where one side is the stall store. -/
def elemBytes (x : Desc) (lines : Nat) : Nat := if x.srcSpace = 3 ∨ x.dstSpace = 3 then 64 * lines else x.length

/-- The expert that a SEND of the expert map goes to, and the line of the selection that it goes by (R339). -/
def expertSend (d : Dev) (i route : Nat) : Option ExpertSend :=
  (((theDoc d).map (·.expertSends)).getD []).find? fun e => decide (e.stall = i) && decide (e.route = route)

/-- The expert of a route is not among those selected. -/
def notSelected (d : Dev) (i route : Nat) : Bool :=
  match expertSend d i route with
  | none => false
  | some e => ! (getPairs d i e.line 8).any fun p => decide (p.2 = e.expert)

def expertQueue (d : Dev) (i q : Nat) : Option ExpertQueue :=
  (((theDoc d).map (·.expertQueues)).getD []).find? fun e => decide (e.stall = i) && decide (e.queue = q)

/-- Lines that a word reads and lines that it writes. -/
def wordSpans (d : Dev) (i : Nat) (w : Issued) : List Span × List Span :=
  let x := swOf w.word
  if w.mask then ([], []) else
  match x.op with
  | 1 => let o := outsOf (mvmFormat d i w); ([(x.a, 57), (x.c, bfLines o)], [(x.b, fpLines o)])
  | 2 =>
    match combineOf d i x.a with
    | some c => ((c.terms.take x.sel).map (fun t => (t, fpLines c.n)) ++ (if bitOf x.flags 0 then [(x.c, fpLines c.n)] else []), [(x.b, fpLines c.n)])
    | none => ([], [])
  | 3 =>
    let ls := (kernelOf d i x.sel).map (opLines (((slotUse d i w.slot).map (·.pos)).getD 0))
    (ls.flatMap fun l => l.1.map (fun s => (x.a + s.1, s.2)) ++ l.2.1.map (fun s => (x.b + s.1, s.2)), ls.map fun l => (x.c + l.2.2.1, l.2.2.2))
  | 4 => ([(x.a, 32)], [(x.b, 57)])
  | 5 => ((x.a, x.b) :: ((expertSend d i x.sel).elim [] fun e => [(e.line, 1)]), [])
  | 6 => ([], [(x.a, x.b)])
  | 7 =>
    match descOf d (i / 8) x.sel with
    | some c =>
      let n := elemCount c (((slotUse d i w.slot).map (·.pos)).getD 0) * x.b
      if c.srcSpace = 3 then ([(x.a, n)], []) else ([], [(x.a, n)])
    | none => ([], [])
  | 8 => ([], [(x.a, 1)])
  | _ => ([], [])

/-- No earlier, uncompleted word holds a line that the word needs. -/
def linesFree (d : Dev) (i : Nat) (w : Issued) : Bool :=
  let mine := wordSpans d i w
  ((getStall d i).issued.takeWhile fun e => decide (e.pos ≠ w.pos)).all fun e =>
    let t := wordSpans d i e
    ! hits mine.1 t.2 && ! hits mine.2 t.1 && ! hits mine.2 t.2

/-- A SEND or PORT that a FENCED note left incomplete: it waits for its replacement, and the words behind it go on (R154). -/
def fencedBack (w : Issued) : Bool := w.held && (decide ((swOf w.word).op = 5) || decide ((swOf w.word).op = 7))

/-- The word that a unit takes next: the oldest of its queue, with its operands ready. -/
def unitWord (d : Dev) (i : Nat) (mine : Sw → Bool) : Option Issued :=
  if ! stallActive d i then none else
  match (getStall d i).issued.find? (fun w => mine (swOf w.word) && (decide ((swOf w.word).op = 1) || w.owed.isEmpty && ! fencedBack w)) with
  | some w => if ! w.held && w.owed.isEmpty && linesFree d i w then some w else none
  | none => none

def wordDone (i pos : Nat) (d : Dev) : Dev := modStall i (fun x => { x with issued := x.issued.filter fun w => decide (w.pos ≠ pos) }) d

def setWord (i : Nat) (w : Issued) (d : Dev) : Dev :=
  modStall i (fun x => { x with issued := x.issued.map fun e => if e.pos = w.pos then w else e }) d

/-- Run a word: its effect where its slot is not masked, and its completion. -/
def runWord (i : Nat) (w : Issued) (f : Dev → Dev) (d : Dev) : Dev :=
  wordDone i w.pos (if isMasked d i w.slot then d else f d)

/-! ### Issue (R104, R105) -/

def sameUnit (x y : Sw) : Bool := decide (x.op = y.op) && (decide (x.op ≠ 1) || decide (bits x.sel 10 7 = bits y.sel 10 7))

/-- The queue of the word's unit has room: 16 words. -/
def unitRoom (x : Stall) (w : Sw) : Bool :=
  decide (8 ≤ w.op) || decide ((x.issued.filter fun e => e.owed.isEmpty && sameUnit (swOf e.word) w).length < 16)

def issueNext (i : Nat) (d : Dev) : Dev :=
  if ! stallActive d i then d else
  let x := getStall d i
  let own := (ownWords d i).length
  match (allWords d i)[x.pc]? with
  | none => d
  | some w =>
    let s := swOf w
    let skip := x.masked.contains x.curSlot && decide (s.op ≠ 8) && decide (s.op ≠ 9)
    if skip && decide (s.op ≠ 5) then setStall d i { x with pc := x.pc + 1 }
    else if ! unitRoom x s then d
    else
      let slot := if s.op = 8 then s.sel else x.curSlot
      let e : Issued := { pos := x.pc, word := w, slot := slot, cover := decide (own ≤ x.pc), held := false, mask := skip, owed := [] }
      let empty := decide (s.op = 8) && (slotUse d i s.sel).isNone && ! x.masked.contains s.sel
      setStall d i { x with pc := x.pc + 1, issued := x.issued ++ [e], curSlot := if s.op = 9 then 0xFFFF else slot,
                            masked := if empty then x.masked ++ [s.sel] else x.masked }


/-! ### SLOT, DONE and the stall's done (R103, R106, R219) -/

def contextLine (d : Dev) (i slot : Nat) : Line :=
  match slotUse d i slot with
  | some u =>
    if u.kind = 3 then (match d.srv.scanning[u.ticket]? with | some q => Config.context q.request q.gen q.part | none => 0)
    else Config.context (ticketHandle d u.ticket) u.pos u.token
  | none => 0

def runSlot (i : Nat) (d : Dev) : Dev :=
  match unitWord d i (fun x => decide (x.op = 8)) with
  | some w => runWord i w (fun d => setLine d i (swOf w.word).a (contextLine d i w.slot)) d
  | none => d

def execSlot (stall : Nat) (s : State) : R := onDev (runSlot stall) s

def runDone (i : Nat) (d : Dev) : Dev :=
  match unitWord d i (fun x => decide (x.op = 9)) with
  | some w =>
    let d := wordDone i w.pos d
    if w.pos + 1 = (allWords d i).length then modStall i (fun x => { x with doneIssued := true }) d else d
  | none => d

def execDoneWord (stall : Nat) (s : State) : R := onDev (runDone stall) s

/-- A stall that has passed a reserve of the step table (R219). -/
def overReserve (e : StepEntry) (x : Stall) : Bool := decide (e.outRes < x.outPasses) || decide (e.widePct * x.rqRule < 100 * x.rqFell)

def stallDoneFx (i : Nat) (d : Dev) : Dev :=
  let x := getStall d i
  if ! stallActive d i || ! x.doneIssued || x.done || ! x.issued.isEmpty then d else
  let d := setStall d i { x with done := true }
  match domOfStall d i with
  | none => d
  | some k =>
    let d := modDom k (fun y => { y with workTick := d.tick }) d
    match stepEntry d k with
    | some e => if overReserve e x then raise .blStep 4 k 0 (modDom k (fun y => { y with reserveUsed := true }) d) else d
    | none => d

def execStallDone (stall : Nat) (s : State) : R := onDev (stallDoneFx stall) s

/-! ### Residue failures of words (R92, R378) -/

/-- A residue syndrome is not given (log 8). -/
def syndrome (d : Dev) : Nat × Dev := let p := takeFree d; ((Config.unstated 1 p.1).toNat % 2 ^ 32, p.2)

/-- The first failed check writes a record; a second fences the stall and the word gives no result. -/
def residue (i : Nat) (w : Issued) (kind unit fails : Nat) (d : Dev) : Dev × Bool :=
  if fails = 0 then (d, true) else
  let bit := if kind = 4 then 1 else 2
  let p := syndrome (raise .cvDp bit i 0 d)
  let r := { stallRec kind 0 unit i p.2 with ticket := slotHandle d i w.slot, detail := p.1 }
  let d := faultRec r p.2
  if fails = 1 then (d, true) else (fence i kind unit d.faults.head (raise .cvDp bit i 0 d), false)

/-- A stall-store double-bit error (R102, R378): a record and a replay, or a fence at the second of two steps within
1,024. -/
def storeLost (i kind unit : Nat) (rec : FaultRec → FaultRec) (d : Dev) : Dev :=
  let s := stallStep d i
  let x := getStall d i
  let again := x.dblSteps.any fun t => decide (t ≠ s) && decide (s - t < 1024)
  let d := faultRec (rec (stallRec kind 0 unit i d)) (setStall d i { x with dblSteps := s :: (x.dblSteps.filter fun t => decide (s - t < 1024)) })
  if again then fence i kind unit d.faults.head d else orderReplayOf i d

/-- A read of the stall store (R102): a corrected error is a flag, an uncorrectable one a record and a replay, and nothing is done
with the data. -/
def storeRead (i handle : Nat) (e : StoreErr) (f : Dev → Dev) (d : Dev) : Dev :=
  match e with
  | .clean => f d
  | .corrected => f (raise .cvDp 3 i 0 d)
  | .lost => storeLost i 6 7 (fun r => { r with ticket := handle }) (raise .cvDp 4 i 0 d)

/-- The sequencer reads the word at its position, and steps past it. -/
def issueWord (i : Nat) (e : StoreErr) (d : Dev) : Dev :=
  if stallActive d i then storeRead i (slotHandle d i (getStall d i).curSlot) e (issueNext i) d else d

def execScriptWordIssue (r : StoreRead) (s : State) : R := onDev (issueWord r.stall r.e) s

/-! ### COMBINE (R86, R87) -/

/-- The adapter that the ticket of a slot pins. -/
def slotAdapter (d : Dev) (i slot : Nat) : Option Adapter := (slotTicket d i slot).bind fun t => mfind d.srv.adapters (getTicket d t).adapter

/-- Without an adapter the last entry, an adapter delta, is omitted (R338). -/
def combineVal (d : Dev) (i : Nat) (x : Sw) (c : CombineList) (adapter : Bool) : List Word :=
  let ts := c.terms.take x.sel
  let vs := (if bitOf x.flags 1 && ! adapter then ts.dropLast else ts).map fun t => getF32 d i t c.n
  let y := match vs with | [] => List.replicate c.n 0 | v :: r => r.foldl (fun a b => List.zipWith fadd a b) v
  if bitOf x.flags 0 then List.zipWith fadd y (getF32 d i x.c c.n) else y

def combineFx (i : Nat) (w : Issued) (d : Dev) : Dev :=
  let x := swOf w.word
  match combineOf d i x.a with
  | some c => setLines d i x.b (f32Lines (combineVal d i x c (slotAdapter d i w.slot).isSome))
  | none => d

/-- A word of a unit: its operands are read, its checks pass at the first or the second run, and its results are written. -/
def runChecked (i kind unit : Nat) (r : WordRun) (w : Issued) (f : Dev → Dev) (d : Dev) : Dev :=
  storeRead i (slotHandle d i w.slot) r.e (fun d =>
    let p := residue i w kind unit r.fails d
    if p.2 then runWord i w f p.1 else p.1) d

def runCombine (i : Nat) (r : WordRun) (d : Dev) : Dev :=
  match unitWord d i (fun x => decide (x.op = 2)) with
  | none => d
  | some w => runChecked i 5 3 r w (combineFx i w) d

def execCombine (stall : Nat) (r : WordRun) (s : State) : R := onDev (runCombine stall r) s

/-! ### VEC (R91-R101) -/

def vecCtx (d : Dev) (i : Nat) (w : Issued) : VecCtx :=
  let x := swOf w.word
  let t := match slotTicket d i w.slot with | some t => getTicket d t | none => {}
  { stall := i, a := x.a, b := x.b, c := x.c, mode := t.mode, k := t.k, temp := t.temp, minp := t.minp, seed := t.seed,
    pos := ((slotUse d i w.slot).map (·.pos)).getD 0, rank := ((slotAdapter d i w.slot).map (·.rank)).getD 0 }

def runVec (m : List Host.Cell) (i : Nat) (r : WordRun) (int : Bool) (d : Dev) : Dev :=
  match unitWord d i (fun x => decide (x.op = 3)) with
  | none => d
  | some w => runChecked i (if int then 4 else 5) 5 r w (fun d => runKernel m (vecCtx d i w) (kernelOf d i (swOf w.word).sel) d) d

def execVec (stall : Nat) (r : WordRun) (int : Bool) (s : State) : R := onDev (runVec s.mem stall r int) s

/-! ### RQ (R88, R90, R116-R124, R127) -/

/-- The RQ ordinal of a word in the script that it is of. -/
def rqOrdinal (d : Dev) (i : Nat) (w : Issued) : Nat :=
  let own := (ownWords d i).length
  let ws := if w.cover then ((allWords d i).take w.pos).drop own else (ownWords d i).take w.pos
  (ws.filter fun x => decide ((swOf x).op = 4)).length

/-- One block's ledger entry (R124). -/
def ledgerOf (b : Block) (floored : Bool) : Ledger :=
  let n := outCount b.fmt b.xs
  { blocks := 1, wide := b2n b.wide, floored := b2n floored, saturated := b.nSat, zeroed := b.nZero, outliers := n, maxOut := n, maxSat := b.nSat }

def ledgerAdd (x y : Ledger) : Ledger :=
  let w := fun n : Nat => n % 2 ^ 32
  { blocks := w (x.blocks + y.blocks), wide := w (x.wide + y.wide), floored := w (x.floored + y.floored), saturated := w (x.saturated + y.saturated),
    zeroed := w (x.zeroed + y.zeroed), outliers := w (x.outliers + y.outliers), maxOut := max x.maxOut y.maxOut, maxSat := max x.maxSat y.maxSat }

def auditMode (d : Dev) : Bool := ((d.plan.plan).map (·.audit)).getD false

/-- The LFSR of stall i after its n-th block marks that block (R127). -/
def marks (d : Dev) (i n : Nat) : Bool := auditMode d && decide ((Config.lfsr d.mkt.seedIx i n).toNat % 2 ^ d.mkt.auditRate = 0)

def rqBlock (d : Dev) (i : Nat) (w : Issued) (n : Nat) : Block × Bool :=
  let x := swOf w.word
  let p := theDoc d
  let vs := getF32 d i x.a 512
  let fl := floorAt d (slotEpoch d i w.slot) (wordOwner d i w) (rqOrdinal d i w)
  let oa := (p.map (·.oAllow)).getD 0
  let th := (p.map (·.theta)).getD 0
  let el := (p.map (·.eLo)).getD 0
  let c := chooseBlock vs (x.sel % 4) fl oa th el
  let c0 := chooseBlock vs (x.sel % 4) 0 oa th el
  (makeBlock vs c.1 c.2.1 c.2.2 (marks d i n), decide (c0.1 < c.1))

def rqFx (i : Nat) (w : Issued) (d : Dev) : Dev :=
  let n := (getStall d i).blocks
  let q := rqBlock d i w n
  let b := q.1
  let x := swOf w.word
  let d := setLines d i x.b (blockOut b)
  let d := if 0 < b.nSat then raise .cvQuant 0 i 0 d else d
  let d := if b.wide then raise .cvQuant 1 i 0 d else d
  modStall i (fun y => { y with led := y.led ++ [(wordOwner d i w * 128 + rqOrdinal d i w, w.slot, ledgerOf b q.2)],
                                rqRule := y.rqRule + b2n (decide (x.sel % 4 = 3)), rqFell := y.rqFell + b2n b.wide }) d

def runRq (i : Nat) (r : WordRun) (d : Dev) : Dev :=
  match unitWord d i (fun x => decide (x.op = 4)) with
  | none => d
  | some w => runChecked i 4 4 r w (fun d => rqFx i w (modStall i (fun y => { y with blocks := y.blocks + 1 }) d)) d

def execRq (stall : Nat) (r : WordRun) (s : State) : R := onDev (runRq stall r) s

/-! ### SEND and RECV (R105, R115, R137, R139, R147, R364, R365) -/

def routeAt (d : Dev) (e n : Nat) : Option RouteEntry :=
  (((theDoc d).map (·.routes)).getD []).find? fun r => decide (r.at_ = e) && decide (r.idx = n)

/-- Every (endpoint, queue) that a cart on a route entry reaches, after the rewriting of R380. -/
def routeDests (d : Dev) (r : RouteEntry) : List (Nat × Nat) :=
  if r.mode = 2 ∨ r.mode = 3 then (chainMembers r.dest r.mode r.members).map fun m => coverDest d m r.queue
  else [coverDest d r.dest r.queue]

def creditsUsed (d : Dev) (src : Nat) (t : Nat × Nat) : Nat := aget d.net.credits (src, t.1, t.2) 0

/-- End-to-end credits of a queue that are out, over all sources. -/
def creditsOut (d : Dev) (t : Nat × Nat) : Nat := (d.net.credits.filter fun e => decide (e.1.2 = t)).foldl (fun n e => n + e.2) 0

/-- The depth of a queue in carts, as the queue map gives it; a cover queue that its own map does not list is as deep as the queue that it
takes over (R139, R380). -/
def queueDepth (d : Dev) (t : Nat × Nat) : Nat :=
  let depth := fun (e q : Nat) => ((((theDoc d).map (·.queues)).getD []).find? (·.stall = e)).bind fun m => (m.queues.find? (·.1 = q)).map (·.2)
  match depth t.1 t.2, coverJob d t.1 with
  | some n, _ => n
  | none, some f => if 2048 ≤ t.2 then (depth f (t.2 - 2048)).getD 0 else 0
  | none, none => 0

/-- A credit of a queue is free (R139). The guest queue has no depth (R377). -/
def hasCredit (d : Dev) (t : Nat × Nat) : Bool := decide (t.2 = 4095) || decide (creditsOut d t < queueDepth d t)

def useCredit (src : Nat) (t : Nat × Nat) (d : Dev) : Dev :=
  { d with net := { d.net with credits := aset d.net.credits (src, t.1, t.2) (creditsUsed d src t + 1) } }

/-- The carts that go out for one whose route reaches ts: what still goes where the route names, and one for each destination that
R380 has rewritten; each with the queues that it reaches. -/
def outgoing (c : Cart) (ts : List (Nat × Nat)) : List (Cart × List (Nat × Nat)) :=
  let ms := if c.mode = 2 ∨ c.mode = 3 then (chainMembers c.dest c.mode c.members).map (·, c.queue) else [(c.dest, c.queue)]
  let stay := ts.filter ms.contains
  let mask := fun (l : List (Nat × Nat)) => l.foldl (fun (b : BitVec 48) t => b ||| (1#48 <<< (t.1 % 48))) 0
  let same := match stay with
    | [] => []
    | t :: _ => [(if c.mode = 2 ∨ c.mode = 3 then { c with dest := t.1, members := mask stay } else c, stay)]
  same ++ (ts.filter fun t => ! ms.contains t).map fun t => ({ c with dest := t.1, queue := t.2, mode := 0, members := 0, linkValid := false, link := 0 }, [t])

def seqKey (c : Cart) : Nat × Nat × Nat := (c.src, c.dest, c.queue)
def nextSeq (d : Dev) (c : Cart) : Nat := aget d.net.seqs (seqKey c) 0

/-- One cart goes on the net with the next sequence number of its pair, against a credit of each queue that it reaches (R137, R139). -/
def launchCart (d : Dev) (c : Cart × List (Nat × Nat)) : Dev :=
  let n := nextSeq d c.1
  let x := { c.1 with seq := n % 2 ^ 32 }
  let d := { d with net := { d.net with seqs := aset d.net.seqs (seqKey x) (n + 1) } }
  let d := launch (.cart x (c.2.map fun t => { x with dest := t.1, queue := t.2 })) (emit (.cart x (cartFlits x)) d)
  c.2.foldl (fun d t => useCredit x.src t d) d

/-- Put a cart on the net towards each of its destinations. -/
def inject (c : Cart) (ts : List (Nat × Nat)) (d : Dev) : Dev := (outgoing c ts).foldl launchCart d

/-- What a stall's word waits for at a queue. -/
def owedKey (t : Nat × Nat) : Nat := t.1 * 4096 + t.2

/-- The queues and sequence numbers of the carts that inject sends. -/
def sentBy (d : Dev) (c : Cart) (ts : List (Nat × Nat)) : List (Nat × Nat) :=
  (outgoing c ts).flatMap fun x => x.2.map fun t => (owedKey t, nextSeq d x.1 % 2 ^ 32)

/-- A result list as 16-octet records (R366). -/
def listBytes (l : List (Int × Nat)) : List Byte :=
  l.flatMap fun e => leBytes 8 e.2 ++ leBytes 4 ((e.1 % 2 ^ 32).toNat) ++ List.replicate 4 0

/-- The list on a cart: its layout is not given; the same records, with octet 12 set in each (log 29). -/
def cartList (l : List (Int × Nat)) : List Byte :=
  l.flatMap fun e => leBytes 8 e.2 ++ leBytes 4 ((e.1 % 2 ^ 32).toNat) ++ [1, 0, 0, 0]

def listOf : Nat → List Byte → List (Int × Nat)
  | 0, _ => []
  | n + 1, b => if leAt b 12 1 = 0 then [] else
    let v := leAt b 8 4
    ((if v < 2 ^ 31 then (v : Int) else (v : Int) - 2 ^ 32), leAt b 0 8) :: listOf n (b.drop 16)

/-- Score higher first, then id lower first. -/
def listBetter (x y : Int × Nat) : Bool := decide (y.1 < x.1) || (decide (x.1 = y.1) && decide (x.2 ≤ y.2))
def topList (k : Nat) (l : List (Int × Nat)) : List (Int × Nat) := (sortBy listBetter l).take k

/-- A signed 32-bit sum in network byte order. -/
def be32 (v : Int) : List Byte := beBytes 4 ((v % 2 ^ 32).toNat)

/-- A record of a contribution (R257). -/
def recordBytes (idx : Nat) (t : Till) : List Byte :=
  beBytes 2 idx ++ beBytes 2 ((t.exp % 65536).toNat) ++ beBytes 2 t.sums.length ++ [0, 0] ++ t.sums.flatMap be32

def planRecords (d : Dev) : List SendRecord := ((theDoc d).map (·.sendRecs)).getD []

/-- The plan gives the sums that a stall sends on a route records at the peer. -/
def hasRecords (d : Dev) (i route : Nat) : Bool := (planRecords d).any fun e => decide (e.stall = i) && decide (e.route = route)

/-- The sums at lines a to a + b - 1 with their records, as many as a cart holds; the room is in octets. -/
def fitting : Nat → List (Nat × Till) → List (Nat × Till)
  | _, [] => []
  | room, e :: l => if (recordBytes e.1 e.2).length ≤ room then e :: fitting (room - (recordBytes e.1 e.2).length) l else []

def sentRecords (d : Dev) (i route a b : Nat) : List (Nat × Till) :=
  fitting 4092 (((planRecords d).filter fun e => decide (e.stall = i) && decide (e.route = route) && decide (a ≤ e.line) && decide (e.line < a + b)).filterMap fun e =>
    ((getStall d i).tills.find? fun t => decide (t.1 = e.line)).map fun t => (e.idx, t.2))

/-- A cart of contributions: the sum of their S, and the records. -/
def contribFlits (rs : List (Nat × Till)) : List Line :=
  let b := beBytes 4 ((rs.foldl (fun n e => n + e.2.s) 0) % 2 ^ 32) ++ rs.flatMap fun e => recordBytes e.1 e.2
  linesOf ((b.length + 63) / 64) b

/-- The records on a cart, without what pads its last line; the count is fuel. -/
def cartRecords : Nat → List Byte → List Byte
  | 0, _ => []
  | k + 1, b =>
    let n := beAt b 4 2
    if n = 0 ∨ b.length < 8 + 4 * n then [] else b.take (8 + 4 * n) ++ cartRecords k (b.drop (8 + 4 * n))

/-- The cart of a SEND word: a mask cart, a catalogue list, a block, contributions to a peer, or lines. -/
def sendCart (d : Dev) (i : Nat) (w : Issued) (r : RouteEntry) : Cart :=
  let x := swOf w.word
  let q := slotQuery d i w.slot
  let blk := (theDoc d).any fun p => (blockRegion (queueMapOf p i) x.a).isSome
  let n := if blk then min x.b (lineByte (getLine d i x.a) 1).toNat else x.b
  let typ := if w.mask || isMasked d i w.slot || notSelected d i x.sel then 5 else if q.isSome then 7 else if blk then 0 else 1
  let flits := match typ with
    | 5 => []
    | 7 => linesOf 64 (cartList (aget (getStall d i).select w.slot []))
    | 1 => if hasRecords d i x.sel then contribFlits (sentRecords d i x.sel x.a x.b) else getLines d i x.a n
    | _ => getLines d i x.a n
  { dest := r.dest, src := i, typ := typ, queue := r.queue, route := x.sel, mode := r.mode, vc := 0, linkValid := r.linkValid, link := r.link, members := r.members,
    slot := w.slot, step := stallStep d i % 2 ^ 32, seq := 0, addr := 0, flits := flits }

/-- The queues that a SEND goes to: those of its route, or only those of the members whose copies a FENCED note returned (R154). -/
def sendDests (d : Dev) (w : Issued) (r : RouteEntry) : List (Nat × Nat) :=
  if w.resend.isEmpty then routeDests d r else w.resend.map fun m => coverDest d m r.queue

def runSend (i : Nat) (e : StoreErr) (d : Dev) : Dev :=
  match unitWord d i (fun x => decide (x.op = 5)) with
  | none => d
  | some w =>
    match routeAt d i (swOf w.word).sel with
    | none => d
    | some r =>
      let ts := sendDests d w r
      if ts.all (hasCredit d) then
        storeRead i (slotHandle d i w.slot) e (fun d =>
          let c := sendCart d i w r
          setWord i { w with owed := ts.map owedKey, sent := sentBy d c ts, resend := [] } (inject c ts d)) d
      else d

def execSend (r : StoreRead) (s : State) : R := onDev (runSend r.stall r.e) s

/-- The queues that a cart from a port block reaches, before the rewriting of R380. -/
def portDests (d : Dev) (c : Cart) : List (Nat × Nat) :=
  match routeAt d c.src c.route with
  | some r => if r.mode = 2 ∨ r.mode = 3 then (chainMembers c.dest r.mode r.members).map fun m => (m, c.queue) else [(c.dest, c.queue)]
  | none => [(c.dest, c.queue)]

/-- A port block sends a cart against a credit of every queue that it reaches, and else keeps it, behind those that it keeps already
(R139, R140, R147). -/
def portSend (c : Cart) (d : Dev) : Dev :=
  let ts := (portDests d c).map fun t => coverDest d t.1 t.2
  if ts.all (hasCredit d) && ! d.net.waiting.any (fun x => decide (x.src = c.src)) then inject c ts d
  else { d with net := { d.net with waiting := d.net.waiting ++ [c] } }

/-- The queue of a RECV word; a cover word's is the cover queue (R380, R381). -/
def recvQueue (w : Issued) : Nat := if w.cover then (swOf w.word).sel + 2048 else (swOf w.word).sel

/-- What a cart brings: its slot masked, a list to merge, or lines. In a queue of the expert map a mask cart stands for an expert that the
slot has not selected: its stall passes the slot over, and at the origin there is no result (R339, log 119). -/
def recvFx (i : Nat) (w : Issued) (c : Cart) (d : Dev) : Dev :=
  let x := swOf w.word
  if c.typ = 5 then
    (match expertQueue d i (recvQueue w) with
     | none => maskSlot i w.slot d
     | some e => if e.origin then d else modStall i (fun y => { y with masked := linsert y.masked w.slot }) d)
  else if c.typ = 7 then
    let k := ((slotQuery d i w.slot).map (·.k)).getD 0
    let l := listOf (c.flits.length * 4) (c.flits.flatMap bytesOfLine)
    modStall i (fun y => { y with select := aset y.select w.slot (topList k (aget y.select w.slot [] ++ l)) }) d
  else setLines d i x.a (c.flits.take x.b)

def runRecv (i : Nat) (d : Dev) : Dev :=
  match unitWord d i (fun x => decide (x.op = 6)) with
  | none => d
  | some w =>
    let mine := fun (e : Nat × Cart) => decide (e.1 = recvQueue w) && decide (e.2.slot = w.slot)
    match (getStall d i).inq.find? mine with
    | none => d
    | some e => runWord i w (recvFx i w e.2) (modStall i (fun y => { y with inq := dropFirst mine y.inq }) d)

def execRecv (stall : Nat) (s : State) : R := onDev (runRecv stall) s

/-! ### PORT (R182, R185, R186) -/

def freeChan (d : Dev) (p : Nat) : Option Nat := (List.range 16).find? fun c => decide ((getChan d p c).state ≠ .running)

/-- What a PORT word waits for. -/
def chanKey (c : Nat) : Nat := 2 ^ 24 + c

/-- Start a descriptor on a channel. -/
def startChan (p c : Nat) (x : Desc) (lines ticket pos : Nat) (stall word line k : Nat) (d : Dev) : Dev :=
  setChan d p c { desc := x.idx, state := .running, check := crcInit x.crcCode, ticket := ticket, step := (getDom d k).step % 2 ^ 32, tag := x.tag,
                  d := some x, total := elemBytes x lines * elemCount x pos, bytes := elemBytes x lines, pos := pos,
                  stall := stall, word := word, line := line, domain := k,
                  slot := (((getStall d stall).issued.find? (·.pos = word)).map (·.slot)).getD 0xFFFF }

/-- A reply slot of a porter is free: its PORT words are notes that call for a reply (R149). -/
def replyFree (d : Dev) (p : Nat) : Bool :=
  let slots := ((((theDoc d).map (·.queues)).getD []).find? (·.stall = porterEndpoint p)).elim 0 (·.reply)
  let out := (List.range 16).filter fun c => decide ((getChan d p c).state = .running) && ((getChan d p c).d.map (·.inSlot)).getD false
  decide (out.length < slots)

def runPort (i : Nat) (e : StoreErr) (d : Dev) : Dev :=
  match unitWord d i (fun x => decide (x.op = 7)) with
  | none => d
  | some w =>
    let x := swOf w.word
    match descOf d (i / 8) x.sel, freeChan d (i / 8) with
    | some c, some ch =>
      if isMasked d i w.slot then wordDone i w.pos d
      else if ! replyFree d (i / 8) then d else
      storeRead i (slotHandle d i w.slot) (if c.srcSpace = 3 then e else .clean) (fun d =>
        setWord i { w with owed := [chanKey ch] }
          (startChan (i / 8) ch c x.b ((slotTicket d i w.slot).getD 0xFFFFFFFF) (((slotUse d i w.slot).map (·.pos)).getD 0) i w.pos x.a
            ((domOfStall d i).getD 0) d)) d
    | _, _ => d

def execPort (r : StoreRead) (s : State) : R := onDev (runPort r.stall r.e) s

end Sys2Proof.Machine
end

