-- ==== Sys2Proof/Machine/Mvm.lean ====
section
/-! DEFINITION. Plane MVMs (R25-R34, R54, R55, R79-R85, R108, R114, R119, R120, R287, R362-R369), their escalation
(R373-R376), guests (R377), audits (R127-R130) and fleet patterns (R388-R390). -/
namespace Sys2Proof.Machine

/-! ### Weights and sums (R79, R82, R108) -/

def colBit (row : CellRow) (c : Nat) : Int := if row.getLsbD c then 1 else 0

/-- Weight j of a logical row. -/
def weightAt (fmt : Nat) (row : CellRow) (j : Nat) : Int :=
  match fmt with
  | 0 => colBit row (4 * j) + 2 * colBit row (4 * j + 1) + 4 * colBit row (4 * j + 2) - 8 * colBit row (4 * j + 3)
  | 1 => colBit row (3 * j) + 2 * colBit row (3 * j + 1) - 4 * colBit row (3 * j + 2)
  | 2 => colBit row (2 * j) - 2 * colBit row (2 * j + 1)
  | 3 => colBit row (2 * j) - colBit row (2 * j + 1)
  | _ => 2 * colBit row j - 1

/-- The output and the weight that a data column has in a pass; B1 counts twice (R79). -/
def colWeight (fmt c : Nat) : Option (Nat × Int) :=
  match fmt with
  | 0 => some (c / 4, match c % 4 with | 0 => 1 | 1 => 2 | 2 => 4 | _ => -8)
  | 1 => if c < 510 then some (c / 3, match c % 3 with | 0 => 1 | 1 => 2 | _ => -4) else none
  | 2 => some (c / 2, if c % 2 = 0 then 1 else -2)
  | 3 => some (c / 2, if c % 2 = 0 then 1 else -1)
  | _ => some (c, 2)

/-- The entry of the seal columns 512-531: 20 bits in two's complement. -/
def sealEntry (row : CellRow) : Int :=
  let v : Nat := (row.toNat >>> 512) % 2 ^ 20
  if v < 2 ^ 19 then (v : Int) else (v : Int) - 2 ^ 20

def sealWeight (t : Nat) : Int := if t < 19 then 2 ^ t else - 2 ^ 19

/-- P_j for every output, over rows of a plane as they stand. -/
def partialSums (fmt : Nat) (xs : List Int) (rows : List CellRow) : List Int :=
  let used := (xs.zip rows).filter fun e => decide (e.1 ≠ 0)
  (List.range (outsOf fmt)).map fun j => used.foldl (fun a e => a + e.1 * weightAt fmt e.2 j) 0

def sealSum (xs : List Int) (rows : List CellRow) : Int :=
  ((xs.zip rows).filter fun e => decide (e.1 ≠ 0)).foldl (fun a e => a + e.1 * sealEntry e.2) 0

/-- D = sum of c_j P_j. -/
def sealDot (seed : W64) (off : Nat) (ps : List Int) : Int :=
  (ps.zipIdx).foldl (fun a e => a + (sealC seed off e.2 : Nat) * e.1) 0

/-! ### One conversion of a plane MVM -/

structure MvmRes where
  sums : List Int
  sealS : Int
  dot : Int
  range : Bool
  deriving DecidableEq, Repr

/-- The rows of a group whose cell in a column is ON: the count of R34. -/
def countOn (rows : List CellRow) (g : List Nat) (c : Nat) : Nat :=
  (g.filter fun r => ((rows[r]?).getD 0).getLsbD c).length

/-- The till's result, with each sample that has an analog error decided under R54. A sample without one gives the count of
R34; a count above its group's size is a range error (R55). -/
def convert (fmt l : Nat) (seed : W64) (off : Nat) (xs : List Int) (rows : List CellRow) (deltas : List (Nat × Nat × Int)) : MvmRes :=
  let ps := passesOf l xs
  let hit := deltas.filterMap fun e => (ps[e.1]?).map fun p =>
    let n := countOn rows p.rows e.2.1
    let m := sliceCount l n e.2.2
    (p, e.2.1, m - n, decide ((p.rows.length : Int) < m))
  let sg := fun (p : Pass) => (if p.neg then -1 else 1) * (2 : Int) ^ p.b
  let base := partialSums fmt xs rows
  let sums := base.zipIdx.map fun e => hit.foldl (fun a h =>
    if h.2.1 < 512 then (match colWeight fmt h.2.1 with | some (j, w) => if j = e.2 then a + sg h.1 * w * h.2.2.1 else a | none => a) else a) e.1
  let sealS := hit.foldl (fun a h => if 512 ≤ h.2.1 ∧ h.2.1 < 532 then a + sg h.1 * sealWeight (h.2.1 - 512) * h.2.2.1 else a) (sealSum xs rows)
  { sums := sums, sealS := sealS, dot := sealDot seed off sums, range := hit.any fun h => h.2.2.2 && decide (h.2.1 < 532) }

/-- What an MVM works on: the array and plane, their chunk's fields, the block. -/
structure MvmJob where
  array : Nat
  plane : Nat
  fmt : Nat
  off : Nat
  seed : W64
  block : Block
  deriving DecidableEq, Repr

/-- The plane's own tag names its seal seed (R284). -/
def tagSeed (cells : SMap CellRow) (a p : Nat) : W64 := BitVec.ofNat 64 (leAt (tagBytes (planeRows cells a p)) 16 8)

def jobRows (d : Dev) (nv : NonVol) (j : MvmJob) : List CellRow :=
  readPlane nv.cells (getArr d j.array).remaps [] j.array j.plane

/-- The rows as a verify-read with errors returns them (R40). -/
def jobRead (d : Dev) (nv : NonVol) (j : MvmJob) (wrong : List (Nat × CellRow)) : List CellRow :=
  readPlane nv.cells (getArr d j.array).remaps wrong j.array j.plane

/-- The kind of the check that failed, if any: residue, range, seal, live shadow. -/
def failKind (f : MvmFault) (r : MvmRes) : Option Nat :=
  if f.residue then some 4 else if r.range then some 2 else if r.sealS ≠ r.dot then some 1 else if f.shadow then some 3 else if f.fp then some 5 else none

/-- The flags of a failed check (R55, R69, R83, R92); i is the stall, a the array. -/
def failFlags (f : MvmFault) (r : MvmRes) (i a : Nat) (d : Dev) : Dev :=
  let d := if f.residue then raise .cvDp 1 i 0 d else d
  let d := if r.range then raise .cv 4 a 0 d else d
  let d := if ! f.residue && decide (r.sealS ≠ r.dot) then raise .cvDp 0 i 0 d else d
  let d := if f.fp then raise .cvDp 2 i 0 d else d
  if f.shadow then shadowSeen a d else d

/-- The record of one stage of an MVM's escalation (R373, R384). -/
def mvmRec (kind stage i l : Nat) (j : MvmJob) (detail ticket prior : Nat) (d : Dev) : FaultRec :=
  let ps := passesOf (lOf l) j.block.xs
  { stallRec kind stage (if kind = 3 then 13 else if kind = 4 then 1 else if kind = 5 then 2 else 0) i d with
      array := j.array, plane := j.plane, lStep := l, passes := ps.length, group := groupHash ps, detail := detail, ticket := ticket, prior := prior }

/-- A record of an MVM, with its operand capture where its kind has one (R386). -/
def capturedRec (r : FaultRec) (j : MvmJob) (d : Dev) : Dev :=
  if ! [1, 2, 3, 15, 18].contains r.kind then faultRec r d else
  let ls := blockOut j.block
  let p := capture { block := ls, array := j.array, plane := j.plane, lStep := r.lStep, format := j.fmt, seed := j.seed } d
  faultRec { r with capture := p.1, lines := ls.length } p.2

/-! ### Delivery -/

/-- Overrun passes of an MVM against the plan's budget, and wide passes (R119, R120), to the stall whose script has its word. -/
def chargePasses (i : Nat) (j : MvmJob) (d : Dev) : Dev :=
  let ps := passesOf (lOf (getArr d j.array).lStep) j.block.xs
  let excess := outPassCount j.block.fmt ps - ((theDoc d).map (·.outBudget)).getD 0
  let wide := if j.block.wide then widePassCount ps else 0
  let d := if excess = 0 then d else raise .cvQuant 2 i 0 d
  if excess = 0 ∧ wide = 0 then d else modStall i (fun x => { x with outPasses := x.outPasses + excess, widePasses := x.widePasses + wide }) d

/-- Lines of the audit region that a sample takes (R130). -/
def auditLines (sums : Nat) : Nat := 16 + fpLines sums

def auditRoom (d : Dev) (i : Nat) : Nat :=
  match theDoc d with
  | some p => ((queueMapOf p i).regions.filter (·.kind = .audit)).foldl (fun n r => n + r.lines) 0
  | none => 0

/-- The word is the first MVM of its stall's script on the block in its line: before it no MVM reads the line since the word that
put the block there (R127). -/
def firstMvm (d : Dev) (i : Nat) (w : Issued) : Bool :=
  let line := (swOf w.word).a
  let before := (((allWords d i).take w.pos).map swOf).reverse
  let mine := before.takeWhile fun x => ! ((decide (x.op = 4) && decide (x.b = line)) || (decide (6 ≤ x.op) && decide (x.op ≤ 7) && decide (x.a = line)))
  mine.all fun x => decide (x.op ≠ 1) || decide (x.a ≠ line)

/-- Whether the stall is to audit the word's MVM. -/
def audits (d : Dev) (i : Nat) (w : Issued) (j : MvmJob) : Bool := j.block.mark && firstMvm d i w

/-- The sample of a marked block's first MVM, if the stall's audit region has room (R130). -/
def auditTake (i : Nat) (w : Issued) (j : MvmJob) (sums : List Int) (d : Dev) : Dev :=
  let x := getStall d i
  if ! audits d i w j then d else
  let used := x.audits.foldl (fun n a => n + auditLines a.sums.length) 0
  if auditRoom d i < used + auditLines sums.length then raise .cvQuant 4 i 0 d else
  setStall d i { x with audits := x.audits ++ [{ slot := w.slot, array := j.array, plane := j.plane, lines := blockOut j.block, sums := sums,
                                                 lStep := (getArr d j.array).lStep, ticket := slotHandle d i w.slot }] }

/-! ### Catalogue planes (R356-R369) -/

def catOf (d : Dev) (part : Nat) : Option CatEntry := (((theDoc d).map (·.cats)).getD []).find? (·.part = part)

/-- The chunk-map entry of segment 0 of a chunk's vector group, the group, and the segment. -/
def groupHead (d : Dev) (c : CatEntry) (chunk : Nat) : Option (ChunkEntry × Nat × Nat) :=
  match theDoc d with
  | none => none
  | some p =>
    let es := partAll p c.part
    let lo := (es.map (·.chunk)).foldl min chunk
    let g := max 1 c.segments
    let i := (chunk - lo) / g
    (es.find? fun e => decide (e.chunk = lo + i * g)).map fun e => (e, i, (chunk - lo) % g)

/-- The ordinal of (chunk, offset) among the partition's planes in chunk-map order (R367). -/
def planeOrdinal (d : Dev) (part chunk off : Nat) : Nat :=
  match theDoc d with
  | none => 0
  | some p => ((partAll p part).takeWhile fun e => decide (e.chunk ≠ chunk)).foldl (fun n e => n + e.planes) 0 + off

def catPlanes (d : Dev) (part : Nat) : Nat :=
  match theDoc d with | none => 0 | some p => (partAll p part).foldl (fun n e => n + e.planes) 0

def maskBase (d : Dev) (c : CatEntry) (set chunk off : Nat) : Nat :=
  c.maskBase + (set - 1) * (catPlanes d c.part * 64) + planeOrdinal d c.part chunk off * 64

/-- Bit j of a plane's mask in a set; no set excludes nothing (R363). -/
def maskBit (m : List Host.Cell) (d : Dev) (c : CatEntry) (set chunk off j : Nat) : Bool :=
  decide (set = 0) || (memRead m (maskBase d c set chunk off + j / 8)).getLsbD (j % 8)

/-- R369: a plane whose mask in the query's set is all zero is not converted. -/
def planeMasked (m : List Host.Cell) (d : Dev) (c : CatEntry) (set chunk off : Nat) : Bool :=
  decide (set ≠ 0) && (List.range (catV c.format)).all fun j => ! maskBit m d c set chunk off j

/-- Insert a finished vector group's scores into the slot's list (R362-R364). -/
def insertScores (m : List Host.Cell) (i slot : Nat) (q : CatQuery) (c : CatEntry) (h : ChunkEntry) (off : Nat) (sums : List Int) (d : Dev) : Dev :=
  let v := catV c.format
  let els := (sums.take v).zipIdx.filterMap fun e =>
    let id := h.param + off * v + e.2
    if id < c.idEnd ∧ maskBit m d c q.set h.chunk off e.2 then some (e.1, id) else none
  modStall i (fun x => { x with select := aset x.select slot (topList q.k (aget x.select slot [] ++ els)) }) d

/-- One catalogue plane's scores: added to the other segments' of the vector group. -/
def addScores (m : List Host.Cell) (i slot : Nat) (q : CatQuery) (c : CatEntry) (chunk off : Nat) (sums : List Int) (d : Dev) : Dev :=
  match groupHead d c chunk with
  | none => d
  | some (h, g, _) =>
    let x := getStall d i
    let key := g * 64 + off
    let cur := x.scores.find? fun e => decide (e.1 = slot) && decide (e.2.1 = key)
    let rest := x.scores.filter fun e => ! (decide (e.1 = slot) && decide (e.2.1 = key))
    let n := ((cur.map (·.2.2.1)).getD 0) + 1
    let tot := match cur with | some e => List.zipWith (· + ·) e.2.2.2 sums | none => sums
    if max 1 c.segments ≤ n then insertScores m i slot q c h off tot (setStall d i { x with scores := rest })
    else setStall d i { x with scores := rest ++ [(slot, key, n, tot)] }

/-! ### Completion of an MVM word -/

/-- The logical chunk and offset of an MVM word. -/
def wordChunk (d : Dev) (i : Nat) (w : Issued) : Option (ChunkEntry × Nat) := let a := mvmArray d i w; entryAt d a.1 a.2

/-- The result goes to the scaler, or to the selection of a catalogue slot (R81, R85, R110). Its S, which equals D (R83), goes with it. -/
def mvmOut (m : List Host.Cell) (i : Nat) (w : Issued) (j : MvmJob) (sums : List Int) (d : Dev) : Dev :=
  let x := swOf w.word
  match slotQuery d i w.slot, wordChunk d i w with
  | some q, some (e, off) =>
    (match catOf d q.part with | some c => addScores m i w.slot q c e.chunk off sums d | none => d)
  | _, _ =>
    let ss := getBf16 d i x.c sums.length
    let t : Till := { exp := j.block.exp, sums := sums, s := ((sealDot j.seed j.off sums) % 2 ^ 32).toNat }
    let d := modStall i (fun y => { y with tills := aset y.tills x.b t }) d
    auditTake i w j sums (setLines d i x.b (f32Lines (List.zipWith (fun p s => scaleOut p s j.block.exp) sums ss)))

/-- The result of a masked slot is dropped, with the sample that it would have given (R130). -/
def mvmDone (m : List Host.Cell) (i : Nat) (w : Issued) (j : MvmJob) (sums : List Int) (d : Dev) : Dev :=
  let lost := isMasked d i w.slot && audits d i w j && (slotQuery d i w.slot).isNone
  runWord i w (mvmOut m i w j sums) (if lost then raise .cvQuant 4 i 0 d else d)

/-- A stored signed 32-bit sum (R80). -/
def s32 (v : Int) : Nat := (v % 2 ^ 32).toNat
def sumLines (l : List Int) : List Line := linesOf 64 (l.flatMap fun v => leBytes 4 (s32 v))
def sumsOfLines (ls : List Line) (n : Nat) : List Int :=
  let b := ls.flatMap bytesOfLine
  (List.range n).map fun k => let v := leAt b (4 * k) 4; if v < 2 ^ 31 then (v : Int) else (v : Int) - 2 ^ 32

/-- Segment g of a query as one A8 block of exponent 0 (R360). -/
def catBlock (q : CatQuery) (g : Nat) : Block :=
  { fmt := 0, mark := false, wide := false, exp := 0, nSat := 0, nZero := 0, xs := (List.range 512).map fun r => (q.elems[512 * g + r]?).getD 0, shadow := [] }

/-- The block of an MVM word: the line that it names, or its segment of a catalogue slot's query. -/
def wordBlock (d : Dev) (i : Nat) (w : Issued) : Option Block :=
  match slotQuery d i w.slot, wordChunk d i w with
  | some q, some (e, _) => ((catOf d q.part).bind fun c => groupHead d c e.chunk).map fun h => catBlock q h.2.2
  | _, _ => readBlock d i (swOf w.word).a

/-- The job of an MVM word on a physical plane. -/
def jobOf (d : Dev) (nv : NonVol) (i : Nat) (w : Issued) (a p : Nat) (b : Block) : MvmJob :=
  let off := ((wordChunk d i w).map (·.2)).getD 0
  { array := a, plane := p, fmt := mvmFormat d i w, off := off, seed := tagSeed nv.cells a p, block := b }

/-- What an owner's word waits for once its guest's sums are on their way: source stall and sequence number of the cart. -/
def guestKey (src seq : Nat) : Nat := 2 ^ 60 + src * 2 ^ 32 + seq

/-- A finished guest goes back as a type-1 cart on the owner's route (R377). -/
def guestReturn (i owner pos : Nat) (c : Cart) (sums : List Int) (d : Dev) : Dev :=
  let d := modStall i (fun x => { x with guests := x.guests.filter fun g => ! (decide (g.1 = owner) && decide (g.2.1 = pos)) }) d
  let c := { c with dest := owner, src := i, typ := 1, mode := 0, members := 0, vc := 0, flits := sumLines sums }
  let k := guestKey i (nextSeq d c % 2 ^ 32)
  let d := modStall owner (fun x => { x with issued := x.issued.map fun w => if w.pos = pos then { w with owed := [k] } else w }) d
  inject c [(owner, c.queue)] d

/-! ### Pattern entries (R388; layout, log 18) -/

/-- The format of a physical plane's chunk. -/
def planeFormat (d : Dev) (a p : Nat) : Nat :=
  match usesOf d a p with
  | u :: _ => (match (chunkMap d).find? (fun e => decide (e.chunk = u.2.1) && (decide (e.part = u.1) || decide (u.1 = 16))) with | some e => e.format | none => 0)
  | [] => 0

/-- Entries of a kind in a set. -/
def patKind (p : PatSet) (k : Nat) : List (List Byte) := p.entries.filter fun e => decide (leAt e 0 1 = k)

/-- An array entry: kind (byte 0), ones limit (1), target (2), block from byte 64, the mask of target 1 after 57 lines. -/
def patTargets (e : List Byte) (i : Nat) : Bool :=
  decide (leAt e 2 1 = 0) || bitOf (leAt e (64 + 57 * 64 + i / 8) 1) (i % 8)

def patBlock (d : Dev) (e : List Byte) : Option Block := readBlock (setLines d 1920 0 (linesOf 57 ((e.drop 64).take (57 * 64)))) 1920 0

/-- The block, offset and ladder step of a pattern entry on a plane of an array. -/
def patJob (d : Dev) (nv : NonVol) (a pl n : Nat) : Option (MvmJob × Nat) :=
  match d.mkt.pats with
  | none => none
  | some p => match (patKind p 0)[n]? with
    | none => none
    | some e => match patTargets e (stallOf a), patBlock d e with
      | true, some b =>
        let off := match usesOf d a pl with | u :: _ => u.2.2.1 | [] => 0
        let l := match leAt e 1 1 with | 0 => (getArr d a).lStep | n => n - 1
        some ({ array := a, plane := pl, fmt := planeFormat d a pl, off := off, seed := tagSeed nv.cells a pl, block := b }, l)
      | _, _ => none

/-! ### Escalation (R373-R376) -/

/-- An array becomes suspect: its copy starts (R373, R375). -/
def suspect (a kind : Nat) (d : Dev) : Dev :=
  if (getArr d a).suspect then d else
  startCopy a kind (raise .chFault 2 (stallOf a) 0 (modArr a (fun x => { x with suspect := true, suspKind := kind }) d))

/-- The MVM that an array has in hand: the owner's word, or the oldest guest; with its owner stall and word. -/
def escWord (d : Dev) (e : Esc) : Option Issued := (getStall d e.stall).issued.find? fun w => decide (w.pos = e.word)

def guestAt (d : Dev) (i owner pos : Nat) : Option Cart :=
  ((getStall d i).guests.find? fun g => decide (g.1 = owner) && decide (g.2.1 = pos)).map (·.2.2)

/-- What an escalating array works on: its job and ticket. -/
def escJob (d : Dev) (nv : NonVol) (a : Nat) (e : Esc) : Option (MvmJob × Nat) :=
  match e.pat with
  | some n => (patJob d nv a e.plane n).map fun q => (q.1, 0)
  | none =>
    match escWord d e with
    | none => none
    | some w =>
      let b := if e.guest then (match guestAt d (stallOf a) e.stall e.word with
          | some c => readBlock (setLines d 1920 0 c.flits) 1920 0
          | none => none)
        else wordBlock d e.stall w
      b.map fun b => (jobOf d nv e.stall w a e.plane b, slotHandle d e.stall w.slot)

/-- A result that has passed its check goes to its word, or back to the owner of a guest; a pattern's goes nowhere. -/
def escDeliver (m : List Host.Cell) (a : Nat) (e : Esc) (j : MvmJob) (sums : List Int) (d : Dev) : Dev :=
  let d' := modArr a (fun x => { x with esc := none }) d
  match e.pat, escWord d e with
  | none, some w =>
    if e.guest then (match guestAt d (stallOf a) e.stall e.word with | some c => guestReturn (stallOf a) e.stall e.word c sums d' | none => d')
    else mvmDone m e.stall w j sums d'
  | _, _ => d'

/-- An MVM runs on an array of its stall: conversion and till, the audit path for a suspect or stopped array, or the first
stage of the escalation. -/
def runOn (m : List Host.Cell) (nv : NonVol) (owner : Nat) (w : Issued) (j : MvmJob) (guest : Bool) (f : MvmFault) (d : Dev) : Dev :=
  let a := j.array
  let x := getArr d a
  let i := stallOf a
  let cat := (slotQuery d owner w.slot).isSome
  let f := if guest || cat then { f with fp := false } else f
  let hold := fun (d : Dev) => if guest then d else setWord owner { w with held := true } d
  let esc := fun (stage kind prior : Nat) => some ({ stall := owner, word := w.pos, kind := kind, stage := stage, plane := j.plane, prior := prior, guest := guest, l := x.lStep, pat := none } : Esc)
  if x.esc.isSome || ! convOn d i then d
  else if x.suspect || x.stopped then hold (modArr a (fun x => { x with esc := esc 2 0 0 }) d)
  else if x.grant ≠ some (if guest then GrantFor.guest else GrantFor.mvm) then d
  else
    let r := convert j.fmt (lOf x.lStep) j.seed j.off j.block.xs (jobRows d nv j) f.deltas
    let d := if cat then d else chargePasses owner j d
    match failKind f r with
    | none =>
      let d := endGrant a d
      if guest then (match guestAt d i owner w.pos with | some c => guestReturn i owner w.pos c r.sums d | none => d)
      else mvmDone m owner w j r.sums d
    | some kind =>
      let d := failFlags f r i a d
      let det : Nat × Dev := if kind = 4 then syndrome d else (if kind = 1 then s32 (r.sealS - r.dot) else 0, d)
      let rc := mvmRec kind 0 i x.lStep j det.1 (slotHandle d owner w.slot) 0 det.2
      let d := capturedRec rc j det.2
      hold (modArr a (fun x => { x with esc := esc 1 kind d.faults.head }) d)

/-- R287: the slot's generation is absent: its ticket ends with the stock fault status, its slot is masked. -/
def genMissing (i : Nat) (w : Issued) (d : Dev) : Dev :=
  let p := ((stallPart d i).map (·.num)).getD 0
  let d := raise .st 6 p 0 (maskSlot i w.slot d)
  let d := match slotTicket d i w.slot with
    | some t => { d with srv := { d.srv with faultEnds := d.srv.faultEnds ++ [(t, 6)] } }
    | none => match slotUse d i w.slot with
      | some u => { d with srv := { d.srv with catGone := linsert d.srv.catGone u.ticket } }
      | none => d
  wordDone i w.pos d

/-- The physical plane of an MVM word. -/
def wordPlane (d : Dev) (i : Nat) (w : Issued) : Option (Nat × Nat) :=
  match stallPart d i, wordChunk d i w, slotGen d i w.slot with
  | some p, some (e, off), some g => physOf d (if shelfEntryOf d e then 16 else p.num) g e.chunk off
  | _, _, _ => none
where
  shelfEntryOf (d : Dev) (e : ChunkEntry) : Bool := (theDoc d).any fun p => shelfEntry p e

/-- A block goes to the spare's stall as a guest (R377). -/
def sendGuest (i : Nat) (w : Issued) (a : Nat) (b : Block) (d : Dev) : Dev :=
  let t := stallOf a
  let c : Cart := { dest := t, src := i, typ := 0, queue := 4095, route := 0, mode := 0, vc := 0, members := 0, slot := w.slot,
                    step := stallStep d i % 2 ^ 32, seq := 0, addr := 0, flits := blockOut b }
  setWord i { w with owed := [owedKey (t, 4095)], sent := sentBy d c [(t, 4095)] } (inject c [(t, 4095)] d)

/-- A malformed block (R114): a record, and the rule of a stall-store double-bit error. -/
def badBlock (i : Nat) (w : Issued) (d : Dev) : Dev :=
  storeLost i 12 6 (fun r => { r with ticket := slotHandle d i w.slot }) (raise .cvDp 4 i 0 (raise .cvQuant 5 i 0 d))

/-- R369: whether the word's plane is passed over. -/
def skipsPlane (m : List Host.Cell) (d : Dev) (i : Nat) (w : Issued) : Bool :=
  match slotQuery d i w.slot, wordChunk d i w with
  | some q, some (e, off) =>
    (match catOf d q.part with
     | some c => (match groupHead d c e.chunk with | some (h, _, _) => planeMasked m d c q.set h.chunk off | none => false)
     | none => false)
  | _, _ => false

/-- An MVM word with its operands read. -/
def mvmWord (m : List Host.Cell) (nv : NonVol) (i : Nat) (w : Issued) (f : MvmFault) (d : Dev) : Dev :=
  match wordPlane d i w with
  | none => genMissing i w d
  | some (a, p) =>
    match wordBlock d i w with
    | none => badBlock i w d
    | some b =>
      let j := jobOf d nv i w a p b
      if skipsPlane m d i w then mvmDone m i w j (List.replicate (outsOf j.fmt) 0) d
      else if stallOf a ≠ i then sendGuest i w a b d
      else runOn m nv i w j false f d

def runMvm (m : List Host.Cell) (nv : NonVol) (i k : Nat) (f : MvmFault) (d : Dev) : Dev :=
  match unitWord d i (fun x => decide (x.op = 1) && decide (bits x.sel 10 7 = k)) with
  | none => d
  | some w => storeRead i (slotHandle d i w.slot) f.store (mvmWord m nv i w f) d

def execMvm (stall slot : Nat) (f : MvmFault) (s : State) : R := onDev (runMvm s.mem s.nv stall slot f) s

/-- The oldest guest of a stall (R377). -/
def runGuest (m : List Host.Cell) (nv : NonVol) (i : Nat) (f : MvmFault) (d : Dev) : Dev :=
  if d.net.fenced.contains i || islandStopped d i then d else
  match (getStall d i).guests with
  | [] => d
  | (owner, pos, c) :: _ =>
    match (getStall d owner).issued.find? (fun w => decide (w.pos = pos)) with
    | none => modStall i (fun x => { x with guests := x.guests.drop 1 }) d
    | some w =>
      match wordPlane d owner w, readBlock (setLines d 1920 0 c.flits) 1920 0 with
      | some (a, p), some b =>
        if stallOf a = i then storeRead i (slotHandle d owner w.slot) f.store (runOn m nv owner w (jobOf d nv owner w a p b) true f) d else d
      | _, _ => badBlock owner w d

def execGuestMvm (stall : Nat) (f : MvmFault) (s : State) : R := onDev (runGuest s.mem s.nv stall f) s

/-! ### Retry, audit path, suspect arrays -/

/-- The second conversion of a block, with what it gives (R373); a pattern's is compared bit for bit again (R390). -/
def retryWith (m : List Host.Cell) (nv : NonVol) (a : Nat) (e : Esc) (j : MvmJob) (t : Nat) (f : MvmFault) (d : Dev) : Dev :=
  let i := stallOf a
  let f := if e.pat.isSome || e.guest || (slotQuery d e.stall (((escWord d e).map (·.slot)).getD 0xFFFF)).isSome then { f with fp := false } else f
  let r := convert j.fmt (lOf e.l) j.seed j.off j.block.xs (jobRows d nv j) f.deltas
  let rc := fun stage => mvmRec e.kind stage i e.l j 0 t e.prior d
  let d := endGrant a d
  match (failKind f r).isNone && (e.pat.isNone || decide (r.sums = partialSums j.fmt j.block.xs (jobRows d nv j))) with
  | true =>
    let d := raise .chFault 0 i 0 (capturedRec (rc 1) j d)
    let d := modArr a (fun x => { x with retries := x.retries + 1 }) d
    let d := escDeliver m a e j r.sums d
    if (getArr d a).retries = 8 then suspect a e.kind d else d
  | false =>
    let d := capturedRec (rc 2) j (failFlags f r i a d)
    modArr a (fun x => { x with esc := some { e with stage := 2, prior := d.faults.head } }) d

/-- Stage 1 ends (R373). -/
def retryEnd (m : List Host.Cell) (nv : NonVol) (a : Nat) (f : MvmFault) (d : Dev) : Dev :=
  match (getArr d a).esc with
  | none => d
  | some e =>
    if e.stage ≠ 1 then d else
    match escJob d nv a e with
    | none => endGrant a (modArr a (fun x => { x with esc := none }) d)
    | some (j, t) => storeRead (if e.guest then stallOf a else e.stall) t (if e.pat.isSome then .clean else f.store) (retryWith m nv a e j t f) d

def execEscalationRetryEnd (array : Nat) (f : MvmFault) (s : State) : R := onDev (clocked (fun d => arithOn d (stallOf array) && convOn d (stallOf array)) (retryEnd s.mem s.nv array f)) s

/-- A plane that a pattern finds lost holds no step: its chunk is fetched, and its planes move at a bell (R294, R376). -/
def losePattern (a p : Nat) (d : Dev) : Dev :=
  match takeSpare d a with
  | none => noSpare a d
  | some s => { d with net := { d.net with fetches := d.net.fetches ++ ((planeFetch d a p s).map fun f => { f with moves := true }).toList } }

/-- A digital MVM ends (R374): its result, a second reading, or a lost plane. -/
def auditEnd (m : List Host.Cell) (nv : NonVol) (a : Nat) (wrong : List (Nat × CellRow)) (d : Dev) : Dev :=
  match (getArr d a).esc with
  | none => d
  | some e =>
    if e.stage < 2 ∨ 3 < e.stage ∨ (getArr d a).grant ≠ some .verifyRead then d else
    match escJob d nv a e with
    | none => endGrant a (modArr a (fun x => { x with esc := none }) d)
    | some (j, t) =>
      let i := stallOf a
      let rows := jobRead d nv j wrong
      let ps := partialSums j.fmt j.block.xs rows
      let d := endGrant a d
      if sealSum j.block.xs rows = sealDot j.seed j.off ps then
        let d := escDeliver m a e j ps (raise .chFault 1 i 0 d)
        if e.kind = 0 then d else suspect a e.kind d
      else if e.stage = 2 then modArr a (fun x => { x with esc := some { e with stage := 3 } }) d
      else
        let d := capturedRec (mvmRec (if e.kind = 0 then 1 else e.kind) 3 i e.l j 0 t e.prior d) j d
        if e.pat.isSome then losePattern a e.plane (modArr a (fun x => { x with esc := none }) d)
        else losePlane e.stall a e.plane e.kind (modArr a (fun x => { x with esc := some { e with stage := 4 } }) d)

def execAuditPathEnd (array : Nat) (readErr : List (Nat × CellRow)) (s : State) : R := onDev (clocked (fun d => arithOn d (stallOf array) && convOn d (stallOf array)) (auditEnd s.mem s.nv array readErr)) s

/-! ### Audits (R127-R130) -/

/-- A finite value as an exact fraction: integer times 2 to the exponent. -/
def fracOf (w : Word) : Int × Int := match fpOf w with | .fin s m x => (sgn s m, x) | _ => (0, 0)

/-- Compare and divide exactly at a common exponent of -600. -/
def atScale (v : Int) (x : Int) : Int := v * 2 ^ (x + 600).toNat

/-- d_j / B_j in units of 2^-12, rounded up (R128); no bound and no difference give 0. -/
def auditRatio (fmt : Nat) (b : Block) (sums : List Int) (rows : List CellRow) (j : Nat) : Nat :=
  let ws := rows.map fun r => weightAt fmt r j
  let sh := b.shadow.map ofBf16
  let y := fdot (ws.map fun w => intScale w 0) sh
  let p := intScale ((sums[j]?).getD 0) b.exp
  let dj := (fun (u v : Int × Int) => (atScale u.1 u.2 - atScale v.1 v.2).natAbs) (fracOf p) (fracOf y)
  let b1 := atScale (ws.foldl (fun n w => n + (w.natAbs : Int)) 0) b.exp
  let b2 := (List.zip ws sh).foldl (fun n e => let q := fracOf e.2; n + (atScale (e.1 * q.1) (q.2 - 8)).natAbs) 0
  let bd := b1.natAbs + b2
  if dj = 0 then 0 else if bd = 0 then 0x10000 else (dj * 4096 + bd - 1) / bd

def auditWorst (fmt : Nat) (b : Block) (sums : List Int) (rows : List CellRow) : Nat :=
  (List.range sums.length).foldl (fun n j => max n (auditRatio fmt b sums rows j)) 0

/-- A block as its lines hold it. -/
def blockOf (d : Dev) (ls : List Line) : Option Block := readBlock (setLines d 1920 0 ls) 1920 0

/-- The oldest pending sample of a stall is computed, when no script word of the vector unit is ready and its array holds a
verify-read grant. -/
def auditRun (nv : NonVol) (i : Nat) (d : Dev) : Dev :=
  match (getStall d i).audits with
  | [] => d
  | a :: rest =>
    if (getArr d a.array).grant ≠ some .verifyRead || (unitWord d i (fun x => decide (x.op = 3))).isSome || d.net.fenced.contains i then d else
    let d := endGrant a.array (modStall i (fun x => { x with audits := rest }) d)
    match blockOf d a.lines with
    | none => d
    | some b =>
      let j : MvmJob := { array := a.array, plane := a.plane, fmt := planeFormat d a.array a.plane, off := 0, seed := tagSeed nv.cells a.array a.plane, block := b }
      let rho := auditWorst j.fmt b a.sums (jobRows d nv j)
      let mk := { d.mkt with auditSamples := (d.mkt.auditSamples + 1) % 2 ^ 32 }
      let mk := if mk.worst < min 0xFFFF rho then { mk with worst := min 0xFFFF rho, worstStall := i } else mk
      let d := { d with mkt := mk }
      if rho ≤ 4096 then d else
      let d := raise .cvQuant 3 i 0 d
      if 0 < b.nSat then d else capturedRec { mvmRec 15 7 i a.lStep j 0 a.ticket 0 d with unit := 5 } j d

def execAuditSample (r : StoreRead) (s : State) : R :=
  onDev (clocked (fun d => arithOn d r.stall && convOn d r.stall) (storeRead r.stall 0 r.e (auditRun s.nv r.stall))) s

/-! ### Fleet patterns (R388-R390; entry layout, log 18) -/

/-- Every stock array of the plan has had every array entry: one sweep more. -/
def patSweep (d : Dev) : Dev :=
  match d.mkt.pats with
  | none => d
  | some p =>
    let n := (patKind p 0).length
    let as := ((chunkMap d).map (·.array)).eraseDups.filter fun a => ! isShelf a
    let done := (as.map fun a => (getArr d a).patTests / (if n = 0 then 1 else n)).foldl min (2 ^ 32)
    if n = 0 ∨ as.isEmpty ∨ done ≤ d.mkt.patSweeps then d else { d with mkt := { d.mkt with patSweeps := done } }

/-- One array test: the conversion is compared with the audit path, bit for bit, and its seal is checked. A mismatch is a
record of kind 18 and enters the escalation at stage 1. -/
def patRun (nv : NonVol) (a : Nat) (f : MvmFault) (d : Dev) : Dev :=
  let x := getArr d a
  let n := match d.mkt.pats with | some p => (patKind p 0).length | none => 0
  let ps := stockedPlanes d a
  if x.grant ≠ some .pattern || n = 0 || ps.isEmpty || isShelf a || x.esc.isSome then d else
  let e := x.patTests % n
  let pl := (ps[x.patTests % ps.length]?).getD 0
  let d := patSweep (modArr a (fun x => { x with patTests := x.patTests + 1 }) d)
  match patJob d nv a pl e with
  | none => endGrant a d
  | some (j, l) =>
    let rows := jobRows d nv j
    let r := convert j.fmt (lOf l) j.seed j.off j.block.xs rows f.deltas
    if (failKind f r).isNone ∧ r.sums = partialSums j.fmt j.block.xs rows then endGrant a d else
    let i := stallOf a
    let d := raise .chFault 7 i 0 (failFlags f r i a d)
    let d := capturedRec (mvmRec 18 0 i l j 0 0 0 d) j d
    let c : Esc := { stall := i, word := 0, kind := 18, stage := if x.suspect || x.stopped then 2 else 1, plane := pl, prior := d.faults.head, guest := false, l := l, pat := some e }
    modArr a (fun x => { x with esc := some c }) d

def execPatternTest (array : Nat) (f : MvmFault) (s : State) : R := onDev (clocked (fun d => arithOn d (stallOf array) && convOn d (stallOf array)) (patRun s.nv array f)) s

/-- A datapath entry in the vector unit and the requantiser of a stall, while no script word of theirs is ready: a first
mismatch is a record, a second one fences the stall (R378, R390). -/
def datapathRun (i n fails : Nat) (d : Dev) : Dev :=
  match d.mkt.pats with
  | none => d
  | some p =>
    match (patKind p 1)[n]? with
    | none => d
    | some q =>
      let unit := if leAt q 1 1 = 7 then 4 else 5
      let busy := (unitWord d i (fun x => decide (x.op = 3) || decide (x.op = 4))).isSome
      if ! decide (i < 1920) || ! d.mkt.patData || busy || d.net.fenced.contains i || fails = 0 then d else
      let d := faultRec (stallRec 18 0 unit i d) (raise .chFault 7 i 0 d)
      if fails = 1 then d else fence i 18 unit d.faults.head d

def execDatapathPatternRun (stall entry fails : Nat) (s : State) : R := onDev (clocked (fun d => arithOn d stall) (datapathRun stall entry fails)) s

end Sys2Proof.Machine
end

