-- ==== Sys2Proof/Machine/Grants.lean ====
section
/-! DEFINITION. Activity grants (R37-R39, R43, R67, R449, R459). -/
namespace Sys2Proof.Machine

/-! ### The cap, the shares and the pool (R37) -/

/-- Arrays active at the same moment, at most. -/
def activeCap (d : Dev) : Nat := max 1 (effCap d * (mvmArrays d).length / 100)

def stallShare (d : Dev) (i : Nat) : Nat :=
  let n := (mvmArrays d).length
  if n = 0 then 0 else activeCap d * ((mvmArrays d).filter fun a => decide (stallOf a = i)).length / n

def poolSize (d : Dev) : Nat :=
  activeCap d - (((mvmArrays d).map stallOf).eraseDups.foldl (fun n i => n + stallShare d i) 0)

def shareUsed (d : Dev) (i : Nat) : Nat := (d.mkt.arrays.filter fun e => decide (stallOf e.1 = i) && e.2.grant.isSome && ! e.2.pooled).length
def poolUsed (d : Dev) : Nat := (d.mkt.arrays.filter fun e => e.2.grant.isSome && e.2.pooled).length

/-! ### What waits for a grant -/

/-- An array that converts: neither retired, suspect nor stopped, with no escalation in hand. -/
def converts (x : Arr) : Bool := ! x.retired && ! x.suspect && ! x.stopped && x.esc.isNone

/-- The array of a stall that an issued MVM word converts on, where the word is not held, not passed over (R369) and not a
guest elsewhere. -/
def mvmTarget (m : List Host.Cell) (d : Dev) (i : Nat) (w : Issued) : Option Nat :=
  if w.held || decide ((swOf w.word).op ≠ 1) then none else
  match wordPlane d i w with
  | some (a, _) =>
    if decide (stallOf a = i) && converts (getArr d a) && (wordBlock d i w).isSome && ! skipsPlane m d i w then some a else none
  | none => none

/-- The arrays of a stall whose MVMs wait for a grant, in the order of its script (R39). -/
def mvmQueue (m : List Host.Cell) (d : Dev) (i : Nat) : List Nat :=
  ((getStall d i).issued.filterMap (mvmTarget m d i)).filter fun a => decide ((getArr d a).grant ≠ some .mvm)

/-- The array that a guest of a stall converts on (R377). -/
def guestTarget (d : Dev) (i : Nat) (g : Nat × Nat × Cart) : Option Nat :=
  match (getStall d g.1).issued.find? (fun w => decide (w.pos = g.2.1)) with
  | some w => (match wordPlane d g.1 w with
    | some (a, _) => if decide (stallOf a = i) && converts (getArr d a) then some a else none
    | none => none)
  | none => none

/-- The arrays of a stall whose guests wait for a grant, in arrival order. -/
def guestQueue (d : Dev) (i : Nat) : List Nat :=
  ((getStall d i).guests.filterMap (guestTarget d i)).filter fun a => decide ((getArr d a).grant ≠ some .guest)

/-- An MVM of the stall waits for a grant (R39). -/
def mvmWaits (m : List Host.Cell) (d : Dev) (i : Nat) : Bool := ! (mvmQueue m d i).isEmpty || ! (guestQueue d i).isEmpty

/-- An array has a plane to be read (R40): a comparison, a stocktake, a copy, a refresh, the audit path, an audit sample. -/
def readWaits (d : Dev) (a : Nat) : Bool :=
  (match progAt d a with | some p => decide (p.phase = .compare) | none => false) ||
    (d.stock.takeRunning && d.stock.take.any fun e => decide (e.1 = a)) ||
    d.net.copies.any (fun c => decide (c.array = a) && ! c.planes.isEmpty) ||
    d.stock.parts.any (fun e => match e.2.refresh with | some r => r.left.any fun m => decide (m.1 = a) | none => false) ||
    (match (getArr d a).esc with | some e => decide (e.stage = 2) || decide (e.stage = 3) | none => false) ||
    d.mkt.stalls.any fun e => e.2.audits.any fun u => decide (u.array = a)

/-- Whether an array has work of a kind that may take a grant now. -/
def waitsFor (m : List Host.Cell) (d : Dev) (a : Nat) (k : GrantFor) : Bool :=
  let i := stallOf a
  match k with
  | .mvm => decide ((mvmQueue m d i).head? = some a)
  | .guest => decide ((guestQueue d i).head? = some a)
  | .verifyRead => ! mvmWaits m d i && readWaits d a
  | .program => ! mvmWaits m d i && ! d.pwr.inputLow && (match progAt d a with | some p => needsProgram p.phase | none => false)
  | .pattern => ! mvmWaits m d i && d.mkt.pats.isSome && decide (d.mkt.patPeriod ≠ 0)

/-! ### Grants -/

def converting (k : GrantFor) : Bool := decide (k = .mvm) || decide (k = .guest)

/-- An array can take a grant: it is idle, or yields a verify-read to an MVM at the end of the row in progress (R40). Of a
retired array only the cells are read. -/
def grantable (x : Arr) (k : GrantFor) : Bool :=
  (x.grant.isNone || (decide (x.grant = some .verifyRead) && converting k)) && (! x.retired || decide (k = .verifyRead))

/-- The requests for the pool that still wait. -/
def liveRequests (m : List Host.Cell) (d : Dev) : List (Nat × GrantFor) :=
  d.mkt.requests.filter fun r => grantable (getArr d r.1) r.2 && waitsFor m d r.1 r.2

def dropRequest (a : Nat) (k : GrantFor) (d : Dev) : Dev :=
  { d with mkt := { d.mkt with requests := d.mkt.requests.filter fun r => decide (r ≠ (a, k)) } }

/-- No request of the pool that came before waits with its stall's share used up. -/
def poolTurn (m : List Host.Cell) (d : Dev) (a : Nat) (k : GrantFor) : Bool :=
  ((liveRequests m d).takeWhile fun r => decide (r ≠ (a, k))).all fun r => decide (shareUsed d (stallOf r.1) < stallShare d (stallOf r.1))

/-- A grant within the stall's share, else from the floating pool in arrival order; a request that finds neither waits. -/
def grantTo (m : List Host.Cell) (a : Nat) (k : GrantFor) (d : Dev) : Dev :=
  if ! grantable (getArr d a) k || d.therm.overTemp || inInitialCal d || ! waitsFor m d a k then d else
  let d := if (getArr d a).grant.isSome then endGrant a d else d
  let i := stallOf a
  if shareUsed d i < stallShare d i then dropRequest a k (modArr a (fun x => { x with grant := some k, pooled := false }) d)
  else if decide (poolUsed d < poolSize d) && poolTurn m d a k then dropRequest a k (modArr a (fun x => { x with grant := some k, pooled := true }) d)
  else { d with mkt := { d.mkt with requests := liveRequests m d ++ (if d.mkt.requests.contains (a, k) then [] else [(a, k)]) } }

def execActivityGrant (array : Nat) (k : GrantFor) (s : State) : R := onDev (grantTo s.mem array k) s

end Sys2Proof.Machine
end

