-- ==== Sys2Proof/Machine/Pages.lean ====
section
/-! DEFINITION. KV pages and their allocator, translations, lost DRAM lines, and how a porter channel ends (section 7). -/
namespace Sys2Proof.Machine

/-! ### Regions (R172) -/

def regionAt (d : Dev) (a : Nat) : Option DramRegion :=
  (((theDoc d).map (·.regions)).getD []).find? fun r => decide (r.base ≤ a) && decide (a < r.base + r.size)

def regionBase (d : Dev) (k : DramKind) : Nat := match theDoc d with | some p => (regionOf p k).base | none => 0

/-- Stack of an address (R171). -/
def stackAt (a : Nat) : Nat := bits a 15 12

/-! ### The pool (R175-R177) -/

def modDram (f : Dram → Dram) (d : Dev) : Dev := { d with dram := f d.dram }

/-- Judge the low condition; its rise sets pool_low (R177). -/
def judgePool (d : Dev) : Dev :=
  let low := decide (d.dram.free - d.dram.reserved < d.dram.kvLow)
  let was := d.dram.poolLow
  let d := modDram (fun m => { m with poolLow := low }) d
  if low && ! was then raise .pt 7 0 0 d else d

def getFrame (d : Dev) (pg : Nat) : Frame := mget d.dram.frames pg {}
def modFrame (pg : Nat) (f : Frame → Frame) (d : Dev) : Dev := modDram (fun m => { m with frames := mmod m.frames pg {} f }) d

def inPool (d : Dev) (pg : Nat) : Bool := decide (d.dram.kvBase ≤ pg) && decide (pg < d.dram.kvBase + d.dram.kvPages)

/-- The first page from p on that is not retired; the count is fuel. -/
def notRetired (frames : SMap Frame) : Nat → Nat → Nat
  | 0, p => p
  | n + 1, p => if (mget frames p {}).retired then notRetired frames n (p + 1) else p

/-- The page at the head of the free list: a page pushed back, else the lowest one never used and not retired. -/
def popFree (d : Dev) : Option (Nat × Dev) :=
  match d.dram.pushed with
  | p :: r => some (p, modDram (fun m => { m with pushed := r, free := m.free - 1 }) d)
  | [] =>
    let p := notRetired d.dram.frames d.dram.frames.length (d.dram.kvBase + d.dram.fresh)
    if p < d.dram.kvBase + d.dram.kvPages then
      some (p, modDram (fun m => { m with fresh := p + 1 - m.kvBase, free := m.free - 1 }) d)
    else none

/-- Push a page that nothing names, that no prefix entry indexes and that is not retired (R179). -/
def pushFree (pg : Nat) (d : Dev) : Dev :=
  let f := getFrame d pg
  if ! inPool d pg || f.refs ≠ 0 || f.indexed || f.retired || d.dram.pushed.contains pg || decide (d.dram.kvBase + d.dram.fresh ≤ pg) then d
  else judgePool (modDram (fun m => { m with pushed := m.pushed ++ [pg], free := m.free + 1, frames := mdel m.frames pg }) d)

/-- Pop a page for a ticket, charged to its reservation. -/
def popFor (t : Nat) (structural : Bool) (d : Dev) : Option (Nat × Dev) :=
  if (getTicket d t).kvReserved = 0 then none else
  match popFree d with
  | none => none
  | some (p, d) =>
    let d := modTicket t (fun x => { x with kvReserved := x.kvReserved - 1, kvPages := x.kvPages + 1 }) d
    let d := modDram (fun m => { m with reserved := m.reserved - 1 }) d
    some (p, modFrame p (fun _ => { refs := 1, owner := t, structural := structural }) d)

/-! ### The three-level structure (R174, R176, R321) -/

def dirKey (t dir : Nat) : Nat := t * 8192 + dir
def mapKey (t dir ix : Nat) : Nat := dirKey t dir * 8192 + ix
def kvaDir (kva : Nat) : Nat := bits kva 41 29
def kvaMap (kva : Nat) : Nat := bits kva 28 16
def kvaKey (t kva : Nat) : Nat := mapKey t (kvaDir kva) (kvaMap kva)

/-- An entry under an evicted directory entry counts as evicted (log 138). -/
def getMap (d : Dev) (key : Nat) : KvEntry :=
  let e := mget d.dram.dirs (key / 8192) {}
  if e.valid then mget d.dram.maps key {} else { evicted := e.evicted }
def setMap (key : Nat) (e : KvEntry) (d : Dev) : Dev := modDram (fun m => { m with maps := mset m.maps key {} e }) d

/-- The directory page and the map page of an entry, allocated where they are missing. -/
def ensureMap (key : Nat) (d : Dev) : Option Dev :=
  let dk := key / 8192
  let t := dk / 8192
  let dir? := if (getTicket d t).dirPpn = 0 then (popFor t true d).map fun r => modTicket t (fun x => { x with dirPpn := r.1 }) r.2 else some d
  match dir? with
  | none => none
  | some d =>
    if (mget d.dram.dirs dk {}).valid then some d
    else (popFor t true d).map fun r => modDram (fun m => { m with dirs := mset m.dirs dk {} { valid := true, ppn := r.1 } }) r.2

/-- A write through an invalid entry allocates. -/
def allocAt (key : Nat) (d : Dev) : Option Dev :=
  match ensureMap key d with
  | none => none
  | some d => (popFor (key / 8192 / 8192) false d).map fun r => setMap key { valid := true, ppn := r.1 } r.2

def cacheSize (p : Nat) : Nat := if p < 240 then 64 else 256

/-- Put a translation into a porter's cache; the oldest goes first. -/
def cachePut (p key : Nat) (d : Dev) : Dev :=
  if d.dram.tlb.contains (p, key) then d else
  let mine := d.dram.tlb.filter fun e => decide (e.1 = p)
  let rest := d.dram.tlb.filter fun e => decide (e.1 ≠ p)
  modDram (fun m => { m with tlb := rest ++ (mine.drop (mine.length + 1 - cacheSize p)) ++ [(p, key)] }) d

/-! ### Releasing pages (R179, R180) -/

/-- Clear the entries of maps that sel picks (evicted where ev), one reference less for each page; the pages wait for the
invalidation. -/
def dropMaps (t : Nat) (ev : Bool) (sel : Nat → Bool) (d : Dev) : Dev :=
  let hit := d.dram.maps.filter fun e => decide (e.1 / 8192 / 8192 = t) && sel e.1 && e.2.valid
  let d := hit.foldl (fun d e => modFrame e.2.ppn (fun f => { f with refs := f.refs - 1 }) (setMap e.1 (if ev then { evicted := true } else {}) d)) d
  let d := modTicket t (fun x => { x with kvPages := x.kvPages - (hit.filter fun e => ! e.2.shared).length }) d
  let old := mget d.dram.invalidating t []
  modDram (fun m => { m with invalidating := mset m.invalidating t [] (old ++ hit.map fun e => e.2.ppn) }) d

/-- A pre-empted transfer ends aborted: its last unit in flight has completed, or is lost (R187, R188). -/
def abortEnd (x : Chan) : Chan := { x with state := .aborted, cause := 6, early := [], rx := [], stop := none }

/-- What a pre-empted ticket still has in flight is lost when its pages go. -/
def endAborts (t : Nat) (d : Dev) : Dev :=
  let mine := d.dram.chans.filter fun e => decide (e.2.state = .running) && e.2.stop.isSome && decide (e.2.ticket = t)
  mine.foldl (fun d e => raise .pt 6 (e.1 / 16) 0 (setChan d (e.1 / 16) (e.1 % 16) (abortEnd e.2))) d

/-- The ticket holds no slot of the step and has no transfer running. -/
def ticketIdle (d : Dev) (t : Nat) : Bool :=
  ! d.srv.schedule.any (fun u => decide (u.kind ≠ 3) && decide (u.ticket = t)) &&
    ! d.dram.chans.any (fun c => decide (c.2.state = .running) && decide (c.2.ticket = t))

/-- Token pages from a first page on, over every layer; history pages stay. -/
def evictFrom (t page : Nat) (d : Dev) : Dev :=
  let d := endAborts t d
  if ! ticketIdle d t then d else
  let sel := fun k : Nat => decide (k / 8192 % 8192 ≠ 8191) && decide (page ≤ k % 8192)
  let n := (d.dram.maps.filter fun e => decide (e.1 / 8192 / 8192 = t) && sel e.1 && e.2.valid).length
  let d := dropMaps t true sel d
  if n = 0 then d else raise .tg 5 t 0 (tgCount 10 n (modTicket t (fun x => { x with evicted := true }) d))

def releaseReserve (t : Nat) (d : Dev) : Dev :=
  let n := (getTicket d t).kvReserved
  judgePool (modDram (fun m => { m with reserved := m.reserved - n }) (modTicket t (fun x => { x with kvReserved := 0 }) d))

/-- Every page of an ended ticket. -/
def freeTicketPages (t : Nat) (d : Dev) : Dev :=
  let d := dropMaps t false (fun _ => true) (endAborts t d)
  let d := modDram (fun m => { m with maps := m.maps.filter fun e => decide (e.1 / 8192 / 8192 ≠ t) }) d
  let ds := d.dram.dirs.filter fun e => decide (e.1 / 8192 = t) && e.2.valid
  let ps := ds.map (·.2.ppn) ++ (if (getTicket d t).dirPpn = 0 then [] else [(getTicket d t).dirPpn])
  let d := ps.foldl (fun d p => modFrame p (fun f => { f with refs := f.refs - 1 }) d) d
  let old := mget d.dram.invalidating t []
  let d := modDram (fun m => { m with dirs := m.dirs.filter (fun e => decide (e.1 / 8192 ≠ t)), invalidating := mset m.invalidating t [] (old ++ ps) }) d
  releaseReserve t (modTicket t (fun x => { x with dirPpn := 0, kvPages := 0 }) d)

/-- Reserve pages for a ticket; refused where reserved would exceed free. -/
def reserveFor (t n : Nat) (d : Dev) : Option Dev :=
  if d.dram.free < d.dram.reserved + n then none
  else some (judgePool (modDram (fun m => { m with reserved := m.reserved + n }) (modTicket t (fun x => { x with kvReserved := x.kvReserved + n }) d)))

/-- Map a page of the prefix index into a ticket (R178). -/
def sharePage (key pg : Nat) (d : Dev) : Option Dev :=
  if ! inPool d pg || (getFrame d pg).retired || (getMap d key).valid then none else
  (ensureMap key d).map fun d => modFrame pg (fun f => { f with refs := f.refs + 1 }) (setMap key { valid := true, shared := true, ppn := pg } d)

/-- One request to the allocator (R177-R180); a refused one changes nothing. -/
def pageRequest (r : PageReq) (d : Dev) : Dev :=
  if d.plan.plan.isNone then d else
  match r with
  | .pop t structural =>
    match popFor t structural d with
    | none => d
    | some (p, d) =>
      if structural && decide ((getTicket d t).dirPpn = 0) then modTicket t (fun x => { x with dirPpn := p }) d
      else modFrame p (fun f => { f with refs := 0 }) d
  | .push pg => pushFree pg d
  | .reserve t n => (reserveFor t n d).getD d
  | .release t => releaseReserve t d
  | .share t pg key => (sharePage (t * 8192 * 8192 + key % (8192 * 8192)) pg d).getD d
  | .evict t first => evictFrom t first d
  | .endTicket t => if ticketIdle d t then freeTicketPages t d else d

def execPageAllocationRequest (r : PageReq) (s : State) : R := onDev (pageRequest r) s

/-- Every porter has acknowledged the invalidation of a ticket's translations (R179). -/
def invalidated (t : Nat) (d : Dev) : Dev :=
  let ps := mget d.dram.invalidating t []
  let live := fun e : Nat × Nat => decide (e.2 / 8192 / 8192 ≠ t) || (getMap d e.2).valid
  let d := modDram (fun m => { m with invalidating := mdel m.invalidating t, tlb := m.tlb.filter live }) d
  ps.foldl (fun d p => pushFree p d) d

def execPageInvalidationComplete (ticket : Nat) (s : State) : R := onDev (invalidated ticket) s

/-! ### How a transfer ends (R186-R188) -/

/-- The first terminal state stands. -/
def chanEnd (p c : Nat) (st : ChanState) (cause : Nat) (d : Dev) : Dev :=
  let x := getChan d p c
  if x.state ≠ .running then d else
  let d := setChan d p c { x with state := st, cause := cause, early := [], rx := [] }
  match st with
  | .faulted => raise .pt 5 p 0 d
  | .aborted => raise .pt 6 p 0 d
  | _ => d

/-- The PORT word that waits for a channel. -/
def chanWord (d : Dev) (p c : Nat) : Option Issued :=
  if p < 240 then (getStall d (getChan d p c).stall).issued.find? fun w => decide (w.pos = (getChan d p c).word) && decide (w.owed = [chanKey c]) else none

/-- The slot's ticket leaves the step and the word of the transfer completes (R181). -/
def chanMask (p c cause : Nat) (d : Dev) : Dev :=
  let x := getChan d p c
  match chanWord d p c with
  | some w => wordDone x.stall w.pos (maskTicket x.stall w.slot cause d)
  | none => if x.ticket = 0xFFFFFFFF then d else addMask x.ticket x.pos cause d

/-- The other running transfers of a masked ticket in the step end with it (R181). -/
def maskOthers (p c cause : Nat) (d : Dev) : Dev :=
  let x := getChan d p c
  let also := d.dram.chans.filter fun e => decide (e.1 ≠ p * 16 + c) && decide (e.2.state = .running) && decide (e.2.ticket = x.ticket) && decide (e.2.domain = x.domain) &&
    (e.2.d.map (·.inSlot)).getD false
  if x.ticket = 0xFFFFFFFF then d else
  also.foldl (fun d e =>
    let d := match chanWord d (e.1 / 16) (e.1 % 16) with | some w => wordDone e.2.stall w.pos d | none => d
    chanEnd (e.1 / 16) (e.1 % 16) .faulted cause d) d

/-- A transfer fault (R187): cause, and the cause of a mask record. In a step that a replay will run again no ticket is masked;
the replay meets the page's eviction itself. -/
def chanFault (p c cause mask : Nat) (d : Dev) : Dev :=
  let x := getChan d p c
  if x.state ≠ .running then d else
  let w := chanWord d p c
  let inSlot := (x.d.map (·.inSlot)).getD false
  let rec8 := fun (d : Dev) => if cause = 8 then faultRec { stallRec 11 0 10 x.stall d with stall := if p < 240 then x.stall else 0xFFFF } d else d
  let d1 := chanEnd p c .faulted cause (rec8 d)
  if ! inSlot then d1
  else match cause with
  | 1 | 2 => if (getDom d x.domain).replaying then d1 else chanEnd p c .faulted cause (chanMask p c mask (maskOthers p c cause d))
  | 3 => match w with
    | some w => { setWord x.stall { w with held := true, owed := [] } d1 with net := { d1.net with heldSends := d1.net.heldSends ++ [(x.stall, w.pos)] } }
    | none => d1
  | 5 | 8 => orderReplay x.domain false d1
  | _ => d1

/-- Units of a transfer, of 4 KiB (R185). -/
def unitsOf (c : Chan) : Nat := max 1 ((c.total + 4095) / 4096)

/-- Units that have completed, and those that are issued: 16 may be in flight (R185). -/
def unitsBack (c : Chan) : Nat := c.unitsDone + c.early.length
def unitsOut (c : Chan) : Nat := c.stop.getD (min (unitsOf c) (unitsBack c + 16))

/-- A pre-emption stops the out-of-slot transfers of a ticket: no unit issues any more, those in flight complete (R188). -/
def abortTransfers (t : Nat) (d : Dev) : Dev :=
  (d.dram.chans.filter fun e => decide (e.2.state = .running) && decide (e.2.ticket = t) && ! ((e.2.d.map (·.inSlot)).getD false)).foldl
    (fun d e => setChan d (e.1 / 16) (e.1 % 16) { e.2 with stop := some (unitsOut e.2) }) d

/-! ### Firmware's transfers (R182) -/

/-- Start what waits for a channel of a porter, oldest first. -/
def pumpFw (p : Nat) (d : Dev) : Dev :=
  d.dram.fwQueue.foldl (fun d e =>
    match descOf d e.1 e.2.1, freeChan d e.1 with
    | some x, some c => if e.1 = p then startChan p c x 0 e.2.2 ((getTicket d e.2.2).position) 0 0 0 0 d else modDram (fun m => { m with fwQueue := m.fwQueue ++ [e] }) d
    | some _, none => modDram (fun m => { m with fwQueue := m.fwQueue ++ [e] }) d
    | none, _ => d) (modDram (fun m => { m with fwQueue := [] }) d)

/-- A descriptor of firmware takes the lowest free channel, or waits for one. -/
def startFirmware (p n ticket : Nat) (d : Dev) : Dev := pumpFw p (modDram (fun m => { m with fwQueue := m.fwQueue ++ [(p, n, ticket)] }) d)

/-! ### Translation (R176, R181) -/

/-- The transfer of a channel uses KV addresses of its ticket for reading or writing. -/
def chanUsesKv (x : Chan) (write : Bool) : Bool :=
  match x.d with
  | some c => decide (x.ticket ≠ 0xFFFFFFFF) && decide ((if write then c.dstSpace else c.srcSpace) = 1)
  | none => false

def pageFault (p c mask : Nat) (d : Dev) : Dev := chanFault p c 2 mask (raise .pt 3 p 0 d)

def walkEnd (p c kva : Nat) (write : Bool) (d : Dev) : Dev :=
  let x := getChan d p c
  if x.state ≠ .running || ! chanUsesKv x write then d else
  let key := kvaKey x.ticket kva
  let e := getMap d key
  if e.valid then (if write && e.shared then pageFault p c 2 d else cachePut p key d)
  else if ! write then pageFault p c (if e.evicted then 1 else 2) d
  else match allocAt key d with
    | some d => cachePut p key (judgePool d)
    | none => pageFault p c 5 d

def execTranslationWalkEnd (porter ch : Nat) (kva : Nat) (write : Bool) (s : State) : R := onDev (fun d => walkEnd porter ch kva write (pumpFw porter d)) s

/-! ### Lost lines (R166-R168) -/

/-- Drop prefix entries: their pages lose the index's hold, the group page goes (R333, R335). -/
def dropPfx (sel : PfxEntry → Bool) (d : Dev) : Dev :=
  let gone := d.srv.index.filter sel
  let d := { d with srv := { d.srv with index := d.srv.index.filter fun e => ! sel e } }
  gone.foldl (fun d e => (e.group :: e.ppns).foldl (fun d p =>
    pushFree p (modFrame p (fun f => { f with indexed := false, refs := if p = e.group then 0 else f.refs }) d)) d) d

/-- Entries of a set, in the order of the index (the way of an entry is not given). -/
def pfxSet (d : Dev) (set : Nat) : List PfxEntry := d.srv.index.filter fun e => decide (e.hash.toNat % 2 ^ 20 = set)

def ticketFault (t st : Nat) (d : Dev) : Dev := { d with srv := { d.srv with faultEnds := d.srv.faultEnds ++ [(t, st)] } }

/-- A lost directory or map page takes the entries that it held with it: they become evicted (log 138). -/
def loseStructure (pg : Nat) (d : Dev) : Dev :=
  let ts := (d.srv.tickets.filter fun e => decide (pg ≠ 0) && decide (e.2.dirPpn = pg)).map (·.1)
  let gone := d.dram.dirs.filter fun e => e.2.valid && (decide (e.2.ppn = pg) || ts.contains (e.1 / 8192))
  let d := gone.foldl (fun d e => dropMaps (e.1 / 8192) true (fun k => decide (k / 8192 = e.1)) d) d
  let d := gone.foldl (fun d e =>
    let d := modDram (fun m => { m with dirs := mset m.dirs e.1 {} { evicted := true } }) d
    if e.2.ppn = pg then d else
    let t := e.1 / 8192
    let d := modFrame e.2.ppn (fun f => { f with refs := f.refs - 1 }) d
    modDram (fun m => { m with invalidating := mset m.invalidating t [] (mget m.invalidating t [] ++ [e.2.ppn]) }) d) d
  ts.foldl (fun d t => modTicket t (fun x => { x with dirPpn := 0 }) d) d

/-- A page of the pool that is on the free list. -/
def onFreeList (d : Dev) (pg : Nat) : Bool := d.dram.pushed.contains pg || (inPool d pg && decide (d.dram.kvBase + d.dram.fresh ≤ pg))

/-- The page of a lost line (R168). -/
def retirePage (pg : Nat) (d : Dev) : Dev :=
  if (getFrame d pg).retired then d else
  let free := onFreeList d pg
  let d := modDram (fun m => { m with tlb := m.tlb.filter fun e => ! decide ((getMap d e.2).ppn = pg) }) d
  let d := loseStructure pg d
  let d := raise .pt 4 0 0 (modFrame pg (fun f => { f with retired := true, refs := 0, indexed := false }) d)
  let ev := fun (m : SMap KvEntry) => m.foldl (fun m e => mset m e.1 {} (if e.2.valid ∧ e.2.ppn = pg then { evicted := true } else e.2)) []
  let d := modDram (fun m => { m with maps := ev m.maps, pushed := lremove m.pushed pg, free := if free then m.free - 1 else m.free }) d
  judgePool (dropPfx (fun e => decide (e.group = pg) || e.ppns.contains pg) d)

/-- Staged bytes of a lost line are free values. -/
def loseStaged (a : Nat) (d : Dev) (m : List Host.Cell) : Dev × List Host.Cell :=
  let p := takeFree d
  let l := a / 64 * 64
  (p.2, (List.range 64).foldl (fun m k => memWrite m (l + k) ((Config.unstated (0x2000 + k) p.1).setWidth 8)) m)

/-- An adapter whose line is lost is unusable until it is registered again. -/
def spoilAdapters (base a : Nat) (d : Dev) : Dev :=
  let hit := fun x : Adapter => x.part.isNone && decide (base + x.offset ≤ a) && decide (a < base + x.offset + x.length)
  { d with srv := { d.srv with adapters := d.srv.adapters.map fun e => (e.1, { e.2 with usable := e.2.usable && ! hit e.2 }) } }

/-- What the loss of a line means for its region (R168). -/
def loseLine (a p c : Nat) (d : Dev) : Dev :=
  match regionAt d a with
  | some r =>
    match r.kind with
    | .kv => retirePage (a / 65536) d
    | .ticket => ticketFault ((a - r.base) / 256) 5 d
    | .adapter =>
      let d := spoilAdapters r.base a d
      let t := (getChan d p c).ticket
      if (getChan d p c).state = .running ∧ t ≠ 0xFFFFFFFF then ticketFault t 5 d else d
    | .pfx =>
      let o := a - r.base
      let ways := ((pfxSet d (o / 256)).drop (o % 256 / 64 * 2)).take 2
      dropPfx (fun e => ways.contains e) d
    | .journal => raiseFaultAll ((runningDoms d).foldl (fun d k => raise .blStep 1 k 0 d) d)
    | .table => raiseFaultAll d
    | .work => orderReplay (getChan d p c).domain false d
  | none => if countingBase ≤ a ∧ a < stagingBase then raiseFaultAll d else d

/-- The note that tells the requester (R148, R167): porter in bits 7-0 of its body, channel in bits 11-8. -/
def errorNote (h p c : Nat) : Note :=
  { dest := porterEndpoint p, src := 2048 + 12 + h, typ := 4, len := 0, body := BitVec.ofNat 34 (p + 256 * c), extra := [] }

/-- The second read of a line that was uncorrectable (R167). -/
def reread (a p c : Nat) (ok : Bool) (d : Dev) (m : List Host.Cell) : Dev × List Host.Cell :=
  if ! d.pwr.outOfReset || decide (dramTop ≤ a) || decide (256 ≤ p) || decide (16 ≤ c) then (d, m) else
  let h := stackAt a
  if ok then (raise .pt 1 p h d, m) else
  let d := raise .pt 2 p h (faultRec { blankRec with kind := 10, unit := 9, detail := p + 256 * h } d)
  let d := modDram (fun m => { m with lost := if stagingBase ≤ a then m.lost else linsert m.lost (a / 64) }) d
  let d := sendNote (errorNote h p c) (loseLine a p c d)
  if stagingBase ≤ a then loseStaged a d m else (d, m)

def execHbmReread (addr porter ch : Nat) (recovered : Bool) (s : State) : R := onMem (reread addr porter ch recovered) s

/-- A scrub read; a single-bit error is corrected and written back (R166, R169). -/
def execHbmScrub (addr : Nat) (corrected : Bool) (s : State) : R :=
  onDev (fun d => if d.pwr.outOfReset && decide (addr < dramTop) && corrected then raise .pt 0 0 (stackAt addr) d else d) s

/-- The requester of a lost line: its transfer ends (R187). -/
def errorReport (n : Note) (d : Dev) : Dev := chanFault (n.body.toNat % 256) (n.body.toNat / 256 % 16) 1 3 d

end Sys2Proof.Machine
end

