-- ==== Sys2Proof/Machine/DramView.lean ====
section
/-! DEFINITION. The bytes of DRAM as a reader finds them (R8, R170-R175, R190, R316, R333, R383-R386): tables and records that State
holds by their fields stand in the bytes of their regions. -/
namespace Sys2Proof.Machine

/-! ### Records -/

def stateOf : TState → Nat
  | .free => 0 | .queued => 1 | .prefill => 2 | .decode => 3 | .preempted => 4 | .rebuild => 5 | .ended => 6

/-- The record of 256 bytes (R316). -/
def ticketBytes (d : Dev) (t : Nat) : List Byte :=
  let x := getTicket d t
  let f := x.front
  let z := fun n : Nat => if f then n else 0
  let flags := b2n f + 2 * z (b2n (d.srv.ends.any fun e => decide (hIndex e.1 = t))) + 4 * b2n x.evicted + 8 * z (b2n x.preemptible) +
    16 * z (b2n x.cachePfx) + 32 * z (b2n x.pubLookup) + 64 * z (b2n x.publish)
  let lane := match x.lane with | some l => l.1 % 256 + 256 * (l.2 % 64) | none => 0xFFFF
  let b := leBytes 4 (handleOf t x.gen) ++ leBytes 1 (stateOf x.state) ++ leBytes 1 (z x.status) ++ leBytes 1 (z x.reason) ++ leBytes 1 flags ++
    leBytes 2 (z x.customer) ++ leBytes 2 (z x.queue) ++ leBytes 4 (z x.request) ++ leBytes 4 (z x.flow) ++ leBytes 8 (z x.seed.toNat) ++
    leBytes 1 (z x.mode) ++ leBytes 1 (z x.stops) ++ leBytes 2 (z x.k) ++ leBytes 4 (z x.temp.toNat) ++ leBytes 4 (z x.minp.toNat) ++
    leBytes 4 x.adapter ++ leBytes 4 x.serial ++ leBytes 4 (z x.n) ++ leBytes 4 (z x.maxNew) ++ leBytes 4 (z x.produced) ++ leBytes 4 x.position ++
    leBytes 4 x.shared ++ leBytes 4 x.rebuildFrom ++ leBytes 8 (z x.deadline) ++ leBytes 8 (z x.admitted) ++ leBytes 4 x.epoch ++ leBytes 4 x.genModel ++
    leBytes 4 x.genAdapt ++ leBytes 4 x.dirPpn ++ leBytes 4 x.kvReserved ++ leBytes 4 x.kvPages ++ leBytes 4 (z x.reserve) ++ leBytes 2 (z x.masks) ++
    leBytes 2 (z lane) ++ ((List.range 4).flatMap fun i => leBytes 4 (z (x.stopIds.getD i 0)))
  sub b 0 256

/-- The 64 bytes of a fault record (R384). -/
def recBytes (r : FaultRec) : List Byte :=
  let b := leBytes 4 r.seq ++ leBytes 1 r.kind ++ leBytes 1 r.stage ++ leBytes 1 r.unit ++ leBytes 1 r.lStep ++ leBytes 8 r.step ++
    leBytes 2 r.stall ++ leBytes 2 r.array ++ leBytes 1 r.plane ++ leBytes 1 r.slice ++ leBytes 2 r.passes ++ leBytes 8 r.group.toNat ++
    leBytes 6 r.capture ++ leBytes 2 r.lines ++ leBytes 4 r.ticket ++ leBytes 4 r.detail ++ leBytes 4 r.tick ++ leBytes 4 r.prior ++
    List.replicate 4 0
  b ++ leBytes 4 (crc32c b).toNat

def lineBytes (l : Line) : List Byte := leBytes 64 l.toNat

/-- The 4 KiB of a capture slot (R386). -/
def captureBytes (c : Capture) : List Byte :=
  let blk := c.block.flatMap lineBytes
  sub (sub blk 0 3648 ++ leBytes 4 c.seq ++ leBytes 2 c.array ++ leBytes 1 c.plane ++ leBytes 1 c.lStep ++ leBytes 1 c.format ++
    List.replicate 7 0 ++ leBytes 8 c.seed.toNat) 0 4096


/-- A prefix-index entry (R333). -/
def pfxBytes (e : PfxEntry) : List Byte :=
  leBytes 8 e.hash.toNat ++ leBytes 4 e.group ++ leBytes 4 e.page ++ leBytes 2 (if e.isPublic then 0 else e.customer) ++ leBytes 1 (1 + 2 * b2n e.isPublic) ++ [0] ++
    leBytes 8 e.used ++ List.replicate 4 0

/-- A group page: context, hash of the page before, token ids, physical pages of the layers (R333). -/
def groupByte (e : PfxEntry) (o : Nat) : Byte :=
  if o < 56 then e.ctx.getD o 0
  else if o < 64 then (leBytes 8 e.pred.toNat).getD (o - 56) 0
  else if o < 8192 then (leBytes 4 (e.toks.getD ((o - 64) / 4) 0)).getD (o % 4) 0
  else (leBytes 4 (e.ppns.getD ((o - 8192) / 4) 0)).getD (o % 4) 0

/-- A directory or map entry (R174) and a frame-table entry (R175). -/
def entryNat (e : KvEntry) : Nat := b2n e.valid + 2 * b2n e.evicted + 4 * b2n e.shared + 16 * e.ppn
def frameNat (f : Frame) : Nat :=
  f.refs % 65536 + 65536 * (f.owner % 2 ^ 21) + 2 ^ 37 * b2n f.indexed + 2 ^ 38 * b2n f.retired + 2 ^ 39 * b2n f.structural

/-! ### Journal entries: the arrangement inside an entry is not given (log 146) -/

def ledgerBytes (l : Ledger) : List Byte :=
  [l.blocks, l.wide, l.floored, l.saturated, l.zeroed, l.outliers, l.maxOut, l.maxSat].flatMap (leBytes 4)

def commitBytes (c : CommitSet) : List Byte :=
  c.tickets.flatMap (·.2) ++ (c.purses.flatMap fun p => leBytes 8 p.1 ++ leBytes 8 ((p.2 % 2 ^ 64).toNat)) ++ c.ledger.flatMap fun l => leBytes 8 l.1 ++ ledgerBytes l.2

def journalBytes (e : JEntry) : List Byte :=
  (e.carts.flatMap fun c => (cartFlits c).flatMap lineBytes) ++ e.lines.flatMap (fun l => lineBytes l.2) ++ commitBytes e.commit

/-! ### The regions -/

/-- A page of the KV region that holds a directory, a map or a group. -/
def structByte (d : Dev) (pg o : Nat) : Option Byte :=
  let entry := fun e : KvEntry => (leBytes 8 (entryNat e)).getD (o % 8) 0
  match d.srv.tickets.find? (fun e => decide (pg ≠ 0) && decide (e.2.dirPpn = pg)), d.dram.dirs.find? (fun e => e.2.valid && decide (e.2.ppn = pg)), d.srv.index.find? (·.group = pg) with
  | some t, _, _ => some (entry (mget d.dram.dirs (dirKey t.1 (o / 8)) {}))
  | _, some e, _ => some (entry (mget d.dram.maps (e.1 * 8192 + o / 8) {}))
  | _, _, some e => some (groupByte e o)
  | _, _, _ => none

/-- The KV region: the frame table in its first pages, then the pool. -/
def kvByte (d : Dev) (r : DramRegion) (a : Nat) : Option Byte :=
  let pages := r.size / 65536
  let o := a - r.base
  if o < (8 * pages + 65535) / 65536 * 65536 then
    some (if o / 8 < pages then (leBytes 8 (frameNat (getFrame d (r.base / 65536 + o / 8)))).getD (o % 8) 0 else 0)
  else structByte d (a / 65536) (a % 65536)

/-- Entry s stands in third s mod 3 of its region. -/
def journalByte (d : Dev) (r : DramRegion) (a : Nat) : Byte :=
  let third := r.size / 3 / 64 * 64
  let o := a - r.base
  ((d.net.journal.filter fun e => decide (e.step % 3 = o / max 1 third)).flatMap journalBytes).getD (o % max 1 third) 0

/-- What State holds by its fields, as bytes. -/
def tableByte (d : Dev) (a : Nat) : Option Byte :=
  match regionAt d a with
  | some r =>
    (match r.kind with
     | .ticket => some ((ticketBytes d ((a - r.base) / 256)).getD ((a - r.base) % 256) 0)
     | .pfx => some ((((pfxSet d ((a - r.base) / 256))[(a - r.base) % 256 / 32]?).elim [] pfxBytes).getD (a % 32) 0)
     | .kv => kvByte d r a
     | .journal => some (journalByte d r a)
     | _ => none)
  | none =>
    if countingBase ≤ a ∧ a < countingBase + 0x400000 then
      some (((d.faults.log.find? fun r => decide ((r.seq + 65535) % 65536 = (a - countingBase) / 64)).elim [] recBytes).getD (a % 64) 0)
    else if 0x00BFE0400000 ≤ a ∧ a < 0x00BFE0800000 then
      (mfind d.faults.captures ((a - 0x00BFE0400000) / 4096)).map fun c => (captureBytes c).getD (a % 4096) 0
    else none

/-- One byte of DRAM. -/
def dramRead (d : Dev) (m : List Host.Cell) (a : Nat) : Byte := (tableByte d a).getD (memRead m a)

end Sys2Proof.Machine
end

