-- ==== Sys2Proof/Machine/Wire.lean ====
section
/-! DEFINITION. The Bengoif transmitter (R241-R256): frames, flows, acknowledgement, retransmission, path and flow failure. -/
namespace Sys2Proof.Machine

/-! ### Frames on the wire (R242, R244) -/

def wireHead (typ cls cart resv : Nat) (flags : Byte) (handle psn ack alive len step : Nat) (aux : W64) : List Byte :=
  [1, BitVec.ofNat 8 typ, BitVec.ofNat 8 (cls + 4 * cart + 64 * resv), flags] ++ beBytes 4 handle ++ beBytes 4 psn ++ beBytes 4 ack ++ beBytes 2 alive ++
    beBytes 2 len ++ beBytes 4 step ++ beBytes 8 aux.toNat

/-- The end-to-end CRC of a received frame, over its header and payload. -/
def rxCrc (r : Rx) : Word :=
  crc32c (wireHead r.typ r.cls r.cart r.resv r.flags r.handle.toNat r.psn r.ack r.alive r.payload.length r.step r.aux ++ r.payload)

def txHead (t : Tx) : List Byte := wireHead t.typ t.cls t.cart 0 t.flags t.handle.toNat t.psn t.ack t.alive t.payload.length t.step t.aux

def txCrc (t : Tx) : Word := crc32c (txHead t ++ t.payload)

def portEntry (d : Dev) (n m : Nat) : Option PortEntry := (theDoc d).bind fun p => portEntryAt p n m
def subRole (d : Dev) (n m : Nat) : Nat := ((portEntry d n m).map (·.role)).getD 0

/-- 16-bit words of a string of octets, an odd end padded. -/
def words16 : List Byte → List Nat
  | [] => []
  | [a] => [a.toNat * 256]
  | a :: b :: r => (a.toNat * 256 + b.toNat) :: words16 r

/-- The Internet checksum as UDP sends it: the ones' complement sum's complement, all ones in place of zero. -/
def udpChecksum (b : List Byte) : Nat :=
  let s := (words16 b).foldl (· + ·) 0
  let c := if s = 0 then 65535 else 65535 - ((s - 1) % 65535 + 1)
  if c = 0 then 65535 else c

/-- Priority of a traffic class (R235). -/
def pcpOf (e : PortEntry) (cls : Nat) : Nat := bits e.pcp (3 * cls + 2) (3 * cls)

/-- A frame as it goes out (R233, R241, R244, R253, R260): every field from its sub-port's entry, its class and its flow. The peer of a
service flow is the source of its OPEN. -/
def wired (d : Dev) (t : Tx) : Tx :=
  let crc := txCrc t
  match portEntry d t.port t.sub with
  | none => { t with wire := { crc := crc, express := decide (t.cls = 0) } }
  | some e =>
    let v6 := e.flags.getLsbD 0
    let peer := if e.role = 2 then BitVec.ofNat 128 ((t.flow.map fun f => (getFlow d f).src).getD 0) else e.peerIp
    let port := 49152 + (t.flow.getD 0) % 16384
    let len := 8 + 32 + t.payload.length + 4
    let udp := beBytes 2 port ++ beBytes 2 47312 ++ beBytes 2 len ++ beBytes 2 0 ++ txHead t ++ t.payload ++ beBytes 4 crc.toNat
    let ck := if v6 then udpChecksum (beBytes 16 e.ip.toNat ++ beBytes 16 peer.toNat ++ beBytes 4 len ++ beBytes 4 17 ++ udp) else 0
    { t with wire := { vlan := if e.vlan % 4096 = 0 then none else some (pcpOf e t.cls, e.vlan % 4096), mac := e.mac, v6 := v6, src := e.ip, dst := peer, dscp := e.dscp,
                       ecn := 2, udpSrc := port, udpDst := 47312, udpSum := ck, crc := crc, express := decide (t.cls = 0) } }

/-- What a sub-port's transmitter passes (R237). -/
def txPasses (d : Dev) (t : Tx) : Bool :=
  match (getSub d t.port t.sub).state with
  | .up => true
  | .probing | .heldDown => decide (t.typ = 8)
  | .down | .training => false

/-- The partner's priority flow control holds a class on a sub-port (R233): bits 0-2 for step, bulk, service. -/
def pausedFor (d : Dev) (t : Tx) : Bool := decide (t.cls ≠ 0) && bitOf (getSub d t.port t.sub).paused (t.cls - 1)

def putFrame (t : Tx) (d : Dev) : Dev := portCount t.port 0 (emit (.frame (wired d t)) d)

/-- A frame goes out, or waits while its class is paused; a sub-port whose state does not pass it sends nothing. -/
def sendFrame (t : Tx) (d : Dev) : Dev :=
  if ! txPasses d t then d
  else if pausedFor d t then modSub t.port t.sub (fun x => { x with txq := x.txq ++ [t] }) d else putFrame t d

/-- EP_EVENT (R269): the port orders the events of a cycle; flow 0xFFFF stands for none. -/
def epRaise (bit flow port sb : Nat) (d : Dev) : Dev := raise .ep bit port (flow + 65536 * sb) d

/-! ### Flows (R245-R248) -/

def flowEntry (d : Dev) (f : Nat) : Option FlowEntry := (((theDoc d).map (·.flows)).getD []).find? fun e => decide (e.index = f)

/-- The sub-port that a flow sends on. -/
def flowPath (d : Dev) (f : Nat) : Nat × Nat :=
  let x := getFlow d f
  match flowEntry d f with
  | some e => if x.onAlt then (e.altPort, e.altSub) else (x.port, x.sub)
  | none => (x.port, x.sub)

def flowHandle (d : Dev) (f : Nat) : Nat := handleOf f (getFlow d f).gen

/-- A frame of a flow with the present acknowledgement in it (R250). -/
def flowTx (d : Dev) (f typ cart : Nat) (flags : Nat) (psn alive step : Nat) (aux : W64) (payload : List Byte) : Tx :=
  let x := getFlow d f
  let p := flowPath d f
  { port := p.1, sub := p.2, typ := typ, cls := x.cls, cart := cart, flags := BitVec.ofNat 8 (flags ||| 1), handle := x.peer, psn := psn, ack := x.rxNext,
    alive := alive, step := step, aux := aux, payload := payload, flow := some f }

/-- A new frame: it takes the next PSN and waits for its acknowledgement (R249). -/
def sendNew (f typ cart flags alive step : Nat) (aux : W64) (payload : List Byte) (d : Dev) : Dev :=
  let t := flowTx d f typ cart flags (getFlow d f).txPsn alive step aux payload
  sendFrame t (modFlow f (fun x => { x with txPsn := x.txPsn + 1, unacked := x.unacked ++ [{ t := t, timeouts := 0 }], sinceAck := 0 }) d)

/-- A flow that can take n more frames (R249). -/
def flowReady (d : Dev) (f n : Nat) : Bool :=
  let x := getFlow d f
  x.opened && ! x.failed && decide (x.unacked.length + n ≤ 65536)

/-- Frames of at most 4,096 octets; the count is fuel. -/
def chunksOf4k : Nat → List Byte → List (List Byte)
  | 0, _ => []
  | n + 1, b => if b.length ≤ 4096 then [b] else b.take 4096 :: chunksOf4k n (b.drop 4096)

/-- A new message (R256): one alive stamp, the last frame marked. -/
def sendMsg (f typ cart flags step : Nat) (aux : W64) (payload : List Byte) (d : Dev) : Dev :=
  let st := (getFlow d f).aliveTx
  let d := modFlow f (fun x => { x with aliveTx := (x.aliveTx + 1) % 65536 }) d
  let ps := chunksOf4k (payload.length / 4096 + 1) payload
  (ps.zipIdx).foldl (fun d p => sendNew f typ cart (flags + (if p.2 + 1 = ps.length then 4 else 0)) st step aux p.1 d) d

/-- Octets as frames take them. -/
def framesOf (b : List Byte) : List (List Byte) := chunksOf4k (b.length / 4096 + 1) b

/-- A message of a step flow (R243, R254-R256): frames of type, cart type, slot and payload as its parts, under the flow's next message id
and one alive stamp, the last marked. -/
def sendParts (f step : Nat) (ps : List (Nat × Nat × Nat × List Byte)) (d : Dev) : Dev :=
  let x := getFlow d f
  let d := modFlow f (fun x => { x with aliveTx := (x.aliveTx + 1) % 65536, nextMsg := x.nextMsg + 1 }) d
  let aux := fun (slot i : Nat) => BitVec.ofNat 64 (x.nextMsg * 2 ^ 32 + slot * 65536 + i * 256 + ps.length)
  (ps.zipIdx).foldl (fun d p =>
    sendNew f p.1.1 p.1.2.1 (if p.2 + 1 = ps.length then 4 else 0) x.aliveTx (step % 2 ^ 32) (aux p.1.2.2.1 p.2) p.1.2.2.2 d) d

/-- OPEN (R247): to the peer's index with generation 0, our handle in aux; outside the PSN sequence. -/
def sendOpen (f : Nat) (d : Dev) : Dev :=
  match flowEntry d f with
  | none => d
  | some e =>
    let x := getFlow d f
    if x.quarantine || x.opened || decide (e.cls = 3) then d else
    let x := if x.inUse then x
             else { inUse := true, gen := nextGen x.gen, cls := e.cls, port := e.port, sub := e.sub, domain := e.domain }
    let d := setFlow d f x
    sendFrame { flowTx d f 5 0 0 0 0 0 (BitVec.ofNat 64 (handleOf f x.gen)) [] with handle := BitVec.ofNat 32 (handleOf e.peerIndex 0) } d

/-- OPEN_ACK: our handle in aux. -/
def sendOpenAck (f : Nat) (d : Dev) : Dev := sendFrame (flowTx d f 6 0 0 0 0 0 (BitVec.ofNat 64 (flowHandle d f)) []) d

/-- Bit i: PSN next + 1 + i has arrived (R243). -/
def sackOf (next : Nat) (ps : List Nat) : W64 :=
  ps.foldl (fun (w : W64) p => if next < p ∧ p ≤ next + 64 then w ||| (1#64 <<< (p - next - 1)) else w) 0

/-- An ACK (R250), with the echo of a CE mark (R253). -/
def sendAck (f : Nat) (d : Dev) : Dev :=
  let x := getFlow d f
  let t := flowTx d f 4 0 (if x.ceEcho then 2 else 0) 0 0 0 (sackOf x.rxNext (x.early.map (·.psn))) []
  sendFrame t (setFlow d f { x with sinceAck := 0, ceEcho := false })

/-- A frame goes out once more, with its PSN and stamp (R249, R256). -/
def resend (f : Nat) (u : Unacked) (d : Dev) : Dev :=
  let p := flowPath d f
  let t := { u.t with port := p.1, sub := p.2, flags := u.t.flags ||| 8, ack := (getFlow d f).rxNext }
  if ! txPasses d t then d else sendFrame t (portCount p.1 2 (modFlow f (fun x => { x with sinceAck := 0 }) d))

/-! ### Acknowledgement (R250, R253) -/

def sackHas (ack : Nat) (sack : W64) (p : Nat) : Bool := decide (ack < p) && decide (p ≤ ack + 64) && sack.getLsbD (p - ack - 1)

/-- What an acknowledgement settles, and what it shows missing with three later PSNs received. -/
def settle (f ack : Nat) (sack : W64) (d : Dev) : Dev :=
  let x := getFlow d f
  let left := x.unacked.filter fun u => ! (decide (u.t.psn < ack) || sackHas ack sack u.t.psn)
  let d := setFlow d f { x with unacked := left }
  let lost := left.filter fun u => decide (3 ≤ ((List.range 64).filter fun i => sack.getLsbD i && decide (u.t.psn < ack + 1 + i)).length)
  lost.foldl (fun d u => resend f u d) d

/-- Line rates as parts of 1.6 Tb/s: a sub-port of a port in mode w has 1.6 / w Tb/s (R232), and 1 Gb/s is the part w x 10^9 of it. -/
def floorRate (d : Dev) (f : Nat) : Nat := let p := flowPath d f; ((portEntry d p.1 p.2).map (·.ways)).getD 1 * 1000000000

/-- A CE echo halves the rate of a bulk or service flow, to a floor of 1 Gb/s. -/
def ecnEcho (f : Nat) (d : Dev) : Dev := modFlow f (fun x => if 2 ≤ x.cls then { x with rate := max (x.rate / 2) (floorRate d f) } else x) d

/-! ### Failure (R248, R252, R291) -/

/-- Frames of a flow that wait for their class go out no more (R251). -/
def purgeFlow (f : Nat) (d : Dev) : Dev :=
  { d with eth := { d.eth with subs := d.eth.subs.map fun e => (e.1, { e.2 with txq := e.2.txq.filter fun t => decide (t.flow ≠ some f) }) } }

/-- The flow index is retired and quarantined. -/
def retireFlow (f : Nat) (d : Dev) : Dev := let d := purgeFlow f d; setFlow d f { gen := (getFlow d f).gen, quarantine := true }

/-- A sub-port carries step, bulk and service frames. -/
def subUp (d : Dev) (p : Nat × Nat) : Bool := decide ((getSub d p.1 p.2).state = .up)

/-- The path that a step flow does not use. -/
def otherPath (d : Dev) (f : Nat) : Nat × Nat :=
  match flowEntry d f with
  | some e => if (getFlow d f).onAlt then (e.port, e.sub) else (e.altPort, e.altSub)
  | none => flowPath d f

/-- Whether the source of a restock still serves (R291, R292): a peer on a sub-port that is UP, a flow with this handle. -/
def sourceUp (d : Dev) (kind src : Nat) : Bool :=
  if kind = 0 then (stockPeers d).contains src
  else let x := getFlow d (hIndex src); x.inUse && decide (x.gen = hGen src)

/-- A restock that has lost its source: halted, programming nothing further, or refused while its header is still to be verified. -/
def haltRestocks (d : Dev) : Dev :=
  d.stock.parts.foldl (fun d e =>
    match e.2.restock with
    | none => d
    | some r =>
      if sourceUp d r.srcKind r.src then d
      else if r.verified then dropProgs (isRestockProg e.1) (modPart e.1 (fun x => { x with restock := some { r with halted := true } }) d)
      else raise .st 3 (e.1 % 16) 0 <| finishJob r.ring .refused 0 (modPart e.1 (fun x => { x with restock := if r.halted then some { r with verified := true } else none }) d)) d

/-- Fetches of a recovery whose peer is gone go to the next peer (R292). -/
def refetch (d : Dev) : Dev :=
  { d with net := { d.net with fetches := d.net.fetches.map fun f => if f.got || (stockPeers d).contains f.src then f else { f with src := firstPeer d, rx := [] } } }

/-- A bulk or service flow fails: its transfers end faulted with cause 4. -/
def flowFail (f : Nat) (d : Dev) : Dev :=
  let h := flowHandle d f
  let p := flowPath d f
  let uses := fun (x : Chan) => match x.d with
    | some c => (decide (c.srcSpace = 4) && decide (c.src = h)) || (decide (c.dstSpace = 4) && decide (c.dst = h))
    | none => false
  let cs := d.dram.chans.filter fun e => uses e.2
  let d := retireFlow f (epRaise 3 f p.1 p.2 d)
  let d := cs.foldl (fun d e => chanFault (e.1 / 16) (e.1 % 16) 4 0 d) d
  let d := { d with srv := { d.srv with adLoads := d.srv.adLoads.filter fun a => ! (decide (a.srcKind = 1) && decide (a.src = h)) } }
  refetch (haltRestocks d)

/-- The path in use of a flow fails. A step flow moves to the other one if that is UP. -/
def pathFail (f : Nat) (d : Dev) : Dev :=
  let x := getFlow d f
  if ! x.inUse then d
  else if x.cls ≠ 1 then flowFail f d
  else
    let gone := ! subUp d (otherPath d f)
    let x := if x.onAlt then { x with badAlt := true, badHome := x.badHome || gone } else { x with badHome := true, badAlt := x.badAlt || gone }
    if x.badHome && x.badAlt then setFlow d f x
    else
      let us := x.unacked.map fun u => { u with timeouts := 0 }
      let d := setFlow d f { x with onAlt := ! x.onAlt, unacked := us }
      let p := flowPath d f
      us.foldl (fun d u => resend f u d) (epRaise 2 f p.1 p.2 d)

/-- Flow indices of the device in use. -/
def flowsInUse (d : Dev) : List Nat := (d.eth.flows.filter fun e => e.2.inUse).map (·.1)

/-- The sub-port (n, m) has lost its link: paths over it fail. -/
def pathsLost (n m : Nat) (d : Dev) : Dev :=
  (flowsInUse d).foldl (fun d f =>
    if flowPath d f = (n, m) then pathFail f d
    else match flowEntry d f with
      | some e =>
        if e.cls ≠ 1 then d
        else if (e.port, e.sub) = (n, m) then modFlow f (fun x => { x with badHome := true }) d
        else if (e.altPort, e.altSub) = (n, m) then modFlow f (fun x => { x with badAlt := true }) d
        else d
      | none => d) d

/-- The sub-port (n, m) is UP: its flows open, and switched step flows return to it (R238, R252). -/
def pathsUp (n m : Nat) (d : Dev) : Dev :=
  (((theDoc d).map (·.flows)).getD []).foldl (fun d e =>
    let again := fun (x : Flow) => { x with unacked := x.unacked.map fun u => { u with timeouts := 0 } }
    let d := if (e.port, e.sub) = (n, m) then modFlow e.index (fun x => if x.inUse then again { x with badHome := false, onAlt := false } else x) d else d
    let d := if (e.altPort, e.altSub) = (n, m) then
        modFlow e.index (fun x => if x.inUse then again { x with badAlt := false, onAlt := x.onAlt || x.badHome } else x) d else d
    if (e.port, e.sub) = (n, m) then sendOpen e.index d else d) d

/-! ### Timers -/

def execAckTimer (flow : Nat) (s : State) : R :=
  onDev (fun d => let x := getFlow d flow; if x.opened && decide (0 < x.sinceAck) then sendAck flow d else d) s

/-- R250, R252: sent again, or at the fourth successive timeout the path fails. A flow still waiting for its OPEN_ACK sends
OPEN again. -/
def retransTimeout (f psn : Nat) (d : Dev) : Dev :=
  let x := getFlow d f
  if x.inUse && ! x.opened then sendOpen f d else
  match x.unacked.find? (fun u => decide (u.t.psn = psn)) with
  | none => d
  | some u =>
    if x.badHome && x.badAlt then d
    else if 3 ≤ u.timeouts then pathFail f d
    else resend f u (setFlow d f { x with unacked := x.unacked.map fun v => if v.t.psn = psn then { v with timeouts := v.timeouts + 1 } else v })

def execRetransmitTimeout (flow psn : Nat) (s : State) : R := onDev (retransTimeout flow psn) s

/-- R252: both paths of a step flow have been failed for 10 ms. -/
def execFlowFailTimeout (flow : Nat) (s : State) : R :=
  onDev (fun d =>
    let x := getFlow d flow
    if x.inUse && decide (x.cls = 1) && x.badHome && x.badAlt && ! x.failed then
      raiseFault x.domain (epRaise 3 flow x.port x.sub (setFlow d flow { x with failed := true }))
    else d) s

/-- R248: the index can be used again; a flow of the plan is opened again while its sub-port is UP. -/
def execQuarantineEnd (flow : Nat) (s : State) : R :=
  onDev (fun d =>
    let x := getFlow d flow
    if ! x.quarantine then d else
    let d := setFlow d flow { gen := x.gen }
    match flowEntry d flow with
    | some e => if (getSub d e.port e.sub).state = .up then sendOpen flow d else d
    | none => d) s

/-- R253. -/
def execRateLimitRise (flow : Nat) (s : State) : R :=
  onDev (fun d => let x := getFlow d flow; if x.inUse && decide (2 ≤ x.cls) then setFlow d flow { x with rate := min 1600000000000 (x.rate + 80000000000) } else d) s

/-! ### Requests for a replay (R256, R259) -/

/-- REPLAY_REQ on a step flow for a step. -/
def sendReplayReq (f step : Nat) (d : Dev) : Dev := sendMsg f 0x0B 0 0 (step % 2 ^ 32) (BitVec.ofNat 64 step) [] d

end Sys2Proof.Machine
end

