-- ==== Sys2Proof/Machine/Porter.lean ====
section
/-! DEFINITION. Porter transfers, unit by unit (R182-R189). -/
namespace Sys2Proof.Machine

/-! ### Where the bytes of a unit lie (R183-R185) -/

/-- Stream offsets of a unit. -/
def unitOffs (c : Chan) (u : Nat) : List Nat := ((List.range 4096).map (4096 * u + ·)).filter fun o => decide (o < c.total)

/-- Position of stream offset o from a base, elements `stride` apart on the strided side. -/
def strided (x : Desc) (c : Chan) (on : Bool) (base o : Nat) : Nat :=
  if on then base + o / max 1 c.bytes * x.stride + o % max 1 c.bytes else base + o

/-- The adapter that the transfer's ticket pins. -/
def chanAdapter (d : Dev) (c : Chan) : Option Adapter :=
  (mfind d.srv.adapters (getTicket d c.ticket).adapter).filter fun a => a.usable && a.part.isNone

def sideBase (d : Dev) (c : Chan) (space addr : Nat) : Nat :=
  match space with
  | 2 => regionBase d .adapter + ((chanAdapter d c).map (·.offset)).getD 0 + addr
  | 3 => 64 * c.line
  | _ => addr

def srcPos (d : Dev) (x : Desc) (c : Chan) (o : Nat) : Nat := strided x c (decide (x.op = 1)) (sideBase d c x.srcSpace x.src) o
def dstPos (d : Dev) (x : Desc) (c : Chan) (o : Nat) : Nat := strided x c (decide (x.op = 2)) (sideBase d c x.dstSpace x.dst) o

def reads (x : Desc) : Bool := decide (x.op ≠ 3)
def writes (x : Desc) : Bool := decide (x.op ≠ 4)

/-- An address of R170 with no DRAM behind it. -/
def badAddr (space a : Nat) : Bool := (decide (space = 0) || decide (space = 2)) && decide (dramTop ≤ a)

def addrError (d : Dev) (x : Desc) (c : Chan) (u : Nat) : Bool :=
  (unitOffs c u).any fun o => (reads x && badAddr x.srcSpace (srcPos d x c o)) || (writes x && badAddr x.dstSpace (dstPos d x c o))

/-- Keys of the KV pages that a side of a unit touches. -/
def sidePages (d : Dev) (x : Desc) (c : Chan) (u : Nat) (wr : Bool) : List Nat :=
  if (if wr then writes x && decide (x.dstSpace = 1) else reads x && decide (x.srcSpace = 1)) then
    ((unitOffs c u).map fun o => kvaKey c.ticket (if wr then dstPos d x c o else srcPos d x c o)).eraseDups
  else []

/-- Every page of the unit has its translation: in the porter's cache, or, for a unit of more pages than the cache holds,
in the map. -/
def translated (d : Dev) (p : Nat) (x : Desc) (c : Chan) (u : Nat) : Bool :=
  let ks := sidePages d x c u false ++ sidePages d x c u true
  ks.all fun k => (getMap d k).valid && (d.dram.tlb.contains (p, k) || decide (cacheSize p < ks.length))

def kvAddr (d : Dev) (t kva : Nat) : Nat := (getMap d (kvaKey t kva)).ppn * 65536 + kva % 65536

def readAt (d : Dev) (m : List Host.Cell) (c : Chan) (space a : Nat) : Byte :=
  match space with
  | 1 => dramRead d m (kvAddr d c.ticket a)
  | 3 => if a / 64 < 8192 then lineByte (getLine d c.stall (a / 64)) (a % 64) else 0
  | _ => dramRead d m a

/-- The bytes of a unit; nothing for a slot whose ticket has no adapter. -/
def unitBytes (d : Dev) (m : List Host.Cell) (x : Desc) (c : Chan) (u : Nat) : List Byte :=
  if x.op = 3 then (unitOffs c u).map fun o => (x.expect >>> (8 * (o % 8))).setWidth 8
  else if x.srcSpace = 4 then aget c.rx u []
  else if x.srcSpace = 2 ∧ (chanAdapter d c).isNone then []
  else (unitOffs c u).map fun o => readAt d m c x.srcSpace (srcPos d x c o)

def setByte (stall a : Nat) (b : Byte) (d : Dev) : Dev :=
  if 8192 ≤ a / 64 then d else
  let l := getLine d stall (a / 64)
  setLine d stall (a / 64) ((l &&& ~~~(0xFF#512 <<< (8 * (a % 64)))) ||| (b.setWidth 512 <<< (8 * (a % 64))))

/-- Store one byte of the destination. -/
def writeAt (c : Chan) (space a : Nat) (b : Byte) (s : Dev × List Host.Cell) : Dev × List Host.Cell :=
  match space with
  | 0 | 2 => (s.1, memWrite s.2 a b)
  | 1 => (s.1, memWrite s.2 (kvAddr s.1 c.ticket a) b)
  | 3 => (setByte c.stall a b s.1, s.2)
  | _ => s

def writeUnit (x : Desc) (c : Chan) (u : Nat) (bs : List Byte) (d : Dev) (m : List Host.Cell) : Dev × List Host.Cell :=
  if ! writes x then (d, m)
  else if x.dstSpace = 4 then (sendMsg (hIndex x.dst) 3 0 0 0 (BitVec.ofNat 64 (4096 * u)) bs d, m)
  else ((unitOffs c u).zip bs).foldl (fun s e => writeAt c x.dstSpace (dstPos d x c e.1) e.2 s) (d, m)

/-! ### DRAM behind a unit (R166, R167) -/

def inDram (space : Nat) : Bool := decide (space < 3)

/-- Device physical address of a position in a space of DRAM. -/
def physAddr (d : Dev) (c : Chan) (space a : Nat) : Nat := if space = 1 then kvAddr d c.ticket a else a

/-- A source line of the unit is lost: no data of the unit leaves the controller. -/
def unitLost (d : Dev) (x : Desc) (c : Chan) (u : Nat) : Bool :=
  ! d.dram.lost.isEmpty && reads x && inDram x.srcSpace && (unitOffs c u).any fun o => d.dram.lost.contains (physAddr d c x.srcSpace (srcPos d x c o) / 64)

/-- Lines that the unit writes whole hold valid data again. -/
def healLines (x : Desc) (c : Chan) (u : Nat) (d : Dev) : Dev :=
  if d.dram.lost.isEmpty || ! writes x || ! inDram x.dstSpace then d else
  let as := (unitOffs c u).map fun o => physAddr d c x.dstSpace (dstPos d x c o)
  modDram (fun m => { m with lost := m.lost.filter fun l => ! (List.range 64).all fun k => as.contains (64 * l + k) }) d

/-- The stack of the unit's first byte in a space of DRAM. -/
def unitStack (d : Dev) (x : Desc) (c : Chan) (u : Nat) : Nat := stackAt (physAddr d c x.srcSpace (srcPos d x c (4096 * u)))

/-- A read of the unit corrected an error. -/
def unitCorrected (p : Nat) (x : Desc) (c : Chan) (u : UnitDone) (d : Dev) : Dev :=
  if u.corrected && reads x && inDram x.srcSpace then raise .pt 0 p (unitStack d x c u.ix) d else d

/-! ### Carts and notes of a unit (R137, R185) -/

/-- The endpoint of a side: the controller of the address's stack, the stall, the port block of the flow, or the porter. -/
def sideEnd (d : Dev) (p : Nat) (c : Chan) (space a : Nat) : Nat :=
  if inDram space then 2048 + 12 + stackAt (physAddr d c space a)
  else if space = 3 then c.stall
  else if space = 4 then 2048 + (getFlow d (hIndex a)).port
  else porterEndpoint p

/-- The cart that carries a unit: type 6, with the address where DRAM takes it. -/
def unitCart (d : Dev) (p ch : Nat) (x : Desc) (c : Chan) (u : Nat) (bs : List Byte) : Cart :=
  let s := if x.srcSpace = 4 then x.src else srcPos d x c (4096 * u)
  let t := if x.dstSpace = 4 then x.dst else dstPos d x c (4096 * u)
  { dest := if writes x then sideEnd d p c x.dstSpace t else porterEndpoint p, src := if reads x then sideEnd d p c x.srcSpace s else porterEndpoint p,
    typ := 6, queue := if writes x && decide (x.dstSpace = 3) then x.queue % 4096 else ch, route := 0, mode := 0, vc := 0, members := 0, slot := c.slot, step := c.step,
    seq := u, addr := if writes x && inDram x.dstSpace then physAddr d c x.dstSpace t else 0, flits := linesOf 64 bs }

/-- A read of DRAM is a request note to the controller: porter, channel and unit in its body (log 31). -/
def requestNote (d : Dev) (p ch : Nat) (x : Desc) (c : Chan) (u : Nat) : Note :=
  { dest := 2048 + 12 + unitStack d x c u, src := porterEndpoint p, typ := 0, len := 0, body := BitVec.ofNat 34 (p + 256 * ch + 4096 * u), extra := [] }

/-- What the unit puts on the nets. -/
def unitCarried (p ch : Nat) (x : Desc) (c : Chan) (u : Nat) (bs : List Byte) (d : Dev) : Dev :=
  let n := requestNote d p ch x c u
  let q := unitCart d p ch x c u bs
  emit (.cart q (cartFlits q)) (if reads x && inDram x.srcSpace then emit (.note n (noteFlits n)) d else d)

/-! ### The progress record (R186, R187) -/

def checks (x : Desc) : Bool := x.check || decide (x.op = 4)

/-- Count the units that are contiguous now; the count is fuel. -/
def advance (x : Desc) : Nat → Chan → Chan
  | 0, c => c
  | n + 1, c =>
    if c.early.contains c.unitsDone then
      let k := if checks x then crcBytes x.crcCode c.check (aget c.rx c.unitsDone []) else c.check
      advance x n { c with unitsDone := c.unitsDone + 1, check := k, early := lremove c.early c.unitsDone, rx := adel c.rx c.unitsDone }
    else c

/-- The note at the end of a transfer (R183 flag 5): tag, porter and channel. -/
def doneNote (p c : Nat) (x : Desc) : Note :=
  { dest := x.notify, src := porterEndpoint p, typ := 1, len := 0, body := BitVec.ofNat 34 (x.tag + 65536 * p + 2 ^ 24 * c), extra := [] }

/-- The final check value is compared with the expected one; fill has none (R183). -/
def checkFails (x : Desc) (c : Chan) : Bool :=
  checks x && decide (x.op ≠ 3) && decide ((c.check ^^^ crcFinalXor x.crcCode).toNat ≠ x.expect.toNat % 2 ^ crcWidth x.crcCode)

/-- Flag 6 of a descriptor: a completion entry with its tag; the manual does not say on which ring (log 145). -/
def porterCompletion (x : Desc) (d : Dev) : Dev :=
  if ! x.toRing then d else
  let f := takeFree d
  let i := (Config.unstated 0x145 f.1).toNat % 8
  let r := getRing f.2 i
  if ! r.running then f.2 else
  let t := (r.cplTail + 1) % ringSize r
  let d := emit (.completion i (cplAddr r) (cplEntry (BitVec.ofNat 16 x.tag) 0 .ok d.state r.phase 0 r.head)) f.2
  coalesce i false (setRing d i { r with cplTail := t, phase := if t = 0 then ! r.phase else r.phase })

def chanDone (p ch : Nat) (x : Desc) (d : Dev) : Dev :=
  let c := getChan d p ch
  if unitsOf c ≤ c.unitsDone ∧ c.stop.isNone then
    (if checkFails x c then chanFault p ch 5 0 d
     else
      let w := chanWord d p ch
      let d := chanEnd p ch .done 0 d
      let d := match w with | some w => wordDone c.stall w.pos d | none => d
      porterCompletion x (if x.notifyOn then sendNote (doneNote p ch x) d else d))
  else match c.stop with
    | some n => if n ≤ unitsBack c then raise .pt 6 p 0 (setChan d p ch (abortEnd c)) else d
    | none => d

/-- The unit's pages stand in the map as shared, and it writes them (R176). -/
def writesShared (d : Dev) (x : Desc) (c : Chan) (u : Nat) : Bool := (sidePages d x c u true).any fun k => (getMap d k).valid && (getMap d k).shared

/-- A unit is credited at its destination. -/
def unitDone (p ch : Nat) (v : UnitDone) (d : Dev) (m : List Host.Cell) : Dev × List Host.Cell :=
  let u := v.ix
  let c := getChan d p ch
  match c.d with
  | none => (d, m)
  | some x =>
    if c.state ≠ .running ∨ unitsOut c ≤ u ∨ u < c.unitsDone ∨ c.early.contains u then (d, m)
    else if addrError d x c u then (chanFault p ch 8 0 d, m)
    else if writesShared d x c u then (pageFault p ch 2 d, m)
    else if ! translated d p x c u then (d, m)
    else if unitLost d x c u then (chanFault p ch 1 3 d, m)
    else if reads x && decide (x.srcSpace = 4) && ! c.rx.any (fun e => decide (e.1 = u)) then (d, m)
    else if writes x && decide (x.dstSpace = 4) && ! (flowReady d (hIndex x.dst) 1 && decide (flowHandle d (hIndex x.dst) = x.dst)) then (d, m)
    else
      let bs := unitBytes d m x c u
      let d := healLines x c u (unitCarried p ch x c u bs (unitCorrected p x c v d))
      let s := writeUnit x c u bs d m
      let c := getChan s.1 p ch
      let c := advance x (unitsOf c + 1) { c with early := c.early ++ [u], rx := if checks x then aset c.rx u bs else c.rx }
      (chanDone p ch x (setChan s.1 p ch c), s.2)

def execPorterUnitComplete (porter ch : Nat) (u : UnitDone) (s : State) : R := onMem (fun d m => unitDone porter ch u (pumpFw porter d) m) s

/-! ### Firmware and the host (R182, R189) -/

/-- A faulted or aborted out-of-slot record. -/
def reopenable (c : Chan) : Bool := (decide (c.state = .faulted) || decide (c.state = .aborted)) && ! ((c.d.map (·.inSlot)).getD true)

def porterResume (c : Cmd) (d : Dev) : Dev × Verdict :=
  let p := param c.params 8 1
  let ch := param c.params 9 1
  let x := getChan d p ch
  if 16 ≤ ch ∨ ¬ reopenable x then fail .badArg d else ok0 (setChan d p ch { x with state := .running, cause := 0, early := [], rx := [], stop := none })

def execPorterResume (c : Cmd) (s : State) : R := onDev (hostCmd 0x50 c (porterResume c)) s

/-- Destination bytes past the completed units are undefined: free values. -/
def tailFree (x : Desc) (c : Chan) (d : Dev) (m : List Host.Cell) : Dev × List Host.Cell :=
  if ! writes x then (d, m) else
  let p := takeFree d
  let n := 4096 * c.unitsDone
  ((List.range (c.total - n)).map (n + ·)).foldl (fun s o => writeAt c x.dstSpace (dstPos d x c o) ((Config.unstated (0x3000 + o) p.1).setWidth 8) s) (p.2, m)

/-- Discard (R189). -/
def porterDiscard (c : Cmd) (d : Dev) : Dev × Verdict :=
  let p := param c.params 8 1
  let ch := param c.params 9 1
  let x := getChan d p ch
  if 16 ≤ ch ∨ ¬ reopenable x then fail .badArg d else ok0 (setChan d p ch { x with state := .discarded, early := [], rx := [] })

def execPorterDiscard (c : Cmd) (s : State) : R :=
  onMem (fun d m =>
    let p := param c.params 8 1
    let ch := param c.params 9 1
    let x := getChan d p ch
    let d' := hostCmd 0x51 c (porterDiscard c) d
    match x.d with
    | some y => if reopenable x && decide ((getChan d' p ch).state = .discarded) then tailFree y x d' m else (d', m)
    | none => (d', m)) s

end Sys2Proof.Machine
end

