-- ==== Sys2Proof/Machine/Net.lean ====
section
/-! DEFINITION. Carts and notes at their ends (R137-R141, R148-R157, R191, R254, R325, R377). -/
namespace Sys2Proof.Machine

def countingHouse : Nat := 2093

/-! ### Header errors (R157) -/

/-- The stall of the router at which an endpoint enters the net; where the source itself is invalid, the destination's. -/
def entryStall (src dest : Nat) : Nat :=
  let e := if endpointOk src then src else if endpointOk dest then dest else 0
  let r := routerOf e 0
  r.1 * 48 + r.2

def replayStep (d : Dev) (k : Option Nat) : Dev := match k with | some k => orderReplay k false d | none => d

def replayCart (c : Cart) (d : Dev) : Dev := replayStep d (stepDomain d c.src c.dest)

/-- The porter at an endpoint (R18, R134). -/
def porterAt (e : Nat) : Option Nat :=
  if 2304 ≤ e ∧ e < 2544 then some (e - 2304) else if 2077 ≤ e ∧ e < 2093 then some (240 + (e - 2077)) else none

/-- The porter at one end or the other. -/
def eitherPorter (src dest : Nat) : Option Nat := (porterAt src).or (porterAt dest)

/-- The transfer of a porter endpoint that a header error ends as an address error; channel in the low bits of the queue. -/
def transferLost (p : Option Nat) (ch : Nat) (d : Dev) : Dev := match p with | some p => chanFault p ch 8 0 d | none => d

def headerRec (src dest : Nat) (d : Dev) : Dev :=
  faultRec (stallRec 23 0 8 (entryStall src dest) d) (raise .chNet 5 (src % 4096) 0 d)

def cartHeadError (c : Cart) (d : Dev) : Dev :=
  let d := headerRec c.src c.dest d
  if stepCart c.typ then replayCart c d else transferLost (eitherPorter c.src c.dest) (c.queue % 16) d

/-- The channel that a porter's note names (logs 31 and 82); an order names none. -/
def noteChan (n : Note) : Option Nat :=
  if n.typ = 1 then some (n.body.toNat / 2 ^ 24 % 16) else if n.typ = 5 then none else some (n.body.toNat / 256 % 16)

def noteHeadError (n : Note) (d : Dev) : Dev :=
  let d := headerRec n.src n.dest d
  if n.typ = 2 ∨ n.typ = 3 then replayStep d (stepDomain d n.src n.dest) else (noteChan n).elim d fun ch => transferLost (eitherPorter n.src n.dest) ch d

/-- A note with a double-bit error: a flag, a record, and the replay of the step that it belongs to (R156). -/
def noteLost (n : Note) (d : Dev) : Dev :=
  let d := faultRec (stallRec 7 0 8 (entryStall n.dest n.src) d) (raise .chNet 1 (n.dest % 4096) 0 d)
  let chan := (eitherPorter n.src n.dest).bind fun p => (noteChan n).map fun ch => getChan d p ch
  let k := if n.typ = 2 ∨ n.typ = 3 then stepDomain d n.src n.dest
    else (chan.filter fun c => decide (c.state = .running) && (c.d.map (·.inSlot)).getD false).map (·.domain)
  replayStep d k

/-! ### Notes that the device sends -/

/-- Credit note (R148): queue in body bits 11-0, count in bits 16-12. -/
def creditOf (c : Cart) : Note := { dest := c.src, src := c.dest, typ := 2, len := 0, body := BitVec.ofNat 34 (c.queue + 4096), extra := [] }

/-- FENCED note (R153): queue in body bits 11-0, route entry in bits 22-12, sequence number and step in the second flit. -/
def fencedOf (c : Cart) : Note :=
  { dest := c.src, src := c.dest, typ := 3, len := 1, body := BitVec.ofNat 34 (c.queue + 4096 * c.route), extra := [BitVec.ofNat 64 (c.seq + 2 ^ 32 * c.step)] }

/-! ### Schedule and token records (R325): 32 octets, network byte order, type in octet 0, handle in octets 4-7 -/

def record (typ handle : Nat) (rest : List Byte) : List Byte := [BitVec.ofNat 8 typ, 0, 0, 0] ++ beBytes 4 handle ++ sub rest 0 24
def tokenRec (handle pos token : Nat) : List Byte := record 8 handle (beBytes 4 pos ++ beBytes 4 token)
def maskRec (handle pos cause : Nat) : List Byte := record 9 handle (beBytes 4 pos ++ beBytes 4 cause)

/-- The records of a message; the count is fuel. -/
def recordsOf : Nat → List Byte → List (List Byte)
  | 0, _ => []
  | n + 1, b => if b.length < 32 then [] else b.take 32 :: recordsOf n (b.drop 32)

/-- A live handle's ticket index. -/
def ticketOf (d : Dev) (h : Nat) : Option Nat :=
  if (getTicket d (hIndex h)).gen = hGen h ∧ hGen h ≠ 0 then some (hIndex h) else none

/-- Token and mask records take their place in the commit of their step; the others wait for the bell. -/
def takeRecord (b : List Byte) (d : Dev) : Dev :=
  let h := beAt b 4 4
  match leAt b 0 1, ticketOf d h with
  | 8, some t => { d with srv := { d.srv with sampled := d.srv.sampled ++ [(t, beAt b 8 4, beAt b 12 4)] } }
  | 9, some t => addMask t (beAt b 8 4) (beAt b 12 4) d
  | 8, none | 9, none => d
  | 3, some t => if (frontPart d).isSome then ticketFault t (beAt b 8 4) d else { d with srv := { d.srv with notices := d.srv.notices ++ [b] } }
  | _, _ => { d with srv := { d.srv with notices := d.srv.notices ++ [b] } }

/-- Step flows between counting houses. -/
def scheduleFlows (d : Dev) : List Nat :=
  ((((theDoc d).map (·.flows)).getD []).filter fun e => decide (e.cls = 1) && decide (e.dest = countingHouse)).map (·.index)

/-- A message of one payload on a step flow, in as many parts as it needs (R243, R254). -/
def sendData (f typ cart slot step : Nat) (payload : List Byte) (d : Dev) : Dev :=
  sendParts f step ((framesOf payload).map fun b => (typ, cart, slot, b)) d

/-- Records in messages of at most 16 carts of 128 (R254); the count is fuel. -/
def recordGroups : Nat → List (List Byte) → List (List (List Byte))
  | 0, _ => []
  | n + 1, rs => if rs.isEmpty then [] else rs.take 2048 :: recordGroups n (rs.drop 2048)

/-- Every step flow between counting houses can take n more frames. -/
def flowsReady (d : Dev) (n : Nat) : Bool := (scheduleFlows d).all fun f => flowReady d f n

/-- Records for the other devices of the instance. -/
def sendRecords (step : Nat) (rs : List (List Byte)) (d : Dev) : Dev :=
  (recordGroups (rs.length + 1) rs).foldl (fun d g => (scheduleFlows d).foldl (fun d f => sendData f 1 6 0xFFFF step g.flatten d) d) d

/-! ### The counting house as a destination -/

def catSlot (d : Dev) (slot : Nat) : Option Nat := (d.srv.schedule.find? fun u => decide (u.kind = 3) && decide (u.slot = slot)).map (·.ticket)

/-- A choice of the sampler: the front device keeps it, another device reports it (R325). -/
def tokenCart (c : Cart) (d : Dev) : Dev :=
  match slotUse d c.src c.slot with
  | none => d
  | some u =>
    let tok := leAt (c.flits.flatMap bytesOfLine) 4 4
    if u.kind = 3 then d
    else if (frontPart d).isSome then { d with srv := { d.srv with sampled := d.srv.sampled ++ [(u.ticket, u.pos, tok)] } }
    else sendRecords c.step [tokenRec (ticketHandle d u.ticket) u.pos tok] d

def bitsLsb (b : List Byte) : List Bool := b.flatMap fun x => (List.range 8).map fun i => x.getLsbD i

/-- A mask write that the front device forwards (R368, log 33): set, number of bits, first id, bits. -/
def maskIn (b : List Byte) : MaskJob :=
  { request := 0, flow := 0, set := beAt b 2 2, firstId := beAt b 8 8, bits := (bitsLsb (b.drop 16)).take (beAt b 4 4), sent := true }

/-- A query that the front device has admitted (R361, log 33), to be scanned in the next step. -/
def queryIn (b : List Byte) : CatQuery :=
  { request := beAt b 8 4, customer := beAt b 12 2, flow := 0, part := beAt b 16 1, k := beAt b 18 2, set := beAt b 20 2, deadline := 0, noQueue := bitOf (beAt b 14 2) 0,
    elems := (List.range (beAt b 22 2)).map fun i => signed16 (beAt b (40 + 2 * i) 2), gen := beAt b 4 4, cost := 0 }

/-- Octets of a query, its carts together. -/
def queryPart (b : List Byte) (d : Dev) : Dev :=
  let b := d.srv.queryPart ++ b
  if b.length < 40 + 2 * beAt b 22 2 then { d with srv := { d.srv with queryPart := b } }
  else { d with srv := { d.srv with queryPart := [], catAdmits := if d.srv.catAdmits.length = beAt b 2 2 then d.srv.catAdmits ++ [queryIn b] else d.srv.catAdmits } }

/-- A cart of the schedule: a mask write, part of a query, or records of 32 octets (R325). -/
def scheduleIn (b : List Byte) (d : Dev) : Dev :=
  if ! d.srv.queryPart.isEmpty then queryPart b d else
  match leAt b 0 1 with
  | 10 => { d with srv := { d.srv with masks := d.srv.masks ++ [maskIn b] } }
  | 11 => queryPart b d
  | _ => (recordsOf (b.length / 32) b).foldl (fun d r => if leAt r 0 1 = 0 then d else takeRecord r d) d

def countingCart (c : Cart) (d : Dev) : Dev :=
  let bs := c.flits.flatMap bytesOfLine
  match c.typ with
  | 6 => scheduleIn bs d
  | 7 => match catSlot d c.slot with
    | some q => { d with srv := { d.srv with catLists := d.srv.catLists ++ [(q, listOf (bs.length / 16) bs)] } }
    | none => d
  | 5 => match catSlot d c.slot with
    | some q => { d with srv := { d.srv with catGone := linsert d.srv.catGone q } }
    | none => d
  | _ => if c.src < 1920 then tokenCart c d else d

/-! ### A port block as a destination (R254) -/

def txFlow (d : Dev) (n q : Nat) : Option Nat :=
  ((((theDoc d).map (·.flows)).getD []).find? fun e => decide (e.cls = 1) && decide (e.txPort = n) && decide (e.txQueue = q)).map (·.index)

/-- A cart of sums that the plan gives records (R257). -/
def contribCart (d : Dev) (c : Cart) : Bool := decide (c.typ = 1) && hasRecords d c.src c.route

/-- The carts of a message go out: those of contributions as CONTRIB, with the sum of their S as its seal (R258), others as DATA. -/
def sendCarts (f : Nat) (cs : List Cart) (d : Dev) : Dev :=
  match cs with
  | [] => d
  | c :: _ =>
    let bytes := fun (c : Cart) => c.flits.flatMap bytesOfLine
    if contribCart d c then
      let seal_ := beBytes 4 ((cs.foldl (fun n c => n + beAt (bytes c) 0 4) 0) % 2 ^ 32)
      sendParts f c.step (cs.zipIdx.map fun e =>
        (2, 1, e.1.slot, cartRecords 512 ((bytes e.1).drop 4) ++ (if e.2 + 1 = cs.length then seal_ else []))) d
    else sendParts f c.step (cs.map fun c => (1, c.typ, c.slot, bytes c)) d

def setGather (f : Nat) (cs : List Cart) (d : Dev) : Dev := modFlow f (fun x => { x with gather := cs }) d

/-- Carts that would stand in one message: contributions or others, of one slot. -/
def sameMessage (d : Dev) (x y : Cart) : Bool := decide (contribCart d x = contribCart d y) && decide (x.slot = y.slot) && decide (x.step = y.step)

/-- A cart joins the flow's next message, which goes out with its last cart (R254). -/
def portCart (f : Nat) (c : Cart) (d : Dev) : Dev :=
  let g := (getFlow d f).gather
  let n := (flowEntry d f).elim 1 (·.parts)
  let s := if g.all (sameMessage d c) then (g, d) else ([], sendCarts f g d)
  let g := s.1 ++ [c]
  if min n 16 ≤ g.length then sendCarts f g (setGather f [] s.2) else setGather f g s.2

/-- A message that no cart of the step completes goes out as it is. -/
def flushFlows (k : Nat) (d : Dev) : Dev :=
  (d.eth.flows.filter fun e => decide (e.2.domain = k) && ! e.2.gather.isEmpty).foldl (fun d e => sendCarts e.1 e.2.gather (setGather e.1 [] d)) d

/-! ### A stall as a destination -/

/-- The word of a stall that a guest's cart belongs to. -/
def guestOwner (d : Dev) (c : Cart) : Option Issued :=
  (getStall d c.src).issued.find? fun w => decide (w.owed = [owedKey (c.dest, 4095)]) && decide (w.sent = [(owedKey (c.dest, 4095), c.seq)])

/-- A block of another stall's, or the sums of a guest of this stall's (R377). -/
def guestCart (m : List Host.Cell) (nv : NonVol) (c : Cart) (d : Dev) : Dev :=
  if c.typ = 0 then (match guestOwner d c with
    | some w => modStall c.dest (fun x => { x with guests := x.guests ++ [(c.src, w.pos, c)] }) d
    | none => d)
  else match (getStall d c.dest).issued.find? (fun w => decide (w.owed = [guestKey c.src c.seq])) with
    | none => d
    | some w => match wordBlock d c.dest w, wordPlane d c.dest w with
      | some b, some (a, p) => mvmDone m c.dest w (jobOf d nv c.dest w a p b) (sumsOfLines c.flits (outsOf (mvmFormat d c.dest w))) d
      | _, _ => wordDone c.dest w.pos d

def staleCart (d : Dev) (c : Cart) : Bool :=
  stepCart c.typ && (match domOfStall d c.dest with | some k => decide ((getDom d k).step % 2 ^ 32 ≠ c.step) || ! (getDom d k).running | none => true)

def stallCart (m : List Host.Cell) (nv : NonVol) (c : Cart) (d : Dev) : Dev :=
  if staleCart d c then
    orderReplayOf c.dest (faultRec { stallRec 8 0 6 c.dest d with ticket := slotHandle d c.dest c.slot } (raise .chNet 3 c.dest 0 d))
  else
    let d := sendNote (creditOf c) d
    if c.queue = 4095 then guestCart m nv c d
    else if stepCart c.typ then queueCart c d
    else d

/-! ### CART_RECEIVE -/

def deliverCart (m : List Host.Cell) (nv : NonVol) (c : Cart) (d : Dev) : Dev :=
  if c.dest < 1920 then
    (if d.net.fenced.contains c.dest then sendNote (fencedOf c) (takeCart c d) else stallCart m nv c (takeCart c d))
  else if c.dest = countingHouse then (if ! flowsReady d 1 && decide (c.src < 1920) then d else countingCart c (sendNote (creditOf c) (takeCart c d)))
  else if 2048 ≤ c.dest ∧ c.dest < 2060 ∧ stepCart c.typ then
    (match txFlow d (c.dest - 2048) c.queue with
     | some f => if flowReady d f 32 then portCart f c (sendNote (creditOf c) (takeCart c d)) else d
     | none => sendNote (creditOf c) (takeCart c d))
  else sendNote (creditOf c) (takeCart c d)

/-- A double-bit error (R156): the cart is lost, at its destination or in a router. -/
def badCart (c : Cart) (d : Dev) : Dev :=
  let d := raise .chNet 1 c.dest 0 d
  replayCart c (faultRec { stallRec 7 0 8 (entryStall c.dest c.src) d with ticket := slotHandle d c.dest c.slot } d)

/-- The nets bring what they can; a cart is received once it has come and is the next of its pair (R140). Only a router that cannot read
a cart's header ends it sooner (R156, R157). -/
def cartIn (m : List Host.Cell) (nv : NonVol) (c : Cart) (e : FlitErr) (d : Dev) : Dev :=
  if d.plan.plan.isNone || ! endpointOn d c.dest then d
  else if ! cartHeadOk c then cartHeadError c (loseCart c d)
  else
    let d := settleNets d
    match e with
    | .doubleHeader => if inFlight d c then badCart c (loseCart c d) else d
    | .clean => if cartHere d c then deliverCart m nv c d else d
    | .corrected => if cartHere d c then deliverCart m nv c (raise .chNet 0 c.dest 0 d) else d
    | .doubleData => if cartHere d c then badCart c (takeCart c d) else d

def execCartReceive (c : Cart) (e : FlitErr) (s : State) : R := onDev (cartIn s.mem s.nv c e) s

/-! ### Notes received -/

/-- A credit note with several credits merges notes of one each (R148). -/
def creditUnit (n : Note) : Note := { n with body := BitVec.ofNat 34 (bits n.body.toNat 11 0 + 4096) }

/-- The note leaves the net where it has come; the counting house's own orders are not the model's to send. -/
def takeNotes (n : Note) (d : Dev) : Option Dev :=
  if n.typ = 5 then some d
  else if n.typ = 2 then
    let k := bits n.body.toNat 16 12
    if 1 ≤ k ∧ k ≤ notesHere d (creditUnit n) then some (times k (takeNote (creditUnit n)) d) else none
  else if 1 ≤ notesHere d n then some (takeNote n d) else none

/-- A note of a type at its end (R156, R157): it needs a plan in force, and its way through the net. -/
def noteIn (typ : Nat) (f : Note → Dev → Dev) (r : NoteRx) (d : Dev) : Dev :=
  let n := r.note
  if d.plan.plan.isNone || ! endpointOn d n.dest then d
  else if ! noteHeadOk n then noteHeadError n d
  else if n.typ ≠ typ then d
  else match takeNotes n (settleNets d) with
    | none => d
    | some d => match r.e with
      | .clean => f n d
      | .corrected => f n (raise .chNet 0 n.dest 0 d)
      | .doubleData | .doubleHeader => noteLost n d

def removeFirst (x : Nat) : List Nat → List Nat
  | [] => []
  | y :: r => if y = x then r else y :: removeFirst x r

/-- The oldest SEND of a stall that waits for a credit of a queue. -/
def sendWaiting (d : Dev) (i : Nat) (t : Nat × Nat) : Option Issued :=
  (getStall d i).issued.find? fun w => decide ((swOf w.word).op = 5) && w.owed.contains (owedKey t)

/-- The carts of port blocks that waited for credits go out, in order for each port (R139, R140, R147). -/
def pumpWaiting (d : Dev) : Dev :=
  d.net.waiting.foldl (fun d c => portSend c d) { d with net := { d.net with waiting := [] } }

/-- A credit of a queue is free again. -/
def dropCredit (src dest q : Nat) (d : Dev) : Dev :=
  let n := creditsUsed d src (dest, q)
  { d with net := { d.net with credits := if n ≤ 1 then adel d.net.credits (src, dest, q) else aset d.net.credits (src, dest, q) (n - 1) } }

/-- One end-to-end credit comes back (R139); a SEND completes with its last, unless a copy has to go again (R154). -/
def creditBack (src dest q : Nat) (d : Dev) : Dev :=
  let d := dropCredit src dest q d
  match sendWaiting d src (dest, q) with
  | none => d
  | some w =>
    let o := removeFirst (owedKey (dest, q)) w.owed
    if o.isEmpty && w.resend.isEmpty then wordDone src w.pos d else setWord src { w with owed := o } d

def creditIn (n : Note) (d : Dev) : Dev :=
  pumpWaiting (times (bits n.body.toNat 16 12) (creditBack n.dest n.src (bits n.body.toNat 11 0)) d)

def execCreditNote (n : NoteRx) (s : State) : R := onDev (noteIn 2 creditIn n) s

/-- Sequence number in a FENCED note (R153). -/
def fencedSeq (n : Note) : Nat := ((n.extra.head?).getD 0).toNat % 2 ^ 32

/-- The word whose cart a FENCED note returns. -/
def fencedWord (d : Dev) (n : Note) : Option Issued :=
  let k := owedKey (n.src, bits n.body.toNat 11 0)
  (getStall d n.dest).issued.find? fun w => w.owed.contains k && w.sent.contains (k, fencedSeq n)

/-- A FENCED note leaves its word incomplete until the recovery has a replacement (R154): a SEND goes again to the fenced member
alone, a guest MVM whole; a porter's transfer faults (R187; channel in body bits 26-23). -/
def fencedIn (n : Note) (d : Dev) : Dev :=
  let q := bits n.body.toNat 11 0
  let d := raise .chNet 2 n.dest 0 d
  if n.dest < 1920 then
    match fencedWord d n with
    | some w =>
      let again := if (swOf w.word).op = 5 then w.resend ++ [n.src] else []
      let d := setWord n.dest { w with held := true, owed := removeFirst (owedKey (n.src, q)) w.owed, resend := again } (dropCredit n.dest n.src q d)
      { d with net := { d.net with heldSends := if d.net.heldSends.contains (n.dest, w.pos) then d.net.heldSends else d.net.heldSends ++ [(n.dest, w.pos)] } }
    | none => d
  else match porterAt n.dest with
    | some p => chanFault p (bits n.body.toNat 26 23) 3 0 d
    | none => d

def execFencedNote (n : NoteRx) (s : State) : R := onDev (noteIn 3 fencedIn n) s

/-- R183: the endpoint named by the descriptor has the note; nothing else of the machine changes with it. -/
def execCompletionNote (n : NoteRx) (s : State) : R := onDev (noteIn 1 (fun _ d => d) n) s

def execErrorReportNote (n : NoteRx) (s : State) : R := onDev (noteIn 4 errorReport n) s

/-- An order of the counting house (R148, R182): at a porter, a descriptor of its table to start, index in body bits 10-0 and
ticket index in bits 31-11 (log 31). -/
def orderIn (n : Note) (d : Dev) : Dev :=
  let b := n.body.toNat
  let t := bits b 31 11
  let t := if t = 0x1FFFFF then 0xFFFFFFFF else t
  match porterAt n.dest with
  | some p => startFirmware p (bits b 10 0) t d
  | none => d

def execCountingHouseOrder (n : NoteRx) (s : State) : R := onDev (noteIn 5 orderIn n) s

end Sys2Proof.Machine
end

