-- ==== Sys2Proof/Machine/Stock.lean ====
section
/-! DEFINITION. Stock commands, crates and chunks (R274-R309, R495). -/
namespace Sys2Proof.Machine

/-! ### Tables (R286) -/

/-- Chunks of a partition: index, planes, format, stall of its logical planes. Table 16 is the back shelf (R301). -/
structure ChunkDef where
  chunk : Nat
  planes : Nat
  format : Nat
  stall : Nat
  deriving DecidableEq, Repr

def chunkDefs (d : Dev) (p : Nat) : List ChunkDef :=
  match theDoc d with
  | none => []
  | some doc =>
    if p = 16 then
      (List.range 1024).map fun i =>
        match doc.chunks.find? (fun e => shelfEntry doc e && decide (e.chunk = i)) with
        | some e => { chunk := i, planes := e.planes, format := e.format, stall := i }
        | none => { chunk := i, planes := 64, format := 0, stall := i }
    else (partAll doc p).map fun e => { chunk := e.chunk, planes := e.planes, format := e.format, stall := stallOf e.array }

def digestFor (d : Dev) (p : Nat) : Option DigestEntry := (theDoc d).bind fun doc => if p = 16 then doc.shelf else partDigest doc p

def crateOf (d : Dev) (p : Nat) : Nat := ((digestFor d p).map (·.crate)).getD 0

/-- Position of a chunk in its crate: leaves and seal seeds go by it. -/
def chunkPos (d : Dev) (p chunk : Nat) : Nat := ((chunkDefs d p).takeWhile fun c => decide (c.chunk ≠ chunk)).length

def seedFor (d : Dev) (p chunk : Nat) : W64 := (((digestFor d p).map (·.seeds)).getD []).getD (chunkPos d p chunk) 0

/-- A generation that is complete on the device. -/
def genComplete (d : Dev) (p gen : Nat) : Bool :=
  let x := getPart d p
  let all := (chunkDefs d p).map (·.chunk)
  (decide (x.live = gen) && ! x.gone && all.all fun c => x.liveDone.contains c) ||
    (decide (x.side = gen) && decide (2 ≤ x.sideState) && all.all fun c => x.sideDone.contains c)

/-- Tickets and queries pinned to a generation of a partition; counted on front devices only (R309). -/
def pinned (d : Dev) (p gen : Nat) : Nat :=
  if (frontPart d).isNone || decide (gen = 0) then 0 else
  match partOf d p with
  | none => 0
  | some e =>
    let live := fun (t : Ticket) => decide (t.state ≠ .free) && decide (t.state ≠ .queued) && decide (t.state ≠ .ended)
    match e.kind with
    | 0 => (d.srv.tickets.filter fun t => live t.2 && decide (t.2.genModel = gen)).length
    | 1 => (d.srv.tickets.filter fun t => live t.2 && decide (t.2.genAdapt = gen) &&
        decide ((mfind d.srv.adapters t.2.adapter).bind (·.part) = some p)).length
    | _ => ((d.srv.scanning ++ d.srv.catAdmits).filter fun q => decide (q.part = p) && decide (q.gen = gen)).length

/-- R300: a device that keeps no pin count looks at its last two steps. -/
def recentlyPinned (d : Dev) (p gen : Nat) : Bool :=
  if (frontPart d).isSome || decide (gen = 0) then false else
  match partOf d p with
  | none => false
  | some e =>
    (d.srv.schedule ++ d.srv.prevSchedule).any fun u =>
      if u.kind = 3 then decide (e.kind = 2) && ((d.srv.scanning[u.ticket]?).any fun q => decide (q.part = p) && decide (q.gen = gen))
      else decide ((if e.kind = 1 then (getTicket d u.ticket).genAdapt else (getTicket d u.ticket).genModel) = gen)

/-- A physical plane that no chunk-map entry assigns and no plane map uses (R289), or that the stocktake has found foreign and no side
generation has taken since (R293). -/
def planeFree (d : Dev) (a p : Nat) : Bool :=
  let unused := (entryAt d a p).isNone && (usesOf d a p).isEmpty
  let foreign := d.stock.foreign.contains (a * 64 + p) && ! (usesOf d a p).any fun u => u.2.2.2
  (unused || foreign) && ! d.stock.progs.any fun q => decide (q.array = a) && decide (q.plane = p)

/-- A plane's program count (R45): its tag's; its array's where an erase was cut off before step 2 of R41 completed. -/
def planeCount (d : Dev) (nv : NonVol) (a p : Nat) : Nat :=
  if nv.cut.contains (a * 64 + p) then max (getArr d a).progCount (arrCount nv a) else tagCount nv.cells a p

/-- Entries of a staged placement (R289); the count is fuel. -/
def placeEntries : Nat → List Byte → List (Nat × Nat × Nat)
  | 0, _ => []
  | n + 1, b => (leAt b 0 4, leAt b 4 2, leAt b 6 1) :: placeEntries n (b.drop 8)

def placePlanes (ds : List ChunkDef) (e : Nat × Nat × Nat) : List (Nat × Nat) :=
  match ds.find? (fun c => decide (c.chunk = e.1)) with
  | some c => (List.range c.planes).map fun o => (e.2.1, e.2.2 + o)
  | none => []

/-- Whether a placement fits (R289). -/
def placeFits (d : Dev) (nv : NonVol) (p : Nat) (ds : List ChunkDef) (pl : List (Nat × Nat × Nat)) : Bool :=
  let ps := pl.flatMap (placePlanes ds)
  let mine := ((theDoc d).map (fun doc => partAll doc p)).getD [] |>.map (·.array)
  ds.all (fun c => decide ((pl.filter fun e => decide (e.1 = c.chunk)).length = 1)) &&
    pl.all (fun e => ds.any fun c => decide (c.chunk = e.1) && decide (stallOf e.2.1 = c.stall) && mine.contains e.2.1 && ! isShelf e.2.1 && decide (e.2.2 + c.planes ≤ 64)) &&
    ps.all (fun q => planeFree d q.1 q.2 && ! (getArr d q.1).retired && decide (planeCount d nv q.1 q.2 < 30000)) &&
    decide (ps.eraseDups.length = ps.length)

def mapOfPlace (ds : List ChunkDef) (pl : List (Nat × Nat × Nat)) : List ((Nat × Nat) × (Nat × Nat)) :=
  ds.flatMap fun c => match pl.find? (fun e => decide (e.1 = c.chunk)) with
    | some e => (List.range c.planes).map fun o => ((c.chunk, o), (e.2.1, e.2.2 + o))
    | none => []

/-- A stock command that is turned away with REFUSED (R307). -/
def stockRefused (p : Nat) (d : Dev) : Dev × Verdict := fail .refused (raise .st 3 p 0 d)

def isStockPart (d : Dev) (p : Nat) : Bool := (partOf d p).isSome

/-! ### Ending a restock (R291) -/

/-- The side generation goes; a live one written in place stays incomplete. -/
def endRestock (p : Nat) (d : Dev) : Dev :=
  match (getPart d p).restock with
  | none => d
  | some r =>
    let d := dropProgs (isRestockProg p) (if r.verified then d else raise .st 3 (p % 16) 0 (finishJob r.ring .refused 0 d))
    modPart p (fun x =>
      let x := { x with restock := none }
      if (r.verified || r.halted) && decide (x.side = r.gen) && decide (x.sideState = 1) then
        { x with side := 0, sideState := 0, sideMap := [], sideDone := [], sideLeaves := [], sideRoot := 0 }
      else x) d

/-- A chunk has failed twice, or no spare is left for it (R42, R291). -/
def chunkFail (p : Nat) (d : Dev) : Dev := endRestock p (faultRec { blankRec with kind := 17, unit := 14 } (raise .st 1 p 0 d))

/-! ### STOCK_LOAD, SHELF_WRITE, STOCK_ABORT -/

def newRestock (c : Cmd) (gen kind src stamp total : Nat) (inPlace : Bool) (place : List (Nat × Nat × Nat)) (range : Nat × Nat) : Restock :=
  { gen := gen, inPlace := inPlace, srcKind := kind, src := src, stamp := stamp, place := place, verified := false, halted := false, ring := c.ring,
    range := range, root := 0, leaves := [], sealed := false, rx := [], refetched := [], done := [], total := total, key := [] }

def stockLoad (nv : NonVol) (m : List Host.Cell) (c : Cmd) (d : Dev) : Dev × Verdict :=
  let p := param c.params 8 1
  let mode := param c.params 9 1
  let kind := param c.params 10 1
  let gen := param c.params 12 4
  let src := param c.params 16 4
  let off := param c.params 20 4
  let stamp := param c.params 24 4
  if ¬ isStockPart d p ∨ 1 < mode ∨ 1 < kind ∨ gen = 0 then fail .badArg d else
  let x := getPart d p
  let ds := chunkDefs d p
  let n := ds.length
  match x.restock with
  | some r =>
    if r.halted && r.verified && decide (r.gen = gen) && decide (r.inPlace = decide (mode = 1)) then
      if ! sourceUp d kind src then stockRefused p d
      else (setPart d p { x with restock := some { r with verified := false, srcKind := kind, src := src, ring := c.ring, range := (0, 0), rx := [] } }, .later)
    else fail .busy d
  | none =>
    if x.refresh.isSome then fail .busy d
    else if ! sourceUp d kind src then stockRefused p d
    else if mode = 1 then
      let fills := decide (x.live = gen) && ! x.gone
      if x.liveMap.any (fun e => isShelf e.2.1) || decide (0 < pinned d p x.live) || recentlyPinned d p x.live || (! fills && decide (x.sideState ≠ 0)) ||
          x.liveMap.any (fun e => decide (30000 ≤ planeCount d nv (physArr d e.2.1) e.2.2)) then stockRefused p d
      else (setPart d p { x with restock := some (newRestock c gen kind src stamp n true [] (0, 0)) }, .later)
    else
      let pl := placeEntries n (staged m off (8 * n))
      if 0x10000000 < off + 8 * n ∨ ¬ placeFits d nv p ds pl ∨ x.sideState ≠ 0 then stockRefused p d
      else (setPart d p { x with restock := some (newRestock c gen kind src stamp n false pl (off, off + 8 * n)) }, .later)

def execStockLoad (c : Cmd) (s : State) : R := onDev (hostCmd 0x30 c (stockLoad s.nv s.mem c)) s

/-- A plane of the back shelf that can take no further erase (R45, R289); retired arrays are left out (R302). -/
def shelfWorn (nv : NonVol) (d : Dev) : Bool :=
  (getPart d 16).liveMap.any fun e => ! (getArr d (physArr d e.2.1)).retired && decide (30000 ≤ planeCount d nv (physArr d e.2.1) e.2.2)

def shelfWrite (nv : NonVol) (c : Cmd) (d : Dev) : Dev × Verdict :=
  let kind := param c.params 8 1
  let src := param c.params 12 4
  let stamp := param c.params 16 4
  if 1 < kind then fail .badArg d else
  let x := getPart d 16
  match (theDoc d).bind (·.shelf) with
  | none => stockRefused 0 d
  | some e =>
    match x.restock with
    | some r =>
      if r.halted && r.verified && sourceUp d kind src then
        (setPart d 16 { x with restock := some { r with verified := false, srcKind := kind, src := src, ring := c.ring, rx := [] } }, .later)
      else if r.halted && r.verified then stockRefused 0 d
      else fail .busy d
    | none =>
      if ! sourceUp d kind src || shelfWorn nv d then stockRefused 0 d
      else (setPart d 16 { x with restock := some (newRestock c e.gen kind src stamp 1024 true [] (0, 0)) }, .later)

def execShelfWrite (c : Cmd) (s : State) : R := onDev (hostCmd 0x37 c (shelfWrite s.nv c)) s

def stockAbort (c : Cmd) (d : Dev) : Dev × Verdict :=
  let p := param c.params 8 1
  if ! isStockPart d p then fail .badArg d else ok0 (endRestock p d)

def execStockAbort (c : Cmd) (s : State) : R := onDev (hostCmd 0x34 c (stockAbort c)) s

/-! ### Flips and releases (R296-R298) -/

def sideFree (x : Part) : Part := { x with side := 0, sideState := 0, sideMap := [], sideDone := [], sideLeaves := [], sideRoot := 0, release := false }

/-- The side generation becomes the live one; the former live one drains, or is gone already (R299). -/
def swapGens (x : Part) : Part :=
  let y := { x with live := x.side, side := x.live, sideState := 3, liveRoot := x.sideRoot, sideRoot := x.liveRoot, liveLeaves := x.sideLeaves,
                    sideLeaves := x.liveLeaves, liveMap := x.sideMap, sideMap := x.liveMap, liveDone := x.sideDone, sideDone := x.liveDone,
                    armed := none, stopped := false, gone := false }
  if x.gone then sideFree y else y

/-- An armed flip takes effect, or is dropped where its generation is no longer complete. -/
def applyFlip (p : Nat) (d : Dev) : Dev :=
  let x := getPart d p
  match x.armed with
  | none => d
  | some (gen, action, _) =>
    if action = 1 then raise .st 4 p 0 (setPart d p { x with armed := none, stopped := true })
    else if decide (x.side = gen) && genComplete d p gen then raise .st 4 p 0 (setPart d p (swapGens x))
    else if decide (x.live = gen) && genComplete d p gen then raise .st 4 p 0 (setPart d p { x with armed := none, stopped := false })
    else raise .st 3 p 0 (setPart d p { x with armed := none })

def stockFlip (c : Cmd) (d : Dev) : Dev × Verdict :=
  let p := param c.params 8 1
  let action := param c.params 9 1
  let gen := param c.params 12 4
  let at_ := param c.params 16 8
  match partOf d p with
  | none => fail .badArg d
  | some e =>
    if 1 < action then fail .badArg d else
    let x := getPart d p
    if action = 0 ∧ ¬ genComplete d p gen then stockRefused p d
    else if x.armed.isSome then fail .busy d
    else if at_ ≠ 0 ∧ at_ ≤ (getDom d e.domain).step then fail .stale d
    else
      let d := setPart d p { x with armed := some (gen, action, at_) }
      ok0 (if decide (d.state = .ready) && decide (at_ = 0) then applyFlip p d else d)

def execStockFlip (c : Cmd) (s : State) : R := onDev (hostCmd 0x31 c (stockFlip c)) s

def stockFlipCancel (c : Cmd) (d : Dev) : Dev × Verdict :=
  let p := param c.params 8 1
  if ! isStockPart d p then fail .badArg d
  else if (getPart d p).armed.isNone then fail .stale d
  else ok0 (modPart p (fun x => { x with armed := none }) d)

def execStockFlipCancel (c : Cmd) (s : State) : R := onDev (hostCmd 0x32 c (stockFlipCancel c)) s

def stockRelease (c : Cmd) (d : Dev) : Dev × Verdict :=
  let p := param c.params 8 1
  let gen := param c.params 12 4
  match partOf d p with
  | none => fail .badArg d
  | some e =>
    let x := getPart d p
    let busy := decide (x.sideState = 1) || decide (0 < pinned d p x.side) || x.armed.any fun a => decide (a.1 = x.side) && decide (a.2.1 = 0)
    if decide (x.sideState ≠ 0) && busy then fail .busy d
    else if gen = 0 ∨ x.side ≠ gen ∨ x.sideState = 0 then fail .badArg d
    else
      let now := decide (d.state = .ready) || (decide (d.state = .serving) && ! (getDom d e.domain).running)
      ok0 (setPart d p (if now then sideFree x else { x with release := true }))

def execStockRelease (c : Cmd) (s : State) : R := onDev (hostCmd 0x33 c (stockRelease c)) s

/-- What the bell of domain k that starts step s does to stock: flips (R296), releases (R298), refreshed maps (R305). -/
def stockAtBell (k s : Nat) (d : Dev) : Dev :=
  let ps := (((theDoc d).map (·.parts)).getD []).filter fun e => decide (e.domain = k)
  ps.foldl (fun d e =>
    let x := getPart d e.num
    let d := if x.release then setPart d e.num (sideFree x) else d
    let d := modPart e.num (fun x => match x.refresh with
      | some r => if r.complete then { x with refresh := none, liveMap := x.liveMap.map fun m => (m.1, aget r.moves m.2 m.2) } else x
      | none => x) d
    match (getPart d e.num).armed with
    | some a => if a.2.2 ≤ s then applyFlip e.num d else d
    | none => d) d

/-! ### Stocktake and refresh commands -/

def stocktakeCmd (c : Cmd) (d : Dev) : Dev × Verdict :=
  let mask := param c.params 8 2
  if d.stock.takeRunning then fail .busy d else
  let ps := (List.range 16).filter fun p => bitOf mask p && isStockPart d p
  ok0 (takeEnd (startTake ps d))

def execStocktake (c : Cmd) (s : State) : R := onDev (hostCmd 0x35 c (stocktakeCmd c)) s

def stockRefresh (nv : NonVol) (m : List Host.Cell) (c : Cmd) (d : Dev) : Dev × Verdict :=
  let p := param c.params 8 1
  let first := param c.params 12 2
  let last := param c.params 14 2
  let off := param c.params 16 4
  if ¬ isStockPart d p ∨ last < first then fail .badArg d else
  let x := getPart d p
  if x.restock.isSome || x.refresh.isSome then fail .busy d else
  let ds := (chunkDefs d p).filter fun c => x.liveMap.any fun e => decide (e.1.1 = c.chunk) && decide (first ≤ e.2.1) && decide (e.2.1 ≤ last)
  let n := ds.length
  let pl := placeEntries n (staged m off (8 * n))
  if 0x10000000 < off + 8 * n ∨ ¬ placeFits d nv p ds pl then stockRefused p d else
  let to_ := mapOfPlace ds pl
  let moves := to_.filterMap fun t => (x.liveMap.find? fun e => decide (e.1 = t.1)).map fun e => (e.2, t.2)
  ok0 (setPart d p { x with refresh := some { first := first, last := last, moves := moves, left := moves.map (·.1), complete := moves.isEmpty } })

def execStockRefresh (c : Cmd) (s : State) : R := onDev (hostCmd 0x36 c (stockRefresh s.nv s.mem c)) s

/-! ### The crate's header, signature and manifest (R274-R279, R290 steps 1-3) -/

def headerOk (d : Dev) (p gen : Nat) (h : List Byte) : Bool :=
  let kind := if p = 16 then 3 else ((partOf d p).map (·.kind)).getD 0
  let shelf := decide (p < 16) && ((theDoc d).any fun doc => (partAll doc p).any (shelfEntry doc))
  decide (h.take 8 = asciiBytes "SKOVCRAT") && decide (leAt h 8 2 = 1) && decide (leAt h 10 1 < 2) &&
    (decide (leAt h 11 1 = kind) || (shelf && decide (leAt h 11 1 = 3))) && decide (p < 16 ∨ leAt h 10 1 = 0) &&
    decide (leAt h 12 4 = crateOf d p) && decide (leAt h 16 4 = gen) && decide (leAt h 20 4 = (chunkDefs d p).length)

/-- Step 1's generation rule, with the exemptions of R292 and R495; the back shelf is rewritten whole (R302). -/
def genAllowed (d : Dev) (p : Nat) (x : Part) (r : Restock) : Bool :=
  r.halted || decide (p = 16) || (r.inPlace && decide (x.live = r.gen) && ! genComplete d p r.gen) || (decide (x.live ≠ r.gen) && (decide (x.sideState = 0) || decide (x.side ≠ r.gen)))

/-- The root known for the generation, if any. -/
def knownRoot (d : Dev) (p : Nat) (x : Part) (r : Restock) : Option Digest :=
  if r.halted then some r.root
  else if x.live = r.gen then some x.liveRoot
  else if x.side = r.gen ∧ x.sideState ≠ 0 then some x.sideRoot
  else match digestFor d p with | some g => if g.gen = r.gen then some g.root else none | none => none

/-- The sub-port of the flow that brings stock from a peer. -/
def peerPath (d : Dev) (rank : Nat) : Nat × Nat :=
  ((((theDoc d).map (·.flows)).getD []).find? fun e => decide (e.cls = 2) && decide (e.peerRank = rank)).elim (0, 0) fun e => flowPath d e.index

def peerSub (d : Dev) (rank : Nat) : SubPort := let p := peerPath d rank; getSub d p.1 p.2

/-- The key of a sealed crate's planes: the session key of the link, or the content key that the wrap record of the crate holds for this
device (log 9). -/
def crateKey (d : Dev) (kind src : Nat) (h : List Byte) : List Byte :=
  if leAt h 10 1 = 0 then [] else if kind = 0 then ((peerSub d src).session.map digestBytes).getD [] else Config.identity 10 (h.take 128)

/-- Steps 1-3 have passed: the restock begins or goes on. -/
def restockStart (p : Nat) (r : Restock) (h : List Byte) (leaves : List Digest) (d : Dev) : Dev :=
  let x := getPart d p
  let ds := chunkDefs d p
  let root := digestAt h 32
  let r' := { r with verified := true, halted := false, root := root, leaves := leaves, sealed := decide (leAt h 10 1 = 1), key := crateKey d r.srcKind r.src h }
  if r.halted then setPart d p { x with restock := some r' }
  else if p = 16 then setPart d p { x with restock := some r', liveDone := [], doneCount := 0, totalCount := ds.length }
  else if r.inPlace && decide (x.live = r.gen) then
    let have_ := (ds.map (·.chunk)).filter fun k => x.liveDone.contains k
    setPart d p { x with restock := some { r' with done := have_ }, liveLeaves := leaves, doneCount := have_.length, totalCount := ds.length }
  else
    setPart d p { x with restock := some r', side := r.gen, sideState := 1, sideRoot := root, sideLeaves := leaves, sideDone := [],
                         sideMap := if r.inPlace then x.liveMap else mapOfPlace ds r.place, doneCount := 0, totalCount := ds.length }

/-- A check of steps 1-3 has failed: nothing is created, and a restock that was to go on stays halted. -/
def restockTurned (p : Nat) (r : Restock) (st : Status) (d : Dev) : Dev :=
  let d := if st = .auth then raise .st 2 p 0 d else d
  finishJob r.ring st 0 (modPart p (fun x => { x with restock := if r.halted then some { r with verified := true } else none }) d)

def headerVerified (p : Nat) (h : List Byte) (leaves : List Digest) (sigOk wrapOk : Bool) (d : Dev) : Dev :=
  let x := getPart d p
  match x.restock with
  | none => d
  | some r =>
    if r.verified then d
    else if ¬ headerOk d p r.gen h ∨ ¬ genAllowed d p x r then restockTurned p r .badArg d
    else
      let root := digestAt h 32
      let key := (((theDoc d).map (·.pubKeys)).getD []).contains (digestAt h 64)
      let same := match knownRoot d p x r with | some q => decide (q = root) | none => true
      if ! (sigOk && key && same) then restockTurned p r .auth d
      else if leaves.length ≠ (chunkDefs d p).length ∨ merkleRoot leaves ≠ root ∨ (leAt h 10 1 = 1 ∧ ¬ wrapOk) then restockTurned p r .auth d
      else finishJob r.ring .ok 0 (restockStart p r h leaves d)

/-! ### Chunks (R278, R283, R290 steps 4-5) -/

def imageLen : Nat := 34816

def chunkLen (planes : Nat) : Nat := 64 + imageLen * planes

/-- Each row's seal entry equals the sum of c_j times the row's weights (R21, R290). -/
def sealOk (fmt : Nat) (seed : W64) (off : Nat) (rows : List CellRow) : Bool :=
  let cs := (List.range (outsOf fmt)).map fun j => (sealC seed off j : Nat)
  rows.all fun row => decide (sealEntry row = (cs.zipIdx).foldl (fun a e => a + (e.1 : Int) * weightAt fmt row e.2) 0)

def chunkImages : Nat → List Byte → List (List CellRow)
  | 0, _ => []
  | n + 1, b => imageRows 512 (b.take imageLen) :: chunkImages n (b.drop imageLen)

/-- The plaintext of a chunk is the source's. -/
def chunkOk (d : Dev) (p gen : Nat) (leaves : List Digest) (c : ChunkDef) (b : List Byte) : Bool :=
  let k := chunkPos d p c.chunk
  let seed := seedFor d p c.chunk
  decide (b.length = chunkLen c.planes) && decide (leaves[k]? = some (merkleLeaf b)) && decide (leAt b 0 4 = crateOf d p) && decide (leAt b 4 4 = gen) &&
    decide (leAt b 8 4 = c.chunk) && decide (leAt b 12 1 = c.planes) && decide (leAt b 13 1 = c.format) && decide (leAt b 24 8 = seed.toNat) &&
    ((chunkImages c.planes (b.drop 64)).zipIdx).all fun e => sealOk c.format seed e.2 e.1

/-- Contiguous bytes [pos, pos + n) of what has come, if all of it has; the count is fuel. -/
def gather (rx : List (Nat × List Byte)) : Nat → Nat → Nat → Option (List Byte)
  | 0, _, n => if n = 0 then some [] else none
  | fuel + 1, pos, n =>
    if n = 0 then some [] else
    match rx.find? (fun e => decide (e.1 ≤ pos) && decide (pos < e.1 + e.2.length)) with
    | none => none
    | some e =>
      let t := (e.2.drop (pos - e.1)).take n
      (gather rx fuel (pos + t.length) (n - t.length)).map fun r => t ++ r

/-- The n octets of plaintext of an AES-256-GCM text and its tag (log 9). -/
def unsealed (key nonce aad : List Byte) (n : Nat) (b : List Byte) : List Byte := sub (Config.identity 4 (key ++ nonce ++ aad ++ b)) 0 n

/-- Lengths on the wire around a chunk: a session record before it, a tag after it. -/
def wirePre (r : Restock) : Nat := if r.sealed ∧ r.srcKind = 0 then 16 else 0
def wirePost (r : Restock) : Nat := if r.sealed then 16 else 0

/-- Byte offset of a chunk's part of the crate. -/
def chunkStart (d : Dev) (p : Nat) (r : Restock) (chunk : Nat) : Nat :=
  let ds := chunkDefs d p
  let base := 2688 + 32 * ds.length + (if r.sealed ∧ r.srcKind = 1 then 1168 else 0)
  (ds.takeWhile fun c => decide (c.chunk ≠ chunk)).foldl (fun n c => n + wirePre r + chunkLen c.planes + wirePost r) base

/-- A chunk as received in the clear, and the counter of its session record. -/
def chunkPlain (sealed_ peer : Bool) (key : List Byte) (c : ChunkDef) (b : List Byte) : List Byte × Option Nat :=
  if ! sealed_ then (b.take (chunkLen c.planes), none) else
  let b' := if peer then b.drop 16 else b
  let h := b'.take 64
  let nonce := if peer then b.take 12 else h.take 12
  (h ++ unsealed key nonce h (imageLen * c.planes) ((b'.drop 64).take (imageLen * c.planes + 16)), if peer then some (leAt b 0 12) else none)

/-- The counter of a session record exceeds the last one accepted. -/
def counterOk (d : Dev) (rank : Nat) (n : Option Nat) : Bool := n.all fun n => decide ((peerSub d rank).rxCounter ≤ n)

def countTaken (rank : Nat) (n : Option Nat) (d : Dev) : Dev :=
  match n with
  | some n => let p := peerPath d rank; modSub p.1 p.2 (fun x => { x with rxCounter := n + 1 }) d
  | none => d

/-- Queue the planes of a chunk for programming on the places that a map gives them. -/
def queueChunk (p : Nat) (gen : Nat) (c : ChunkDef) (stamp : Nat) (b : List Byte) (at_ : Nat → Option (Nat × Nat)) (only : List Nat)
    (why : Nat → Nat → ProgFor) (d : Dev) : Dev :=
  ((chunkImages c.planes (b.drop 64)).zipIdx).foldl (fun d e =>
    match at_ e.2 with
    | none => d
    | some (a, pl) =>
      if ! only.contains e.2 then d else
      addProg { array := a, plane := pl, why := why a e.2, phase := .erase 0, again := false, crate := crateOf d p, gen := gen, chunk := c.chunk,
                off := e.2, format := c.format, seed := seedFor d p c.chunk, stamp := stamp, rows := e.1, todo := [], count := 0 } d) d

/-- Where a restock writes (chunk, offset). -/
def restockAt (d : Dev) (p : Nat) (r : Restock) (chunk off : Nat) : Option (Nat × Nat) :=
  let x := getPart d p
  let m := if r.gen = x.live then x.liveMap else x.sideMap
  (m.find? fun e => decide (e.1 = (chunk, off))).map fun e => (physArr d e.2.1, e.2.2)

def restockDoneList (p : Nat) (r : Restock) (x : Part) : List Nat := if r.gen = x.live || decide (p = 16) then x.liveDone else x.sideDone

/-- A restock has its last plane hash (R41, R286, R294). -/
def restockEnd (k : Nat) (r : Restock) (d : Dev) : Dev :=
  let d := raise .st 0 (k % 16) 0 d
  tryReady (modPart k (fun x =>
    if decide (r.gen = x.live) || decide (k = 16) then { x with restock := none } else { x with restock := none, sideState := 2 }) d)

/-- A chunk is done with, and perhaps the restock. -/
def chunkOver (k : Nat) (r : Restock) (chunk : Nat) (d : Dev) : Dev :=
  let r' := { r with done := linsert r.done chunk }
  let d := modPart k (fun x => { x with restock := some r' }) d
  if (chunkDefs d k).all fun c => r'.done.contains c.chunk then restockEnd k r' d else d

/-- The chunk of a retired back-shelf array is left out (R302). -/
def chunkLeft (k chunk : Nat) (d : Dev) : Dev :=
  match (getPart d k).restock with
  | none => d
  | some r => chunkOver k r chunk d

/-- The next chunk that is wholly here: verified and queued, or fetched once more, or the end of the restock. -/
def tryChunk (p : Nat) (c : ChunkDef) (d : Dev) : Dev :=
  let x := getPart d p
  match x.restock with
  | none => d
  | some r =>
    if r.halted || ! r.verified || r.done.contains c.chunk || d.stock.progs.any (fun q => isRestockProg p q && decide (q.chunk = c.chunk)) then d else
    let n := wirePre r + chunkLen c.planes + wirePost r
    let s := chunkStart d p r c.chunk
    match gather r.rx (r.rx.length + 1) s n with
    | none => d
    | some b =>
      let q := chunkPlain r.sealed (decide (r.srcKind = 0)) r.key c b
      let rest := r.rx.filter fun e => ! (decide (s ≤ e.1) && decide (e.1 + e.2.length ≤ s + n))
      if chunkOk d p r.gen r.leaves c q.1 && counterOk d r.src q.2 then
        let d := countTaken r.src q.2 (setPart d p { x with restock := some { r with rx := rest } })
        if p = 16 ∧ (getArr d (16 * c.chunk + 15)).retired then chunkLeft p c.chunk (raise .st 7 0 0 d)
        else queueChunk p r.gen c r.stamp q.1 (restockAt d p r c.chunk) (List.range c.planes) (fun _ o => .restock p c.chunk o) d
      else if r.refetched.contains c.chunk then chunkFail p d
      else setPart d p { x with restock := some { r with rx := rest, refetched := r.refetched ++ [c.chunk] } }

def restockBytes (p off : Nat) (b : List Byte) (d : Dev) : Dev :=
  let d := modPart p (fun x => { x with restock := x.restock.map fun r => { r with rx := r.rx ++ [(off, b)] } }) d
  (chunkDefs d p).foldl (fun d c => tryChunk p c d) d

/-! ### Chunks for a recovery (R376, R380) -/

def setFetch (f g : Fetch) (d : Dev) : Dev := { d with net := { d.net with fetches := d.net.fetches.map fun q => if q = f then g else q } }

/-- The peer after one that has failed. -/
def nextPeer (d : Dev) (r : Nat) : Nat := (((stockPeers d).find? fun p => decide (r < p)).getD (firstPeer d))

def fetchBytes (f : Fetch) (off : Nat) (sealed_ : Bool) (b : List Byte) (d : Dev) : Dev :=
  let f' := { f with rx := f.rx ++ [(off, b)], sealed := f.sealed || sealed_ }
  let x := getPart d f.part
  match (chunkDefs d f.part).find? (fun c => decide (c.chunk = f.chunk)) with
  | none => d
  | some c =>
    match gather f'.rx (f'.rx.length + 1) 0 (chunkLen c.planes + if f'.sealed then 32 else 0) with
    | none => setFetch f f' d
    | some b =>
      let leaves := if x.live = f.gen then x.liveLeaves else x.sideLeaves
      let q := chunkPlain f'.sealed true (((peerSub d f.src).session.map digestBytes).getD []) c b
      let b := q.1
      if chunkOk d f.part f.gen leaves c b && counterOk d f.src q.2 then
        let d := countTaken f.src q.2 d
        let at_ := fun o => (f.planes.find? fun p => decide (p.1 = o)).map fun p => (p.2.1, p.2.2)
        queueChunk f.part f.gen c 0 b at_ f.left (fun a _ => .recovery a) (setFetch f { f' with rx := [], got := true } d)
      else setFetch f { f with rx := [], sealed := false, src := nextPeer d f.src } d

/-! ### UNIT frames that carry stock: one transfer of a source at a time, recoveries first (log 32) -/

/-- Whether a flow comes from a source. -/
def fromSource (d : Dev) (f kind src : Nat) : Bool :=
  if kind = 0 then (flowEntry d f).any fun e => decide (e.cls = 2) && decide (e.peerRank = src) else decide (flowHandle d f = src)

def restockFor (d : Dev) (f : Nat) : Option Nat :=
  (d.stock.parts.find? fun e => match e.2.restock with
    | some r => r.verified && ! r.halted && fromSource d f r.srcKind r.src
    | none => false).map (·.1)

def fetchFor (d : Dev) (f : Nat) : Option Fetch := d.net.fetches.find? fun q => ! q.got && fromSource d f 0 q.src

end Sys2Proof.Machine
end

