-- ==== Sys2Proof/Machine/Program.lean ====
section
/-! DEFINITION. Programming, plane by plane (R41-R47), and what a verify-read serves (R40, R293, R305, R375). -/
namespace Sys2Proof.Machine

/-! ### Grants (R37, R43, R449) -/

/-- A program operation has ended: its array keeps the grant for the next one only while nothing waits for it. -/
def opGrant (m : List Host.Cell) (a : Nat) (d : Dev) : Dev :=
  let more := match progAt d a with | some p => needsProgram p.phase | none => false
  if more && ! mvmWaits m d (stallOf a) && ! d.pwr.inputLow then d else endGrant a d

def programs (d : Dev) (a : Nat) : Bool := decide ((getArr d a).grant = some .program)

/-- The program operation of an array that is under way. -/
def activeProg (d : Dev) (a : Nat) (sel : ProgPhase → Bool) : Option Prog :=
  if programs d a && convOn d (stallOf a) then (progAt d a).filter fun p => sel p.phase else none

def isRow : ProgPhase → Bool | .tag | .row _ => true | _ => false
def isCompare : ProgPhase → Bool | .compare => true | _ => false
def isHash : ProgPhase → Bool | .hash => true | _ => false

/-- The row after row r: the next one, or the next of those to be programmed again. -/
def nextPhase (p : Prog) (r : Nat) : ProgPhase :=
  if p.again then (match p.todo.find? (fun q => decide (r < q)) with | some q => .row q | none => .compare)
  else if r + 1 < 512 then .row (r + 1) else .compare

/-! ### Erase and rows -/

/-- A mode-1 restock erases its first plane: the generation in those planes is gone (R299). -/
def erases (p : Prog) (d : Dev) : Dev :=
  match p.why with
  | .restock k _ _ =>
    let x := getPart d k
    if decide (k < 16) && (x.restock.any fun r => r.inPlace && decide (r.gen ≠ x.live)) && ! x.gone then
      setPart d k { x with live := 0, liveDone := [], gone := true, stopped := true }
    else d
  | _ => d

/-- The plane can take no further erase (R45). -/
def worn (d : Dev) (nv : NonVol) (p : Prog) : Bool := decide (p.phase = .erase 0) && decide (30000 ≤ planeCount d nv p.array p.plane)

/-- A mode-1 restock whose first erase waits: the generation in its planes is pinned (R44, R300). -/
def erasePinned (d : Dev) (p : Prog) : Bool :=
  match p.why with
  | .restock k _ _ =>
    let x := getPart d k
    decide (p.phase = .erase 0) && decide (k < 16) && ! x.gone && (x.restock.any fun r => r.inPlace && decide (r.gen ≠ x.live)) &&
      (decide (0 < pinned d k x.live) || recentlyPinned d k x.live)
  | _ => false

/-- An erase pulse ends. With the first, the count to write is known and the plane counts as cut off until its tag is written
(R45). -/
def erasePulse (m : List Host.Cell) (a : Nat) (d : Dev) (nv : NonVol) : Dev × NonVol :=
  match activeProg d a isErase with
  | none => (d, nv)
  | some p =>
    match p.phase with
    | .erase n =>
      if erasePinned d p then (d, nv) else
      let p' := if n = 0 then { p with count := planeCount d nv a p.plane + 1 } else p
      let cells := opEnd p (getArr d a).remaps d.freeIx nv.cells
      let d := if n = 0 then erases p { d with stock := { d.stock with foreign := lremove d.stock.foreign (cutKey p) } } else d
      let d := setProg { p' with phase := if n + 1 < 32 then .erase (n + 1) else .tag } { d with freeIx := d.freeIx + 1 }
      (opGrant m a d, { nv with cells := cells, cut := linsert nv.cut (cutKey p) })
    | _ => (d, nv)

def rowEnd (m : List Host.Cell) (a : Nat) (d : Dev) (nv : NonVol) : Dev × NonVol :=
  match activeProg d a isRow with
  | none => (d, nv)
  | some p =>
    let cells := opEnd p (getArr d a).remaps d.freeIx nv.cells
    let d := match p.phase with
      | .tag => modArr a (fun x => { x with progCount := max x.progCount p.count }) (setProg { p with phase := .row 0 } d)
      | .row r => setProg { p with phase := nextPhase p r } d
      | _ => d
    (opGrant m a d, { nv with cells := cells, cut := if p.phase = .tag then lremove nv.cut (cutKey p) else nv.cut })

def execRowProgramEnd (array : Nat) (s : State) : R := onNv (rowEnd s.mem array) s

/-! ### Failure to program (R42, R47) -/

/-- Data columns and seal columns: what an image covers. -/
def compared (v : CellRow) : CellRow := v &&& imageMask

/-- The rows in which a plane as read differs from what was programmed, tag columns and all (R41 step 4). -/
def failRows (p : Prog) (remaps : List (Nat × Nat)) (read : List CellRow) : List Nat :=
  (List.range 512).filter fun r => decide ((read[r]?).getD 0 ≠ wantRow p remaps r)

def diffCols (p : Prog) (remaps : List (Nat × Nat)) (read : List CellRow) : CellRow :=
  (List.range 512).foldl (fun (v : CellRow) r => v ||| ((read[r]?).getD 0 ^^^ wantRow p remaps r)) 0

/-- The lowest failing data column and the lowest spare column that is not taken. -/
def remapFor (x : Arr) (diff : CellRow) : Option (Nat × Nat) :=
  match (List.range 512).find? (fun c => diff.getLsbD c), (List.range 8).find? (fun k => ! x.remaps.any fun e => decide (e.2 = 536 + k)) with
  | some c, some k => some (c, 536 + k)
  | _, _ => none

/-- A seal or tag column that fails cannot be remapped (R23). -/
def sealFails (diff : CellRow) : Bool := (List.range 24).any fun k => diff.getLsbD (512 + k)

/-- A plane's programming starts again elsewhere. -/
def moved (s : Nat) (q : Prog) : Prog := { q with array := s, phase := .erase 0, again := false, todo := [], count := 0 }

/-- Programmed planes of a chunk on an array, to be programmed on another: their rows as they stand. -/
def redo (d : Dev) (nv : NonVol) (p : Prog) (s : Nat) (part chunk : Nat) : List Prog :=
  let x := getPart d part
  let m := (if p.gen = x.live then x.liveMap else x.sideMap).filter fun e => decide (e.1.1 = chunk) && decide (physArr d e.2.1 = p.array)
  let left := m.filter fun e => ! d.stock.progs.any fun q => decide (q.array = p.array) && decide (q.plane = e.2.2)
  left.map fun e => { p with array := s, plane := e.2.2, why := .restock part chunk e.1.2, phase := .erase 0, again := false, off := e.1.2, todo := [],
                             count := 0, rows := (readPlane nv.cells (getArr d p.array).remaps [] p.array e.2.2).map compared }

def isRefreshProg (k : Nat) (q : Prog) : Bool := match q.why with | .refresh j _ _ => decide (j = k) | _ => false

/-- What a refresh programs on an array goes to a spare: planes under way start again there, planes already programmed are read again. -/
def refreshMoved (k : Nat) (r : Refresh) (a s : Nat) (d : Dev) : Dev :=
  let mine := fun (q : Prog) => isRefreshProg k q && decide (q.array = a)
  let back := r.moves.filter fun m => decide (m.2.1 = a) && ! r.left.contains m.1 && ! d.stock.progs.any fun q => mine q && decide (q.plane = m.2.2)
  let r' := { r with moves := r.moves.map (fun m => if m.2.1 = a then (m.1, (s, m.2.2)) else m), left := r.left ++ back.map (·.1) }
  modPart k (fun x => { x with refresh := some r' })
    { d with stock := { d.stock with progs := d.stock.progs.map fun q => if mine q then moved s q else q } }

/-- An array that fails programming retires at once where it holds nothing else, and after its copy otherwise (R48). -/
def leaves (a : Nat) (d : Dev) : Dev :=
  if (stockedPlanes d a).isEmpty && ! d.stock.progs.any (fun q => decide (q.array = a)) then retireArr a d
  else startCopy a 17 (modArr a (fun x => { x with retiring := true }) d)

/-- The array fails programming: it retires, its chunk is programmed into a spare, what else it holds is copied (R42, R47). -/
def progFails (p : Prog) (d : Dev) (nv : NonVol) : Dev :=
  let a := p.array
  let d := faultRec (arrRec 17 3 14 a d) (endGrant a d)
  match p.why with
  | .restock k c _ =>
    if k = 16 then
      -- R302: a retired back-shelf array is left out
      chunkLeft 16 c (retireArr a d)
    else
    match takeSpare d a with
    | none => chunkFail k (retireArr a (noSpare a d))
    | some s =>
      let again := redo d nv p s k c
      let mine := fun (q : Prog) => isRestockProg k q && decide (q.chunk = c) && decide (q.array = a)
      let d := { d with stock := { d.stock with progs := (d.stock.progs.map fun q => if mine q then moved s q else q) ++ again } }
      let mv := fun (l : List ((Nat × Nat) × (Nat × Nat))) => l.map fun e => if e.1.1 = c ∧ physArr d e.2.1 = a then (e.1, (s, e.2.2)) else e
      let d := modPart k (fun x => if p.gen = x.live then { x with liveMap := mv x.liveMap } else { x with sideMap := mv x.sideMap }) d
      leaves a d
  | .refresh k _ _ =>
    match takeSpare d a, (getPart d k).refresh with
    | some s, some r => leaves a (refreshMoved k r a s d)
    | _, _ => chunkFail k (dropProgs (isRefreshProg k) (modPart k (fun x => { x with refresh := none }) (retireArr a (noSpare a d))))
  | .copy src =>
    let d := retireArr a (dropProgs (fun q => decide (q.array = a)) d)
    let cs := d.net.copies.filter fun c => decide (c.array = src)
    let d := { d with net := { d.net with copies := d.net.copies.filter fun c => decide (c.array ≠ src) } }
    match takeSpare d src, cs with
    | some s, c :: _ => { d with net := { d.net with copies := d.net.copies ++ [{ c with spare := s, planes := stockedPlanes d src, redirect := false }],
                                                     recoveries := d.net.recoveries.map fun r => { r with moves := r.moves.map fun m => if m.2 = a then (m.1, s) else m } } }
    | _, _ => (match d.net.recoveries.find? (fun r => r.moves.any fun m => decide (m.1 = src)) with | some r => noSpareBlocking r.domain src d | none => noSpare src d)
  | .recovery _ =>
    let d := dropProgs (fun q => decide (q.array = a)) d
    match takeSpare (retireArr a d) a with
    | some s =>
      let d := retireArr a d
      { d with net := { d.net with fetches := d.net.fetches.map (fun f => if f.planes.any (fun q => decide (q.2.1 = a)) then
                                     { f with planes := f.planes.map (fun q => if q.2.1 = a then (q.1, s, q.2.2) else q), got := false, rx := [], left := f.planes.map (·.1) }
                                   else f),
                                   recoveries := d.net.recoveries.map fun r => { r with moves := r.moves.map fun m => if m.2 = a then (m.1, s) else m } } }
    | none =>
      let d := retireArr a d
      (match d.net.recoveries.find? (fun r => r.moves.any fun m => decide (m.2 = a)) with | some r => noSpareBlocking r.domain a d | none => noSpare a d)

/-- Step 4 of R41 with the rows as read. -/
def compareEnd (p : Prog) (read : Option (List CellRow)) (d : Dev) (nv : NonVol) : Dev :=
  let d := endGrant p.array d
  match read with
  | none => progFails p d nv
  | some rows =>
    let rs := (getArr d p.array).remaps
    match failRows p rs rows with
    | [] => setProg { p with phase := .hash } d
    | r :: rest =>
      if ! p.again then setProg { p with again := true, todo := r :: rest, phase := .row r } d
      else
        let diff := diffCols p rs rows
        match (if sealFails diff then none else remapFor (getArr d p.array) diff) with
        | some e =>
          setProg { p with again := false, todo := [], phase := .erase 0 } (modArr p.array (fun x => { x with remaps := x.remaps ++ [e] }) d)
        | none => progFails p d nv

/-! ### Stocktake (R49, R293, R294) -/

/-- A chunk that a stocktake in service has found missing: the same generation goes into a spare, and the map moves at a
bell. -/
def recoverChunk (k chunk : Nat) (d : Dev) : Dev :=
  let x := getPart d k
  let m := x.liveMap.filter fun e => decide (e.1.1 = chunk)
  match m with
  | [] => d
  | e :: _ =>
    if d.net.fetches.any fun f => f.moves && decide (f.part = k) && decide (f.chunk = chunk) then d else
    match takeSpare d (physArr d e.2.1) with
    | none => noSpare (physArr d e.2.1) d
    | some s =>
      let f : Fetch := { part := k, gen := x.live, chunk := chunk, src := firstPeer d, planes := m.map fun q => (q.1.2, s, q.2.2), rx := [], got := false,
                         left := m.map (·.1.2), moves := true }
      { d with net := { d.net with fetches := d.net.fetches ++ [f] } }

/-- A chunk that is not there. -/
def chunkMissing (k chunk : Nat) (side : Bool) (d : Dev) : Dev :=
  let d := modPart k (fun x => if side then { x with sideDone := lremove x.sideDone chunk } else { x with liveDone := lremove x.liveDone chunk }) d
  let d := if k = 16 then raise .st 7 0 0 d else d
  if ! side && steps d.state && decide (k < 16) then recoverChunk k chunk d else d

def chunkPresent (k chunk : Nat) (side : Bool) (d : Dev) : Dev :=
  modPart k (fun x => if side then { x with sideDone := linsert x.sideDone chunk } else { x with liveDone := linsert x.liveDone chunk }) d

/-- The tag of a plane names the chunk's plane (R293). -/
def tagNames (d : Dev) (k gen chunk off : Nat) (tag : List Byte) : Bool :=
  decide (leAt tag 0 4 = crateOf d k) && decide (leAt tag 4 4 = gen) && decide (leAt tag 8 4 = chunk) && decide (leAt tag 12 1 = off)

def hashMatches (tag : List Byte) (rows : List CellRow) : Bool := decide (digestAt tag 64 = planeHash (rows.map compared))

/-- The chunk as its cells hold it: the header of R278 and the images. -/
def chunkOfCells (d : Dev) (nv : NonVol) (k gen : Nat) (c : ChunkDef) (param : Nat) : List Byte :=
  leBytes 4 (crateOf d k) ++ leBytes 4 gen ++ leBytes 4 c.chunk ++ leBytes 1 c.planes ++ leBytes 1 c.format ++ List.replicate 2 (0 : Byte) ++ leBytes 6 param ++ List.replicate 2 (0 : Byte) ++
    leBytes 8 (seedFor d k c.chunk).toNat ++ List.replicate 32 (0 : Byte) ++
    (List.range c.planes).flatMap fun o => match physOf d k gen c.chunk o with
      | some (a, p) => imageBytes ((readPlane nv.cells (getArr d a).remaps [] a p).map compared)
      | none => []

def paramOf (d : Dev) (k chunk : Nat) : Nat :=
  ((chunkMap d).find? fun e => decide (e.chunk = chunk) && (decide (e.part = k) || decide (k = 16))).map (·.param) |>.getD 0

/-- One use of the plane that has been read: its class, and with the chunk's last plane the leaf. -/
def classify (nv : NonVol) (a p : Nat) (rows : Option (List CellRow)) (u : Nat × Nat × Nat × Bool) (d : Dev) : Dev :=
  let k := u.1
  let chunk := u.2.1
  let side := u.2.2.2
  let x := getPart d k
  let gen := if side then x.side else x.live
  let key := k * 131072 + chunk * 2 + b2n side
  let ok := match rows with
    | none => false
    | some rs => let tag := tagBytes rs; tagNames d k gen chunk u.2.2.1 tag && hashMatches tag rs
  let other := match rows with
    | none => false
    | some rs => let tag := tagBytes rs; decide (leAt tag 0 4 ≠ 0) && ! tagNames d k gen chunk u.2.2.1 tag
  let d := if ok then d else { d with stock := { d.stock with bad := (key, 0) :: d.stock.bad,
                                                              foreign := if other then linsert d.stock.foreign (a * 64 + p) else d.stock.foreign } }
  let mine := (if side then x.sideMap else x.liveMap).filter fun e => decide (e.1.1 = chunk)
  let last := mine.all fun e => decide ((physArr d e.2.1, e.2.2) = (a, p)) || ! d.stock.take.contains (physArr d e.2.1, e.2.2)
  if ! last then d
  else if d.stock.bad.any (fun e => decide (e.1 = key)) then chunkMissing k chunk side d
  else
    let leaf := ((chunkDefs d k).find? fun c => decide (c.chunk = chunk)).map fun c => merkleLeaf (chunkOfCells d nv k gen c (paramOf d k chunk))
    if leaf = (if side then x.sideLeaves else x.liveLeaves)[chunkPos d k chunk]? then chunkPresent k chunk side d
    else chunkMissing k chunk side (raise .st 5 (k % 16) 0 (faultRec (arrRec 16 0 14 a d) d))

/-- What the tag tells about its array (R45, R49, R284). -/
def learnTag (nv : NonVol) (a : Nat) (tag : List Byte) (d : Dev) : Dev :=
  modArr a (fun x => { x with tagRead := true, progCount := max x.progCount (arrCount nv a),
                              remaps := x.remaps ++ (tagRemaps tag).filter fun e => ! x.remaps.contains e }) d

/-- An array that stocktake finds retired or unreadable (R49): replaced under R48, by a copy of its planes where they can
still be read. In service an unreadable array's chunks are recovered (R294), and nothing moves before a bell. -/
def takeRetire (readable : Bool) (a : Nat) (d : Dev) : Dev :=
  let d := retireArr a (faultRec (arrRec 16 0 14 a d) d)
  if ! (isStock d a || spareTaken d a) then d
  else if readable then startCopy a 16 d
  else if steps d.state then d
  else replaceNow a d

/-- A stocktake has read a plane, or found that it cannot be read: no further plane of that array is tried. -/
def takeRead (nv : NonVol) (a p : Nat) (rows : Option (List CellRow)) (d : Dev) : Dev :=
  let us := usesOf d a p
  let d := { d with stock := { d.stock with take := d.stock.take.filter fun e => decide (e ≠ (a, p)), foreign := lremove d.stock.foreign (a * 64 + p) } }
  let d := match rows with | some rs => learnTag nv a (tagBytes rs) d | none => d
  let d := us.foldl (fun d u => classify nv a p rows u d) d
  let d := match rows with
    | some rs => if markedRetired (tagBytes rs) && ! (getArr d a).retired then takeRetire true a d else d
    | none =>
      let rest := d.stock.take.filter fun e => decide (e.1 = a)
      let d := rest.foldl (fun d e => (usesOf d e.1 e.2).foldl (fun d u => classify nv e.1 e.2 none u d) d) d
      let d := { d with stock := { d.stock with take := d.stock.take.filter fun e => decide (e.1 ≠ a) } }
      if (getArr d a).retired then d else takeRetire false a d
  takeEnd d

/-! ### Copies (R48, R375) and refreshes (R305) -/

/-- The plane is accepted: its seal entries and its hash. -/
def planeAccepted (rows : List CellRow) : Bool :=
  let tag := tagBytes rows
  sealOk (leAt tag 13 1) (BitVec.ofNat 64 (leAt tag 16 8)) (leAt tag 12 1) rows && hashMatches tag rows

/-- Program the rows read on another place, with the fields of their tag. -/
def copyProg (why : ProgFor) (a p : Nat) (rows : List CellRow) : Prog :=
  let t := tagBytes rows
  { array := a, plane := p, why := why, phase := .erase 0, again := false, crate := leAt t 0 4, gen := leAt t 4 4, chunk := leAt t 8 4, off := leAt t 12 1,
    format := leAt t 13 1, seed := BitVec.ofNat 64 (leAt t 16 8), stamp := leAt t 24 4, rows := rows.map compared, todo := [], count := 0 }

/-- A copy that has nothing left to read, to program or to fetch. -/
def copyReady (d : Dev) (c : Copy) : Bool :=
  c.planes.isEmpty && ! d.stock.take.any (fun e => decide (e.1 = c.array)) && ! d.stock.progs.any (fun q => decide (q.why = .copy c.array)) &&
    ! d.net.fetches.any fun f => f.planes.any (fun p => decide (p.2.1 = c.spare)) && ! f.left.isEmpty

/-- Copies that are complete; before the device serves, their work moves at once (R49). -/
def copiesDone (d : Dev) : Dev :=
  let d := { d with net := { d.net with copies := d.net.copies.map fun c => if copyReady d c then { c with redirect := true } else c } }
  if d.state = .stocking then tryReady (redirectsAtBell d) else d

def copyRead (c : Copy) (p : Nat) (rows : Option (List CellRow)) (d : Dev) : Dev :=
  let d := { d with net := { d.net with copies := d.net.copies.map fun x => if x.array = c.array then { x with planes := lremove x.planes p } else x } }
  match rows with
  | some rs =>
    if planeAccepted rs then addProg (copyProg (.copy c.array) c.spare p rs) d
    else lost d
  | none => lost d
where
  lost (d : Dev) : Dev :=
    match planeFetch d c.array p c.spare with
    | some f => { d with net := { d.net with fetches := d.net.fetches ++ [{ f with left := (f.planes.filter fun q => decide (q.2.2 = p)).map (·.1) }] } }
    | none => d

/-- The refresh that still has to read a plane: its partition and the plane's target. -/
def refreshOf (d : Dev) (a p : Nat) : Option (Nat × Refresh × (Nat × Nat)) :=
  (d.stock.parts.findSome? fun e => match e.2.refresh with
    | some r => if r.left.contains (a, p) then some (e.1, r, aget r.moves (a, p) (a, p)) else none
    | none => none)

def refreshRead (k : Nat) (r : Refresh) (to_ : Nat × Nat) (a p : Nat) (rows : Option (List CellRow)) (d : Dev) : Dev :=
  match rows with
  | some rs =>
    let t := tagBytes rs
    let d := modPart k (fun x => { x with refresh := some { r with left := r.left.filter fun e => decide (e ≠ (a, p)) } }) d
    addProg (copyProg (.refresh k (leAt t 8 4) (leAt t 12 1)) to_.1 to_.2 rs) d
  | none =>
    marginRetire a (dropProgs (isRefreshProg k) (raise .st 1 k 0 (modPart k (fun x => { x with refresh := none }) d)))

/-! ### VERIFY_READ_END -/

def readRows (d : Dev) (nv : NonVol) (a p : Nat) : PlaneRead → Option (List CellRow)
  | .rows wrong => some (readPlane nv.cells (getArr d a).remaps wrong a p)
  | .unreadable => none

def compares (d : Dev) (a p : Nat) : Option Prog := (progAt d a).filter fun q => decide (q.plane = p) && isCompare q.phase

def readEnd (a p : Nat) (r : PlaneRead) (d : Dev) (nv : NonVol) : Dev :=
  if (getArr d a).grant ≠ some .verifyRead ∨ ! convOn d (stallOf a) then d else
  let rows := readRows d nv a p r
  match compares d a p with
  | some q => tryCovers (compareEnd q rows d nv)
  | none =>
    if d.stock.takeRunning && d.stock.take.contains (a, p) then tryCovers (copiesDone (takeRead nv a p rows (endGrant a d)))
    else match d.net.copies.find? (fun c => decide (c.array = a) && c.planes.contains p) with
      | some c => tryCovers (copiesDone (copyRead c p rows (endGrant a d)))
      | none => match refreshOf d a p with
        | some (k, f, t) => refreshRead k f t a p rows (endGrant a d)
        | none => d
where
  tryCovers (d : Dev) : Dev := ((d.net.recoveries.map (·.domain)).eraseDups).foldl (fun d k => tryCover k d) d

def execVerifyReadEnd (array plane : Nat) (r : PlaneRead) (s : State) : R :=
  onNv (fun d nv => let d' := readEnd array plane r d nv; (d', markRetirements d d' nv)) s

def execErasePulseEnd (array : Nat) (s : State) : R :=
  onNv (fun d nv =>
    match activeProg d array isErase with
    | some p => if worn d nv p then (let d' := progFails p d nv; (d', markRetirements d d' nv)) else erasePulse s.mem array d nv
    | none => (d, nv)) s

/-! ### PLANE_HASH_WRITE -/

/-- The chunk of a restock is complete. -/
def restockChunk (k chunk : Nat) (d : Dev) : Dev :=
  match (getPart d k).restock with
  | none => d
  | some r =>
    let x := getPart d k
    let live := decide (r.gen = x.live) || decide (k = 16)
    let d := setPart d k { x with doneCount := if r.done.contains chunk then x.doneCount else x.doneCount + 1,
                                  liveDone := if live then linsert x.liveDone chunk else x.liveDone, sideDone := if live then x.sideDone else linsert x.sideDone chunk }
    chunkOver k r chunk d

def refreshDone (k : Nat) (d : Dev) : Dev :=
  match (getPart d k).refresh with
  | none => d
  | some r =>
    if ! r.left.isEmpty || d.stock.progs.any (isRefreshProg k) then d
    else
      let d := raise .st 0 k 0 (modPart k (fun x => { x with refresh := some { r with complete := true } }) d)
      if d.state = .ready then modPart k (fun x => { x with refresh := none, liveMap := x.liveMap.map fun m => (m.1, aget r.moves m.2 m.2) }) d else d

/-- A plane of a recovery's fetch is programmed. -/
def fetchPlane (a p : Nat) (d : Dev) : Dev :=
  { d with net := { d.net with fetches := d.net.fetches.map fun f =>
      { f with left := f.left.filter fun o => ! f.planes.any fun q => decide (q = (o, a, p)) } } }

/-- Lost planes whose spare is programmed: each by its own recovery. -/
def planesBack (d : Dev) : Dev :=
  let rs := d.net.recoveries.filter fun r => r.array.isSome && r.moves.all fun m =>
    d.net.fetches.all fun f => ! f.planes.any (fun q => decide (q.2.1 = m.2)) || (f.got && f.left.isEmpty)
  rs.foldl (fun d r => planeBack r d) d

/-- The plane was the last of its chunk to be programmed into its array (R68). -/
def chunkHere (d : Dev) (p : Prog) : Bool :=
  let mine := fun (a pl : Nat) => (usesOf d a pl).any fun u => decide (u.2.1 = p.chunk)
  ! d.stock.progs.any (fun q => decide (q.array = p.array) && decide (q.chunk = p.chunk) && decide (q.gen = p.gen)) &&
    ! d.net.fetches.any (fun f => decide (f.chunk = p.chunk) && f.planes.any (fun q => decide (q.2.1 = p.array)) && ! f.left.isEmpty) &&
    (match p.why with
     | .copy src => ! d.net.copies.any fun c => decide (c.array = src) && c.planes.any (mine src)
     | .refresh k _ _ => ! (getPart d k).refresh.any fun r => r.left.any fun q => mine q.1 q.2
     | _ => true)

/-- A plane is complete: what it was programmed for goes on. -/
def planeDone (p : Prog) (d : Dev) : Dev :=
  let d := dropProg p.array p.plane d
  let d := match p.why with | .recovery _ => fetchPlane p.array p.plane d | _ => d
  let d := if isStock d p.array || isShelf p.array || ! chunkHere d p then d else spareServes p.array d
  match p.why with
  | .restock k c _ => if d.stock.progs.any (fun q => isRestockProg k q && decide (q.chunk = c)) then d else restockChunk k c d
  | .copy _ => copiesDone d
  | .recovery _ => planesBack (copiesDone d)
  | .refresh k _ _ => refreshDone k d

/-- Step 5 of R41: the plane hash is in its tag cells. -/
def hashWrite (m : List Host.Cell) (a : Nat) (d : Dev) (nv : NonVol) : Dev × NonVol :=
  match activeProg d a isHash with
  | none => (d, nv)
  | some p =>
    let cells := opEnd p (getArr d a).remaps d.freeIx nv.cells
    let d := opGrant m a (planeDone p d)
    (((d.net.recoveries.map (·.domain)).eraseDups).foldl (fun d k => tryCover k d) d, { nv with cells := cells })

def execPlaneHashWrite (array : Nat) (s : State) : R := onNv (fun d nv => let r := hashWrite s.mem array d nv; (r.1, markRetirements d r.1 r.2)) s

def execRestockHeaderVerified (part : Nat) (header : List Byte) (leaves : List Digest) (sigOk wrapOk : Bool) (s : State) : R :=
  onDev (headerVerified part header leaves sigOk wrapOk) s

end Sys2Proof.Machine
end

