-- ==== Sys2Proof/Machine/Serve.lean ====
section
/-! DEFINITION. Tickets, orders and answers, queries, mask writes and the serving commands (R310-R320, R326, R328,
R332-R337, R345, R348, R359, R361, R366, R368). -/
namespace Sys2Proof.Machine

def modSrv (f : Serving → Serving) (d : Dev) : Dev := { d with srv := f d.srv }

/-- The front role of this device (R310). -/
def isFront (d : Dev) : Bool := (frontPart d).isSome
/-- The instance of this device is a catalogue instance (R355): it takes queries and mask writes, and no orders (log 151). -/
def catFront (d : Dev) : Bool := (frontPart d).any fun p => decide (p.kind = 2)
def frontDom (d : Dev) : Nat := ((frontPart d).map (·.domain)).getD 64

def noServe : ServeCfg :=
  { stages := 1, slots := 0, stageRanks := [], reportRank := 0, kvBytes := 64, tpp := 1, maxContext := 0, kvTokens := 0, prefillDepth := 0, waitCapUs := 0,
    retentionUs := 0, queues := [], layers := 0 }

/-- The instance's constants: the SERVE section's, or those of the TABLE region (R310). -/
def serve (d : Dev) : ServeCfg :=
  match serveCfg d, theDoc d with
  | some c, _ => c
  | none, some p => { noServe with tpp := max 1 p.tableTpp, layers := p.tableLayers }
  | none, none => noServe

/-! ### Answers (R312, R314): decided now, released at the next bell -/

def answer (flow op : Nat) (payload : List Byte) (d : Dev) : Dev := modSrv (fun s => { s with answers := s.answers ++ [{ flow := flow, op := op, payload := payload }] }) d

def ansAccept (flow req h : Nat) (d : Dev) : Dev := answer flow 0x81 (beBytes 4 req ++ beBytes 4 h) d
def ansToken (flow req h n tok st : Nat) (d : Dev) : Dev :=
  answer flow 0x82 (beBytes 4 req ++ beBytes 4 h ++ beBytes 4 n ++ beBytes 4 tok ++ beBytes 1 st) d
def ansEnd (flow req h st reason delivered charged : Nat) (d : Dev) : Dev :=
  answer flow 0x83 (beBytes 4 req ++ beBytes 4 h ++ beBytes 1 st ++ beBytes 1 reason ++ [0, 0] ++ beBytes 4 delivered ++ beBytes 4 charged) d
def ansCancel (flow req h res : Nat) (d : Dev) : Dev := answer flow 0x84 (beBytes 4 req ++ beBytes 4 h ++ beBytes 1 res) d
/-- ANSWER (R366): its records in network byte order. -/
def ansQuery (flow req st reason gen : Nat) (l : List (Int × Nat)) (d : Dev) : Dev :=
  answer flow 0x60 (beBytes 4 req ++ beBytes 1 st ++ beBytes 1 reason ++ beBytes 2 l.length ++ beBytes 4 gen ++ beBytes 4 0 ++
    l.flatMap fun e => beBytes 8 (e.2 % 2 ^ 47) ++ beBytes 4 ((e.1 % 2 ^ 32).toNat) ++ beBytes 4 0) d
def ansMask (flow req st : Nat) (d : Dev) : Dev := answer flow 0x61 (beBytes 4 req ++ beBytes 1 st) d

/-- Release at a bell: an answer to a flow that is gone is dropped, one that its flow cannot take yet waits. -/
def releaseAnswers (d : Dev) : Dev :=
  let l := d.srv.answers
  l.foldl (fun d a =>
    let f := hIndex a.flow
    if flowHandle d f ≠ a.flow ∨ ¬ (getFlow d f).inUse then d
    else if flowReady d f (a.payload.length / 4096 + 1) then sendMsg f 0x0C 0 0 0 (BitVec.ofNat 64 (a.op * 2 ^ 56)) a.payload d
    else modSrv (fun s => { s with answers := s.answers ++ [a] }) d) (modSrv (fun s => { s with answers := [] }) d)

/-! ### Tickets -/

/-- States 2-5. -/
def admitted (x : Ticket) : Bool := decide (x.state = .prefill) || decide (x.state = .decode) || decide (x.state = .preempted) || decide (x.state = .rebuild)
/-- States that hold a lane. -/
def inLane (x : Ticket) : Bool := decide (x.state = .prefill) || decide (x.state = .decode) || decide (x.state = .rebuild)
def liveT (x : Ticket) : Bool := admitted x || decide (x.state = .queued)

def countState (d : Dev) (sel : Ticket → Bool) : Nat := (d.srv.tickets.filter fun e => sel e.2).length

/-- The lowest free index (R315); an order that has passed its checks holds one. -/
def lowestFree (d : Dev) : Nat :=
  let busy := (d.srv.tickets.filter fun e => decide (e.2.state ≠ .free)).map (·.1) ++ d.srv.arrivals
  ((List.range (busy.length + 1)).find? fun i => ! busy.contains i).getD 0

/-- Pages of a ticket of n tokens on a device (R321). -/
def pageNeed (d : Dev) (n : Nat) : Nat :=
  let c := serve d
  1 + c.layers * (1 + (n + c.tpp - 1) / c.tpp) + (if isFront d then 1 + (n + 16383) / 16384 else 0)

/-! ### Predictions (R328) -/

/-- Positions that the prefill queue still has to feed for a ticket. -/
def remaining (x : Ticket) : Nat := (if x.produced = 0 then x.n else x.tokens.length - 1) - x.feed

def prioOf (d : Dev) (q : Nat) : Nat := (((serve d).queues[q]?).map (·.1)).getD 0
def depthOf (d : Dev) (q : Nat) : Nat := (((serve d).queues[q]?).map (·.2)).getD 0

/-- Positions ahead: of the prefill queue, and of the waiting tickets that ahead picks by their queue's priority. -/
def positionsAhead (d : Dev) (ahead : Nat → Bool) : Nat :=
  let sum := fun (l : List Nat) => l.foldl (fun n t => n + remaining (getTicket d t)) 0
  let waits := d.srv.tickets.filter fun e => (decide (e.2.state = .queued) || decide (e.2.state = .preempted)) && ahead (prioOf d e.2.queue)
  sum d.srv.prefill + sum (waits.map (·.1)) + sum (d.srv.rebuildWait.filter fun t => ahead (prioOf d (getTicket d t).queue))

/-- S times the stage-0 slots per step that decode leaves free. -/
def freeSlots (d : Dev) : Nat := (serve d).stages * (serve d).slots - countState d fun t => decide (t.state = .decode)

def basePeriod (d : Dev) : Nat := ((stepEntry d (frontDom d)).map (·.base)).getD 0

/-- A predicted wait of pos positions stays within a number of 125 ns units; with no slot free it is unbounded. -/
def waitWithin (d : Dev) (pos units : Nat) : Bool :=
  let f := freeSlots d
  decide (0 < f) && decide (pos * (serve d).stages * basePeriod d ≤ units * f)

/-- The predicted completion meets a deadline in front time. -/
def meetsDeadline (d : Dev) (pos n maxNew deadline : Nat) : Bool :=
  let f := freeSlots d
  let s := (serve d).stages
  decide (deadline = 0) || (decide (0 < f) && decide (frontTime d * f + (pos + n) * s * basePeriod d + maxNew * s * basePeriod d * f ≤ deadline * f))

/-! ### How a ticket ends (R319, R320, R331, R350, R352) -/

def statusEvent (st t : Nat) (d : Dev) : Dev :=
  match st with
  | 2 => raise .tg 2 t 0 d
  | 3 => raise .tg 1 t 0 d
  | 4 => raise .tg 0 t 0 d
  | 5 | 6 => raise .tg 3 t 0 d
  | _ => d

/-- Counters and flags of a rejection. -/
def countReject (reason t : Nat) (d : Dev) : Dev :=
  let d := raise .tg 0 t 0 (tgCount (16 + reason) 1 d)
  if reason = 8 then raise .tg 7 t 0 d else d

/-- An order refused on arrival: its END alone (R314, R326). -/
def rejectOrder (flow req reason : Nat) (d : Dev) : Dev := ansEnd flow req 0 4 reason 0 0 (countReject reason 0 (tgCount 5 1 d))

def unlist (t : Nat) (s : Serving) : Serving :=
  { s with queues := s.queues.map fun e => (e.1, lremove e.2 t), prefill := lremove s.prefill t, rebuildWait := lremove s.rebuildWait t,
           lanes := s.lanes.filter fun l => decide (l.2 ≠ t), preempts := lremove s.preempts t,
           schedule := s.schedule.filter fun u => ! (decide (u.ticket = t) && decide (u.kind ≠ 3)) }

/-- End a ticket at a bell: its one terminal status, its pages, lane and pins free, its refund and its END. -/
def endTicket (t st reason : Nat) (d : Dev) : Dev :=
  let x := getTicket d t
  if ! liveT x then d else
  let adm := admitted x
  let charged := if adm then x.n + x.produced else 0
  let d := modSrv (unlist t) d
  let d := if adm then unpinEpoch x.epoch (freeTicketPages t d) else d
  let d := modSrv (fun s => { s with refunds := if adm then s.refunds ++ [(x.customer, (((x.reserve - charged) * 8000000 : Nat) : Int))] else s.refunds,
                                     outRecs := if adm then s.outRecs ++ [record 3 (handleOf t x.gen) (beBytes 4 st)] else s.outRecs }) d
  let d := modTicket t (fun y => { y with state := .ended, status := st, reason := reason, lane := none }) d
  let d := tgCount (st + 1) 1 d
  let d := if st = 4 then countReject reason t d else statusEvent st t d
  ansEnd x.flow x.request (handleOf t x.gen) st reason x.produced charged d

/-! ### ORDER (R313, R326, R498) -/

structure OrderIn where
  req : Nat
  customer : Nat
  flags : Nat
  mode : Nat
  stops : Nat
  k : Nat
  temp : Nat
  minp : Nat
  seed : Nat
  adapter : Nat
  maxNew : Nat
  budget : Nat
  n : Nat
  stopIds : List Nat
  prompt : List Nat
  deriving DecidableEq, Repr

def orderOf (b : List Byte) : OrderIn :=
  let n := beAt b 40 4
  { req := beAt b 0 4, customer := beAt b 4 2, flags := beAt b 6 2, mode := beAt b 8 1, stops := beAt b 9 1, k := beAt b 10 2, temp := beAt b 12 4,
    minp := beAt b 16 4, seed := beAt b 20 8, adapter := beAt b 28 4, maxNew := beAt b 32 4, budget := beAt b 36 4, n := n,
    stopIds := (List.range 4).map fun i => beAt b (44 + 4 * i) 4,
    prompt := (List.range (min n ((b.length - 64) / 4))).map fun i => beAt b (64 + 4 * i) 4 }

/-- A finite FP32 value above zero. -/
def finitePos (w : Nat) : Bool := decide (0 < w) && decide (w < 0x7F800000)

def samplingOk (o : OrderIn) : Bool :=
  decide (o.mode < 4) && (decide (o.mode = 0) || finitePos o.temp) && (decide (o.mode ≠ 2) || (decide (1 ≤ o.k) && decide (o.k ≤ 256))) &&
    (decide (o.mode ≠ 3) || (finitePos o.minp && decide (o.minp < 0x3F800000)))

def orderWellFormed (b : List Byte) (o : OrderIn) : Bool :=
  decide (b.length = 64 + 4 * o.n) && decide (1 ≤ o.n) && decide (1 ≤ o.maxNew) && decide (o.stops ≤ 4) && samplingOk o

def getCust (d : Dev) (c : Nat) : Customer := mget d.srv.customers c {}

def queueLen (d : Dev) (q : Nat) : Nat :=
  (mget d.srv.queues q []).length + (d.srv.arrivals.filter fun t => decide ((getTicket d t).queue = q)).length

def deadlineOf (d : Dev) (budget : Nat) : Nat := if budget = 0 then 0 else frontTime d + 8 * budget

/-- The first check of R326 that fails, by its reason. -/
def orderCheck (b : List Byte) (o : OrderIn) (d : Dev) : Option Nat :=
  let c := serve d
  let u := getCust d o.customer
  let tot := o.n + o.maxNew
  let pos := positionsAhead d fun p => decide (prioOf d u.queue ≤ p)
  let checks := [(decide (d.state = .serving), 10), (orderWellFormed b o && u.enable && ! catFront d, 1),
    (decide (o.adapter = 0xFFFFFFFF) || (match mfind d.srv.adapters o.adapter with | some a => a.usable && decide (a.customer = o.customer) | none => false), 2),
    (decide (lowestFree d < 2097152), 3), (decide (tot ≤ c.maxContext), 4), (decide (tot ≤ u.burst), 5), (decide (pageNeed d tot ≤ pageNeed d c.kvTokens), 6),
    (meetsDeadline d pos o.n o.maxNew (deadlineOf d o.budget), 7), (waitWithin d pos (8 * c.waitCapUs), 8), (decide (queueLen d u.queue < depthOf d u.queue), 9)]
  (checks.find? fun e => ! e.1).map (·.2)

def orderTicket (flow : Nat) (o : OrderIn) (d : Dev) (gen : Nat) : Ticket :=
  { gen := nextGen gen, front := true, preemptible := bitOf o.flags 4, cachePfx := bitOf o.flags 1, pubLookup := bitOf o.flags 2, publish := bitOf o.flags 3,
    noQueue := bitOf o.flags 0, customer := o.customer, queue := (getCust d o.customer).queue, request := o.req, flow := flow, seed := BitVec.ofNat 64 o.seed,
    mode := o.mode, stops := o.stops, k := o.k, temp := BitVec.ofNat 32 o.temp, minp := BitVec.ofNat 32 o.minp, adapter := o.adapter, n := o.n,
    maxNew := o.maxNew, deadline := deadlineOf d o.budget, stopIds := o.stopIds, tokens := o.prompt }

/-- An order at the front device. One too short for its head cannot be parsed. -/
def serviceOrder (flow : Nat) (b : List Byte) (d : Dev) : Dev :=
  let d := tgCount 0 1 d
  if b.length < 64 then tgCount 16 1 d else
  let o := orderOf b
  match orderCheck b o d with
  | some r => rejectOrder flow o.req r d
  | none =>
    let t := lowestFree d
    modSrv (fun s => { s with arrivals := s.arrivals ++ [t] }) (setTicket d t (orderTicket flow o d (getTicket d t).gen))

/-! ### CANCEL (R345) -/

def serviceCancel (flow : Nat) (b : List Byte) (d : Dev) : Dev :=
  let req := beAt b 0 4
  let h := beAt b 4 4
  match ticketOf d h with
  | none => ansCancel flow req h 2 d
  | some t =>
    if liveT (getTicket d t) || d.srv.arrivals.contains t then modSrv (fun s => { s with ends := s.ends ++ [(h, req, flow, false)] }) d
    else if (getTicket d t).state = .ended then ansCancel flow req h 1 d
    else ansCancel flow req h 2 d

/-! ### QUERY (R359, R361) -/

def queryElems (b : List Byte) : List Int := (List.range ((b.length - 32) / 2)).map fun i => signed16 (beAt b (32 + 2 * i) 2)

def setOwned (c : CatEntry) (set customer : Nat) : Bool :=
  decide (set = 0) || (decide (set ≤ c.sets) && decide (c.owners[set - 1]? = some customer))

def queryOk (b : List Byte) (c : CatEntry) : Bool :=
  let k := beAt b 10 2
  decide (beAt b 14 2 = c.dims) && decide (b.length = 32 + 2 * c.dims) && (queryElems b).all (fun x => decide (x ≠ -32768)) &&
    decide (1 ≤ k) && decide (k ≤ c.kMax) && setOwned c (beAt b 12 2) (beAt b 4 2)

def rejectQuery (flow req reason : Nat) (d : Dev) : Dev := ansQuery flow req 4 reason 0 [] (countReject reason 0 d)

/-- Queries ahead of one of a priority: those in queues of an equal or higher one. -/
def queriesAhead (d : Dev) (prio : Nat) : Nat := d.srv.catQueues.foldl (fun n e => if prio ≤ prioOf d e.1 then n + e.2.length else n) 0

def serviceQuery (flow : Nat) (b : List Byte) (d : Dev) : Dev :=
  let req := beAt b 0 4
  let u := getCust d (beAt b 4 2)
  let c := if catFront d then catOf d (beAt b 8 1) else none
  let q := mget d.srv.catQueues u.queue []
  let cost := (c.map (·.queryCost)).getD 0
  let checks := [(decide (d.state = .serving), 10), (decide (32 ≤ b.length) && (c.any fun e => queryOk b e) && u.enable, 1), (decide (cost ≤ u.burst), 5),
    (waitWithin d (queriesAhead d (prioOf d u.queue)) (8 * (serve d).waitCapUs), 8), (decide (q.length < depthOf d u.queue), 9)]
  match checks.find? fun e => ! e.1 with
  | some r => rejectQuery flow req r.2 d
  | none =>
    let x : CatQuery := { request := req, customer := beAt b 4 2, flow := flow, part := beAt b 8 1, k := beAt b 10 2, set := beAt b 12 2,
                          deadline := deadlineOf d (beAt b 16 4), noQueue := bitOf (beAt b 6 2) 0, elems := queryElems b, gen := 0, cost := cost }
    modSrv (fun s => { s with catQueues := mset s.catQueues u.queue [] (q ++ [x]) }) d

/-! ### MASK_WRITE (R368) -/

/-- 0 OK, 1 not owner, 2 malformed: a set that some catalogue partition defines. -/
def maskStatus (b : List Byte) (d : Dev) : Nat :=
  let set := beAt b 6 2
  let n := beAt b 16 4
  let cs := (if catFront d then ((theDoc d).map (·.cats)).getD [] else []).filter fun c => decide (1 ≤ set) && decide (set ≤ c.sets)
  if b.length < 20 ∨ beAt b 8 8 % 8 ≠ 0 ∨ n % 8 ≠ 0 ∨ 32505856 < n ∨ b.length ≠ 20 + n / 8 ∨ cs = [] then 2
  else if cs.all fun c => setOwned c set (beAt b 4 2) then 0 else 1

def serviceMask (flow : Nat) (b : List Byte) (d : Dev) : Dev :=
  match maskStatus b d with
  | 0 => modSrv (fun s => { s with masks := s.masks ++ [{ request := beAt b 0 4, flow := flow, set := beAt b 6 2, firstId := beAt b 8 8,
                                                           bits := bitsLsb (b.drop 20), sent := false }] }) d
  | st => ansMask flow (beAt b 0 4) st d

/-- The bytes of a plane's mask that a write touches; bits that it does not name stay. -/
def maskPlane (c : CatEntry) (j : MaskJob) (e : ChunkEntry) (off : Nat) (d : Dev) (m : List Host.Cell) : List Host.Cell :=
  let v := catV c.format
  let first := e.param + off * v
  let base := maskBase d c j.set e.chunk off
  (List.range (v / 8)).foldl (fun m k =>
    let old := memRead m (base + k)
    let bit := fun i : Nat => let id := first + 8 * k + i
      if j.firstId ≤ id then (match j.bits[id - j.firstId]? with | some x => x | none => old.getLsbD i) else old.getLsbD i
    memWrite m (base + k) (BitVec.ofNat 8 ((List.range 8).foldl (fun n i => n + 2 ^ i * b2n (bit i)) 0))) m

/-- A mask write on this device: the ids that it holds. -/
def maskApply (j : MaskJob) (d : Dev) (m : List Host.Cell) : List Host.Cell :=
  match theDoc d with
  | none => m
  | some p =>
    (p.cats.filter fun c => decide (1 ≤ j.set) && decide (j.set ≤ c.sets)).foldl (fun m c =>
      (partAll p c.part).foldl (fun m e => match groupHead d c e.chunk with
        | some (_, _, 0) => (List.range e.planes).foldl (fun m off => maskPlane c j e off d m) m
        | _ => m) m) m

/-! ### Host commands (R348, R414, R415) -/

/-- No domain runs a step: no bell will come, and the change of state is at once. -/
def noBell (d : Dev) : Bool := (runningDoms d).isEmpty

/-- DRAINING starts: every QUEUED ticket and query ends REJECTED 10 (R349). -/
def startDrain (d : Dev) : Dev :=
  let d := enter .draining (modSrv (fun s => { s with drainNext := false }) d)
  let d := d.srv.arrivals.foldl (fun d t => modTicket t (fun x => { x with state := .queued }) d) (modSrv (fun s => { s with arrivals := [] }) d)
  let d := (d.srv.tickets.filter fun e => decide (e.2.state = .queued)).foldl (fun d e => endTicket e.1 4 10 d) d
  let qs := d.srv.catQueues.flatMap (·.2)
  qs.foldl (fun d q => rejectQuery q.flow q.request 10 d) (modSrv (fun s => { s with catQueues := [] }) d)

def execServeDrain (c : Cmd) (s : State) : R :=
  onDev (hostCmd 0x23 c fun d => ok0 (if noBell d then startDrain d else modSrv (fun s => { s with drainNext := true }) d)) s

/-- SERVE_STOP takes effect: the steps in progress end with it. -/
def startStop (d : Dev) : Dev :=
  let d := { d with doms := d.doms.map fun e => (e.1, { e.2 with running := false, readySent := none, readies := [] }) }
  enter .ready (modSrv (fun s => { s with stopNext := false }) d)

def execServeStop (c : Cmd) (s : State) : R :=
  onDev (hostCmd 0x24 c fun d =>
    if 0 < countState d admitted then fail .busy d
    else ok0 (if noBell d then startStop d else modSrv (fun s => { s with stopNext := true }) d)) s

def customerSet (c : Cmd) (d : Dev) : Dev × Verdict :=
  let f := param c.params 10 1
  let q := param c.params 12 2
  if ! bitOf f 4 && decide ((serve d).queues.length ≤ q) then fail .badArg d else
  let x : CustSet := { customer := param c.params 8 2, enable := bitOf f 0, pubRight := bitOf f 1, publishRight := bitOf f 2, setKey := bitOf f 3, publicKey := bitOf f 4,
                       queue := q, q := param c.params 16 4, burst := param c.params 20 4, key := BitVec.ofNat 128 (param c.params 24 16) }
  ok0 (modSrv (fun s => { s with custSets := s.custSets ++ [x] }) d)

def execCustomerSet (c : Cmd) (s : State) : R := onDev (hostCmd 0x40 c (customerSet c)) s

/-- A CUSTOMER_SET takes hold (R348). -/
def applyCustSet (x : CustSet) (d : Dev) : Dev :=
  if x.publicKey then modSrv (fun s => { s with publicKey := x.key }) d else
  modSrv (fun s => { s with customers := mmod s.customers x.customer {} fun y =>
    { y with enable := x.enable, pubRight := x.pubRight, publishRight := x.publishRight, queue := x.queue, q := x.q, burst := x.burst,
             key := if x.setKey then x.key else y.key } }) d

/-- Ranges of the ADAPTER region in use: registered adapters and loads under way. -/
def adapterRanges (d : Dev) : List (Nat × Nat) :=
  ((d.srv.adapters ++ d.srv.adapterSets).filterMap fun e => if e.2.part.isSome then none else some (e.2.offset, e.2.offset + e.2.length)) ++
    d.srv.adLoads.map fun a => (a.offset, a.offset + a.length)

def nextSerial (d : Dev) : Nat := d.srv.adSerial + 1

/-- Register an adapter: it takes hold at the next bell. -/
def registerAdapter (ix : Nat) (a : Adapter) (d : Dev) : Dev :=
  modSrv (fun s => { s with adapterSets := s.adapterSets ++ [(ix, { a with serial := nextSerial d })], adSerial := nextSerial d }) d

/-- A length of 0 names the array adapter of a kind-1 partition: the source is its partition number, no body follows (R337). -/
def adapterLoad (c : Cmd) (d : Dev) : Dev × Verdict :=
  let ix := param c.params 8 4
  let off := param c.params 20 8
  let len := param c.params 28 8
  let src := param c.params 16 4
  let cust := param c.params 12 2
  if 1 < param c.params 14 1 ∨ ix = 0xFFFFFFFF then fail .badArg d
  else if (mfind d.srv.adapters ix).isSome || d.srv.adapterSets.any (fun e => decide (e.1 = ix)) || d.srv.adLoads.any fun a => decide (a.index = ix) then fail .busy d
  else if len = 0 then
    (match partOf d src with
     | some p => if p.kind = 1 then ok0 (registerAdapter ix { customer := cust, rank := 0, offset := 0, length := 0, digest := 0, serial := 0, part := some p.num, usable := true } d)
                 else fail .badArg d
     | none => fail .badArg d)
  else
    let size := match theDoc d with | some p => (regionOf p .adapter).size | none => 0
    if size < off + len ∨ (adapterRanges d).any (fun r => decide (r.1 < off + len) && decide (off < r.2)) then fail .refused d
    else if ! sourceUp d (param c.params 14 1) src then fail .refused d
    else ok0 (modSrv (fun s => { s with adLoads := s.adLoads ++ [{ index := ix, customer := cust, srcKind := param c.params 14 1, src := src, offset := off,
                                                                    length := len, rx := [] }] }) d)

def execAdapterLoad (c : Cmd) (s : State) : R := onDev (hostCmd 0x41 c (adapterLoad c)) s

/-- Live tickets of this device that pin an adapter index, an admission under way among them. -/
def adapterPinned (d : Dev) (ix : Nat) : Bool :=
  d.srv.tickets.any fun e => decide (e.2.adapter = ix) && (admitted e.2 || decide (d.srv.admission.map (·.1) = some e.1))

def adapterRevoke (c : Cmd) (d : Dev) : Dev × Verdict :=
  let ix := param c.params 8 4
  if (mfind d.srv.adapters ix).isNone && ! d.srv.adapterSets.any (fun e => decide (e.1 = ix)) then fail .badArg d
  else if adapterPinned d ix then fail .busy d
  else ok0 (modSrv (fun s => { s with revokes := s.revokes ++ [ix] }) d)

def execAdapterRevoke (c : Cmd) (s : State) : R := onDev (hostCmd 0x42 c (adapterRevoke c)) s

/-- A handle that names a ticket which has not ended. -/
def liveHandle (d : Dev) (h : Nat) : Option Nat := (ticketOf d h).filter fun t => liveT (getTicket d t) || d.srv.arrivals.contains t

def ticketAbort (c : Cmd) (d : Dev) : Dev × Verdict :=
  let h := param c.params 8 4
  match liveHandle d h with
  | none => fail .stale d
  | some _ => ok0 (modSrv (fun s => { s with ends := s.ends ++ [(h, 0, 0, true)] }) d)

def execTicketAbort (c : Cmd) (s : State) : R := onDev (hostCmd 0x43 c (ticketAbort c)) s

def ticketPreempt (c : Cmd) (d : Dev) : Dev × Verdict :=
  match liveHandle d (param c.params 8 4) with
  | none => fail .stale d
  | some t => if inLane (getTicket d t) then ok0 (modSrv (fun s => { s with preempts := linsert s.preempts t }) d) else fail .badArg d

def execTicketPreempt (c : Cmd) (s : State) : R := onDev (hostCmd 0x44 c (ticketPreempt c)) s

def execPrefixFlush (c : Cmd) (s : State) : R :=
  onDev (hostCmd 0x45 c fun d =>
    ok0 (modSrv (fun s => { s with flushes := s.flushes ++ [if bitOf (param c.params 10 1) 0 then none else some (param c.params 8 2)] }) d)) s

def ticketReadCmd (c : Cmd) (d : Dev) : Dev × Verdict :=
  let addr := param c.params 8 8
  if addr % 64 ≠ 0 then fail .badArg d else
  match ticketOf d (param c.params 16 4) with
  | none => fail .stale d
  | some t => (if c.wrOk then emit (.hostWrite addr (ticketBytes d t)) d else d, .now .ok 0)

def execTicketRead (c : Cmd) (s : State) : R := onDev (hostCmd 0x04 c (ticketReadCmd c)) s

/-- R315. -/
def execHandleRetentionEnd (ticket : Nat) (s : State) : R :=
  onDev (fun d =>
    let x := getTicket d ticket
    if x.state = .ended then setTicket d ticket { gen := x.gen } else d) s

end Sys2Proof.Machine
end

