-- ==== Sys2Proof/Machine/Toll.lean ====
section
/-! DEFINITION. The toll gate and the schedule (R321-R327, R332-R335, R341, R342, R344, R361, R497). -/
namespace Sys2Proof.Machine

/-! ### The prefix chain (R332-R335) -/

/-- The 56-octet context of a chain. -/
def pfxCtx (d : Dev) (epoch gm ga tpp adapter : Nat) : List Byte :=
  let ad := (mfind d.srv.adapters adapter).map (·.digest)
  leBytes 8 ((d.plan.plan.map (·.arith.toNat)).getD 0) ++ leBytes 4 gm ++ leBytes 4 ga ++ leBytes 4 epoch ++ leBytes 4 tpp ++ digestBytes (ad.getD 0)

/-- Chain values of the whole 32-token blocks; the count is fuel. -/
def chainFrom (key : BitVec 128) : Nat → W64 → List Nat → List W64
  | 0, _, _ => []
  | n + 1, c, toks =>
    if toks.length < 32 then [] else
    let c' := sipHash key (leBytes 8 c.toNat ++ (toks.take 32).flatMap fun t => leBytes 4 t)
    c' :: chainFrom key n c' (toks.drop 32)

/-- Page hashes of a prompt's whole pages. -/
def pageHashes (key : BitVec 128) (ctx : List Byte) (tpp : Nat) (toks : List Nat) : List W64 :=
  let cs := chainFrom key (toks.length / 32) (sipHash key ctx) toks
  (List.range (toks.length / tpp)).filterMap fun p => cs[(p + 1) * tpp / 32 - 1]?

def tokensOfPage (tpp p : Nat) (toks : List Nat) : List Nat := (toks.drop (p * tpp)).take tpp

/-- The entry that a page of a chain hits (R334). -/
def pfxHit (d : Dev) (x : Ticket) (ctx : List Byte) (hs : List W64) (tpp p : Nat) : Option PfxEntry :=
  match hs[p]? with
  | none => none
  | some h => d.srv.index.find? fun e => decide (e.hash = h) && decide (e.page = p) && (e.isPublic || decide (e.customer = x.customer)) &&
      decide (e.ctx = ctx) && decide (e.pred = if p = 0 then 0 else hs.getD (p - 1) 0) && decide (e.toks = tokensOfPage tpp p x.tokens)

/-- Entries hit from page p on; the count is fuel. -/
def pfxRun (d : Dev) (x : Ticket) (ctx : List Byte) (hs : List W64) (tpp : Nat) : Nat → Nat → List PfxEntry
  | 0, _ => []
  | n + 1, p => match pfxHit d x ctx hs tpp p with | some e => e :: pfxRun d x ctx hs tpp n (p + 1) | none => []

/-- What a ticket pins: model and adapter generations, as gen gives the live one of a partition, and epoch (R295, R337). -/
def pinsOf (d : Dev) (gen : Nat → Nat) (epoch : Nat) (x : Ticket) : Nat × Nat × Nat :=
  (((frontPart d).map fun p => gen p.num).getD 0, (((mfind d.srv.adapters x.adapter).bind (·.part)).map gen).getD 0, epoch)

/-- The epoch in force for admissions (R213): in a machine-wide domain the one that the bell has reported. -/
def epochNow (d : Dev) : Nat := if (domEntry d (frontDom d)).any (·.machine) then (getDom d (frontDom d)).bellEpoch else d.epochs.cur

/-- The pins at the bell, its flips made (R296, R329). -/
def pinsNow (d : Dev) (x : Ticket) : Nat × Nat × Nat := pinsOf d (fun p => (getPart d p).live) (epochNow d) x

/-- The generation that is live once the next bell of the front domain has come, as far as this step shows. -/
def liveNext (d : Dev) (p : Nat) : Nat :=
  let x := getPart d p
  match x.armed with
  | some (gen, 0, at_) => if at_ ≤ (getDom d (frontDom d)).step + 1 ∧ genComplete d p gen then gen else x.live
  | _ => x.live

/-- The pins that the Admit record carries before the bell; where the bell finds others, the admission waits (log 150). -/
def pinsNext (d : Dev) (x : Ticket) : Nat × Nat × Nat :=
  pinsOf d (liveNext d) (if (domEntry d (frontDom d)).any (·.machine) then epochNow d else (d.epochs.next.map (·.1)).getD (epochNow d)) x

/-- The key, chain flag and context of a ticket. -/
def chainKey (d : Dev) (x : Ticket) (pub : Bool) : BitVec 128 := if pub then d.srv.publicKey else (getCust d x.customer).key

/-- The matched pages of a ticket (R334): the customer's chain, or the public one where it is longer. -/
def pfxMatch (d : Dev) (x : Ticket) : List PfxEntry :=
  let tpp := (serve d).tpp
  let ctx := pfxCtx d x.epoch x.genModel x.genAdapt tpp x.adapter
  let run := fun pub => pfxRun d x ctx (pageHashes (chainKey d x pub) ctx tpp x.tokens) tpp ((x.n - 1) / tpp) 0
  let own := run false
  if x.pubLookup && (getCust d x.customer).pubRight then (let p := run true; if own.length < p.length then p else own) else own

/-! ### Whose head is admissible (R327, R341) -/

/-- The toll gate's order: descending priority, round-robin within one after the queue it last admitted from. -/
def queueOrder (d : Dev) : List Nat :=
  let n := (serve d).queues.length
  let rot := (List.range n).map fun k => (d.srv.nextQueue + k) % n
  sortBy (fun a b => decide (prioOf d b ≤ prioOf d a)) rot

def laneFree (d : Dev) : Bool := decide (d.srv.lanes.length < (serve d).stages * (serve d).slots)
def prefillRoom (d : Dev) : Bool := decide (d.srv.prefill.length < (serve d).prefillDepth)

/-- Pages that an admission still has to reserve. -/
def needNow (d : Dev) (x : Ticket) : Nat := pageNeed d (x.n + x.maxNew) - x.kvPages
def pagesFree (d : Dev) (x : Ticket) : Bool := decide (d.dram.reserved + needNow d x ≤ d.dram.free)
def mustFeed (x : Ticket) : Bool := decide (x.state = .queued) || decide (0 < remaining x)
def stoppedFor (d : Dev) (x : Ticket) : Bool :=
  (frontPart d).any (fun p => (getPart d p.num).stopped) || ((mfind d.srv.adapters x.adapter).bind (·.part)).any fun p => (getPart d p).stopped

/-- Everything but a lane and pages; a pre-empted ticket needs neither the purse nor an open partition again (R341). -/
def headOk (d : Dev) (x : Ticket) : Bool :=
  (decide (x.state ≠ .queued) || ! stoppedFor d x && decide (((x.n + x.maxNew) * 8000000 : Nat) ≤ (getCust d x.customer).balance)) && (! mustFeed x || prefillRoom d)

/-- The head of a queue, past those whose deadline can no longer be met. -/
def queueHead (d : Dev) (q : Nat) : List Nat → List Nat × Option Nat
  | [] => ([], none)
  | t :: r =>
    let x := getTicket d t
    let pos := positionsAhead d fun p => decide (prioOf d q < p)
    if x.state = .queued ∧ ¬ meetsDeadline d pos (x.n - x.shared) x.maxNew x.deadline then
      (let s := queueHead d q r; (t :: s.1, s.2))
    else ([], some t)

/-- A pre-emptible ticket in DECODE of a priority below p: the lowest priority, among those the latest admission. -/
def victim (d : Dev) (p : Nat) : Option Nat :=
  let vs := d.srv.tickets.filter fun e => decide (e.2.state = .decode) && e.2.preemptible && decide (prioOf d e.2.queue < p)
  (vs.foldl (fun (b : Option (Nat × Ticket)) e => match b with
    | none => some e
    | some v =>
      let pe := prioOf d e.2.queue
      let pv := prioOf d v.2.queue
      if pe < pv ∨ (pe = pv ∧ v.2.admitted < e.2.admitted) then some e else b) none).map (·.1)

/-- What the toll gate finds: the ticket to admit, the tickets to reject 7, and the priority and ticket of the first head
that lacks only a lane or pages. -/
def tollScan (d : Dev) : List Nat → Option Nat × List Nat × Option (Nat × Nat)
  | [] => (none, [], none)
  | q :: r =>
    let h := queueHead d q (mget d.srv.queues q [])
    match h.2 with
    | none => let s := tollScan d r; (s.1, h.1 ++ s.2.1, s.2.2)
    | some t =>
      let x := getTicket d t
      if headOk d x && laneFree d && pagesFree d x then (some t, h.1, none)
      else
        let s := tollScan d r
        (s.1, h.1 ++ s.2.1, if headOk d x then some (prioOf d q, t) else s.2.2)

/-! ### Pages under pressure (R342) -/

def frontStep (d : Dev) : Nat := (getDom d (frontDom d)).step

def pagesOf (d : Dev) (x : Ticket) : Nat := (x.position + (serve d).tpp - 1) / (serve d).tpp

/-- The one source of a step: the oldest prefix entry not hit for 1,024 steps, else the highest token pages of the ticket
pre-empted first. -/
def pressure (d : Dev) (short : Nat) : Dev :=
  let olds := d.srv.index.filter fun e => decide (e.used + 1024 ≤ frontStep d)
  match olds.foldl (fun (b : Option PfxEntry) e => match b with | none => some e | some o => if e.used < o.used then some e else b) none with
  | some e => modSrv (fun s => { s with pfxDrops := s.pfxDrops ++ [e.hash] }) d
  | none =>
    let ps := d.srv.tickets.filter fun e => decide (e.2.state = .preempted) && decide (0 < pagesOf d e.2)
    match ps.foldl (fun (b : Option (Nat × Ticket)) e => match b with | none => some e | some o => if e.2.preStep < o.2.preStep then some e else b) none with
    | some (t, x) =>
      let l := max 1 (serve d).layers
      modSrv (fun s => { s with evicts := s.evicts ++ [(t, pagesOf d x - max 1 ((short + l - 1) / l))] }) d
    | none => d

/-! ### Records of the schedule (R325) -/

def slotRec (d : Dev) (u : SlotUse) : List Byte :=
  record 1 (if u.kind = 3 then 0 else ticketHandle d u.ticket)
    (beBytes 2 u.stage ++ beBytes 2 u.slot ++ beBytes 4 u.pos ++ beBytes 1 u.kind ++ beBytes 3 0 ++ beBytes 4 u.token)

/-- An Admit in two records, told apart by octet 1: the pins, then the prefix pages. -/
def admitRecs (d : Dev) (t : Nat) (es : List PfxEntry) : List (List Byte) :=
  let x := getTicket d t
  let h := ticketHandle d t
  let part1 := record 2 h (beBytes 8 ((es.getLast?).map (·.hash.toNat) |>.getD 0) ++ beBytes 4 es.length)
  [record 2 h (beBytes 4 x.epoch ++ beBytes 4 x.genModel ++ beBytes 4 x.genAdapt ++ beBytes 4 x.adapter ++
     beBytes 4 (((mfind d.srv.adapters x.adapter).map (·.serial)).getD 0) ++ beBytes 4 (x.n + x.maxNew)), (part1.set 1 1)]

/-- The prefix pages of a ticket that are to be inserted: whole prompt pages not indexed yet, by page and hash, with the
hash before. -/
def insertPages (d : Dev) (x : Ticket) : List (Nat × W64 × W64) :=
  let tpp := (serve d).tpp
  let pub := x.publish && (getCust d x.customer).publishRight
  let hs := pageHashes (chainKey d x pub) (pfxCtx d x.epoch x.genModel x.genAdapt tpp x.adapter) tpp (x.tokens.take x.n)
  (hs.zipIdx.filter fun e => ! d.srv.index.any fun i => decide (i.hash = e.1)).map fun e => (e.2, e.1, if e.2 = 0 then 0 else hs.getD (e.2 - 1) 0)

def insertRecs (d : Dev) (t : Nat) : List (List Byte) :=
  (insertPages d (getTicket d t)).map fun p => record 6 (ticketHandle d t) (beBytes 8 p.2.1.toNat ++ beBytes 4 p.1 ++ beBytes 8 p.2.2.toNat)

/-- A query, and a mask write, on the way to the other devices (log 33). -/
def queryMsg (slot : Nat) (q : CatQuery) : List Byte :=
  [11, 0] ++ beBytes 2 slot ++ beBytes 4 q.gen ++ beBytes 4 q.request ++ beBytes 2 q.customer ++ beBytes 2 (b2n q.noQueue) ++ beBytes 1 q.part ++ beBytes 1 0 ++
    beBytes 2 q.k ++ beBytes 2 q.set ++ beBytes 2 q.elems.length ++ beBytes 4 0 ++ beBytes 12 0 ++ q.elems.flatMap fun x => beBytes 2 (s16 x)

def bitBytes : Nat → List Bool → List Byte
  | 0, _ => []
  | n + 1, l => BitVec.ofNat 8 ((l.take 8).zipIdx.foldl (fun v e => v + 2 ^ e.2 * b2n e.1) 0) :: bitBytes n (l.drop 8)

/-- A mask write in carts of at most 32,640 bits, each with its own head; the count is fuel. -/
def maskMsgs (set : Nat) : Nat → Nat → List Bool → List (List Byte)
  | 0, _, _ => []
  | n + 1, first, l =>
    let l0 := l.take 32640
    ([10, 0] ++ beBytes 2 set ++ beBytes 4 l0.length ++ beBytes 8 first ++ bitBytes (l0.length / 8) l0) ::
      (if l.length ≤ 32640 then [] else maskMsgs set n (first + 32640) (l.drop 32640))

def maskCarts (j : MaskJob) : List (List Byte) := maskMsgs j.set (j.bits.length / 32640 + 1) j.firstId j.bits

/-- Messages of the schedule's kind that are not made of 32-octet records. -/
def sendPlain (step : Nat) (b : List Byte) (d : Dev) : Dev := (scheduleFlows d).foldl (fun d f => sendData f 1 6 0xFFFF step b d) d

/-! ### The slots of the next step (R321, R322, R324) -/

/-- The token of a ticket that the step in progress has sampled. -/
def freshToken (d : Dev) (t : Nat) : Option Nat :=
  match d.srv.schedule.find? fun u => decide (u.ticket = t) && decide (u.kind ≠ 3) && decide (u.stage + 1 = (serve d).stages) && decide (u.pos + 1 = (getTicket d t).tokens.length) with
  | none => none
  | some u => (d.srv.sampled.find? fun r => decide (r.1 = t) && decide (r.2.1 = u.pos)).map (·.2.2)

def stopsAt (x : Ticket) (tok : Nat) : Bool := (x.stopIds.take x.stops).contains tok || decide (x.maxNew ≤ x.produced + 1)

/-- The token history with the token of this step; none where that token ends the ticket. -/
def feedTokens (d : Dev) (t : Nat) : List Nat :=
  let x := getTicket d t
  match freshToken d t with
  | some tok => if stopsAt x tok then [] else x.tokens ++ [tok]
  | none => x.tokens

/-- A ticket that is in DECODE in the next step. -/
def decodes (d : Dev) (t : Nat) : Bool :=
  let x := getTicket d t
  decide (x.state = .decode) || ((decide (x.state = .prefill) || decide (x.state = .rebuild)) && d.srv.prefill.contains t && decide (remaining x = 0))

/-- Tickets of the prefill queue in the next step, the admission of this one last. -/
def prefillNext (d : Dev) : List Nat :=
  d.srv.prefill ++ (match d.srv.admission with
    | some (t, _) => if mustFeed (getTicket d t) then [t] else []
    | none => [])

def slotKind (x : Ticket) (pos : Nat) : Nat := if x.state = .preempted ∨ x.state = .rebuild then (if x.produced = 0 ∧ pos + 1 = x.n then 1 else 2) else 1

/-- Fill stage-0 slot k of step s. -/
def fillSlot (s : Nat) (ps : List Nat) (k : Nat) (d : Dev) : Dev :=
  let put := fun (t kind tok : Nat) (d : Dev) =>
    let p := (getTicket d t).feed
    modTicket t (fun x => { x with feed := p + 1 })
      (modSrv (fun v => { v with nextSchedule := v.nextSchedule ++ [{ stage := 0, slot := k, ticket := t, pos := p, kind := kind, token := tok }] }) d)
  let lane := d.srv.lanes.find? fun l => decide (l.1 = (s % max 1 (serve d).stages, k))
  let own := lane.bind fun l =>
    let x := getTicket d l.2
    match decodes d l.2, (feedTokens d l.2)[x.feed]? with
    | true, some tok => some (l.2, tok)
    | _, _ => none
  match own with
  | some (t, tok) => put t 0 tok d
  | none => match ps.find? (fun t => decide (0 < remaining (getTicket d t))) with
    | some t => put t (slotKind (getTicket d t) (getTicket d t).feed) ((getTicket d t).tokens.getD (getTicket d t).feed 0) d
    | none => d

/-- Slots that go on to their next stage. -/
def shifted (d : Dev) : List SlotUse :=
  (d.srv.schedule.filter fun u => decide (u.kind ≠ 3) && decide (u.stage + 1 < (serve d).stages)).map fun u => { u with stage := u.stage + 1 }

/-! ### Catalogue admissions (R361) -/

/-- Take heads of the catalogue queues while slots are left: descending priority, in turn within one (R327); the count is fuel. -/
def catTake : Nat → List Nat → Dev → List CatQuery → List CatQuery × Dev
  | 0, _, d, got => (got, d)
  | n + 1, qs, d, got =>
    if (serve d).slots ≤ got.length then (got, d) else
    match qs with
    | [] => (got, d)
    | q :: r =>
      match mget d.srv.catQueues q [] with
      | [] => catTake n r d got
      | x :: rest =>
        let spent : Nat := (got.filter fun g => decide (g.customer = x.customer)).foldl (fun n g => n + g.cost * 8000000) 0
        if (getPart d x.part).stopped || decide ((getCust d x.customer).balance < ((spent + x.cost * 8000000 : Nat) : Int)) then catTake n r d got
        else
          let d := modSrv (fun s => { s with catQueues := mset s.catQueues q [] rest, nextQueue := q + 1 }) d
          catTake n (r.takeWhile (fun o => decide (prioOf d o = prioOf d q)) ++ [q] ++ r.dropWhile (fun o => decide (prioOf d o = prioOf d q))) d (got ++ [{ x with gen := liveNext d x.part }])

def catSchedule (d : Dev) : Dev :=
  let total := d.srv.catQueues.foldl (fun n e => n + e.2.length) 0
  let r := catTake (total * ((serve d).queues.length + 1) + (serve d).queues.length + 1) (queueOrder d) d []
  let uses := r.1.zipIdx.map fun e => ({ stage := 0, slot := e.2, ticket := e.2, pos := 0, kind := 3, token := 0 } : SlotUse)
  let d := modSrv (fun s => { s with catAdmits := r.1, nextSchedule := s.nextSchedule ++ uses }) r.2
  let late := d.srv.catQueues.flatMap fun e => e.2.filter (·.noQueue)
  let d := modSrv (fun s => { s with catQueues := s.catQueues.foldl (fun m e => mset m e.1 [] (e.2.filter fun q => ! q.noQueue)) [] }) d
  late.foldl (fun d q => rejectQuery q.flow q.request 9 d) d

/-! ### SCHEDULE_SEND -/

/-- Every sampling slot of the last stage has its record: a token, or a mask. -/
def recordsIn (d : Dev) : Bool :=
  d.srv.schedule.all fun u =>
    decide (u.kind = 3) || decide (u.kind = 2) || decide (u.stage + 1 ≠ (serve d).stages) || decide (u.pos + 1 ≠ (getTicket d u.ticket).tokens.length) ||
      d.srv.sampled.any (fun r => decide (r.1 = u.ticket) && decide (r.2.1 = u.pos)) || d.srv.maskRecs.any fun r => decide (r.1 = u.ticket) && decide (r.2.1 = u.pos)

/-- The toll gate's decisions of this step. -/
def tollGate (d : Dev) : Dev :=
  let s := tollScan d (queueOrder d)
  let d := modSrv (fun v => { v with rejects := v.rejects ++ s.2.1.map fun t => (t, 7), admission := none }) d
  let d := match s.2.2 with
    | some (p, t) =>
      let x := getTicket d t
      let d := if d.srv.preempts.isEmpty then (match victim d p with | some v => modSrv (fun s => { s with preempts := [v] }) d | none => d) else d
      if pagesFree d x then d else pressure d (needNow d x + d.dram.reserved - d.dram.free)
    | none => d
  let d := match s.1 with
    | some t =>
      let x := getTicket d t
      if x.state = .queued then
        let q := pinsNext d x
        let x := { x with genModel := q.1, genAdapt := q.2.1, epoch := q.2.2 }
        let es := pfxMatch d x
        modSrv (fun v => { v with admission := some (t, es.length), nextQueue := x.queue + 1 }) (setTicket d t { x with feed := es.length * (serve d).tpp })
      else modSrv (fun v => { v with admission := some (t, 0), nextQueue := x.queue + 1 }) d
    | none => d
  let late := d.srv.tickets.filter fun e => decide (e.2.state = .queued) && e.2.noQueue && decide (d.srv.admission.map (·.1) ≠ some e.1) && ! d.srv.rejects.any fun r => decide (r.1 = e.1)
  modSrv (fun v => { v with rejects := v.rejects ++ late.map fun e => (e.1, 9) }) d

/-- Tickets whose prompt is wholly in the pages of every stage, to be put into the index. -/
def toInsert (d : Dev) : List Nat :=
  (d.srv.tickets.filter fun e => inLane e.2 && e.2.cachePfx && ! e.2.pfxDone && decide (e.2.n ≤ e.2.position)).map (·.1)

/-- The entries that the flushes ordered so far name (R348). -/
def flushed (d : Dev) : List PfxEntry :=
  d.srv.index.filter fun e => d.srv.flushes.any fun f => match f with | none => true | some c => ! e.isPublic && decide (e.customer = c)

/-- Flushes ordered before the schedule goes out travel in it as drops (R335). -/
def flushDrops (d : Dev) : Dev := modSrv (fun s => { s with pfxDrops := s.pfxDrops ++ (flushed d).map (·.hash), flushes := [] }) d

/-- What the toll gate has decided, as records for the other devices. -/
def tollRecs (d : Dev) : List (List Byte) :=
  let adm := match d.srv.admission with
    | some (t, _) => if (getTicket d t).state = .queued then admitRecs d t (pfxMatch d (getTicket d t)) else [record 2 (ticketHandle d t) []]
    | none => []
  adm ++ d.srv.evicts.map (fun e => record 5 (ticketHandle d e.1) (beBytes 4 e.2 ++ beBytes 4 (pagesOf d (getTicket d e.1) - 1))) ++
    d.srv.inserts.flatMap (insertRecs d) ++ d.srv.pfxDrops.map fun h => record 7 0 (beBytes 8 h.toNat)

def fillSchedule (s : Nat) (d : Dev) : Dev :=
  let d := modSrv (fun v => { v with nextSchedule := shifted d }) d
  let ps := prefillNext d
  (List.range (serve d).slots).foldl (fun d k => fillSlot s ps k d) d

/-- A mask write goes out in the schedule once the flows can take it whole; it takes effect at the next bell (R368). -/
def sendMask (step ix : Nat) (j : MaskJob) (d : Dev) : Dev :=
  let cs := maskCarts j
  if j.sent || ! flowsReady d cs.length then d
  else modSrv (fun v => { v with masks := v.masks.modify ix fun j => { j with sent := true } }) (cs.foldl (fun d b => sendPlain step b d) d)

/-- The schedule of the step after step s: of catalogue queries, or of tickets, as the toll gate decides. -/
def scheduleNext (s : Nat) (d : Dev) : Dev :=
  if catFront d then catSchedule (modSrv (fun v => { v with nextSchedule := [] }) d)
  else
    let d := tollGate (flushDrops d)
    fillSchedule (s + 1) (modSrv (fun v => { v with inserts := toInsert d }) d)

/-- The records and the queries that go out with it, and the frames that they take on a flow. -/
def scheduleRecs (d : Dev) : List (List Byte) := d.srv.outRecs ++ tollRecs d ++ d.srv.nextSchedule.map (slotRec d)
def scheduleQueries (d : Dev) : List (List Byte) := d.srv.catAdmits.zipIdx.map fun e => queryMsg e.2 e.1
def scheduleFrames (d : Dev) : Nat := (scheduleRecs d).length / 128 + 1 + ((scheduleQueries d).map fun b => b.length / 4096 + 1).sum

/-- The front device has everything that the schedule of the next step needs. -/
def scheduleDue (d : Dev) (k : Nat) : Bool :=
  let x := getDom d k
  isFront d && decide (frontDom d = k) && x.running && ! x.halted && ! x.done && ! d.srv.schedSent && recordsIn d

/-- The schedule goes out once the flows take it whole (R325). -/
def scheduleSend (k : Nat) (d : Dev) : Dev :=
  let x := getDom d k
  let d' := scheduleNext x.step d
  if ! scheduleDue d k || ! flowsReady d' (scheduleFrames d') then d else
  let d := (scheduleQueries d').foldl (fun d b => sendPlain x.step b d) (sendRecords x.step (scheduleRecs d') d')
  let d := d.srv.masks.zipIdx.foldl (fun d j => sendMask x.step j.2 j.1 d) d
  let d := modDom k (fun y => { y with workTick := d.tick }) d
  modSrv (fun v => { v with outRecs := [], schedSent := true }) d

def execScheduleSend (domain : Nat) (s : State) : R := onDev (scheduleSend domain) s

end Sys2Proof.Machine
end

