-- ==== Sys2Proof/Machine/FrontBell.lean ====
section
/-! DEFINITION. What serving does at a bell (R314, R318, R321, R324, R325, R329-R331, R335, R340-R347, R349, R351-R354, R361,
R365-R369, R497). -/
namespace Sys2Proof.Machine

/-! ### Orders become QUEUED; cancels and aborts; deadlines; completions -/

def queueArrivals (d : Dev) : Dev :=
  d.srv.arrivals.foldl (fun d t =>
    let x := getTicket d t
    let d := modTicket t (fun x => { x with state := .queued }) d
    ansAccept x.flow x.request (ticketHandle d t) (modSrv (fun s => { s with queues := mset s.queues x.queue [] (mget s.queues x.queue [] ++ [t]) }) d))
    (modSrv (fun s => { s with arrivals := [] }) d)

/-- Cancels and aborts in order of arrival (R345, R347). -/
def takeEnds (d : Dev) : Dev :=
  d.srv.ends.foldl (fun d e =>
    let h := e.1
    match ticketOf d h with
    | none => if e.2.2.2 then d else ansCancel e.2.2.1 e.2.1 h 2 d
    | some t =>
      if liveT (getTicket d t) then
        (let d := endTicket t (if e.2.2.2 then 7 else 2) 0 d; if e.2.2.2 then d else ansCancel e.2.2.1 e.2.1 h 0 d)
      else if e.2.2.2 then d else ansCancel e.2.2.1 e.2.1 h (if (getTicket d t).status = 2 then 0 else 1) d)
    (modSrv (fun s => { s with ends := [] }) d)

/-- A mask of this step at or before a position of a ticket (R497). -/
def maskedBy (d : Dev) (t pos : Nat) : Bool := d.srv.maskRecs.any fun r => decide (r.1 = t) && decide (r.2.1 ≤ pos)

/-- The token that the ending step has sampled for a slot of its last stage. -/
def slotToken (d : Dev) (u : SlotUse) : Option (Nat × Nat) :=
  if u.kind = 3 ∨ u.kind = 2 ∨ u.stage + 1 ≠ (serve d).stages ∨ u.pos + 1 ≠ (getTicket d u.ticket).tokens.length ∨ maskedBy d u.ticket u.pos then none
  else (d.srv.sampled.find? fun r => decide (r.1 = u.ticket) && decide (r.2.1 = u.pos)).map fun r => (u.ticket, r.2.2)

/-- Commit a token: it is the ticket's next, and its TOKEN answer waits for the release. -/
def commitToken (t tok st : Nat) (d : Dev) : Dev :=
  let x := getTicket d t
  ansToken x.flow x.request (ticketHandle d t) (x.produced + 1) tok st (setTicket d t { x with produced := x.produced + 1, tokens := x.tokens ++ [tok] })

/-- Positions that have passed the last stage (R316, R340). -/
def commitPositions (prev : List SlotUse) (last : Nat) (d : Dev) : Dev :=
  prev.foldl (fun d u =>
    if u.kind = 3 ∨ u.stage ≠ last ∨ maskedBy d u.ticket u.pos ∨ ¬ inLane (getTicket d u.ticket) then d
    else modTicket u.ticket (fun x => { x with position := max x.position (u.pos + 1), masks := 0 }) d) d

def deadlines (toks : List (Nat × Nat)) (d : Dev) : Dev :=
  let now := frontTime d
  let late := d.srv.tickets.filter fun e => liveT e.2 && decide (e.2.deadline ≠ 0) && decide (e.2.deadline ≤ now)
  let d := late.foldl (fun d e =>
    if admitted e.2 then
      (match toks.find? (fun k => decide (k.1 = e.1)) with
       | some k => endTicket e.1 3 0 (commitToken e.1 k.2 3 d)
       | none => endTicket e.1 3 0 d)
    else endTicket e.1 4 7 d) d
  d.srv.rejects.foldl (fun d r => if (getTicket d r.1).state = .queued then endTicket r.1 4 r.2 d else d) (modSrv (fun s => { s with rejects := [] }) d)

def completions (toks : List (Nat × Nat)) (d : Dev) : Dev :=
  toks.foldl (fun d k =>
    let x := getTicket d k.1
    if ! inLane x then d else
    let d' := commitToken k.1 k.2 0 d
    if stopsAt x k.2 then endTicket k.1 1 0 d' else d') d

/-! ### Masks, faults, pre-emptions (R340-R344, R497) -/

def dropSlots (t pos : Nat) (d : Dev) : Dev :=
  modSrv (fun s => { s with schedule := s.schedule.filter fun u => ! (decide (u.kind ≠ 3) && decide (u.ticket = t) && decide (pos ≤ u.pos)) }) d

/-- Join the prefill queue, or wait outside it (R343). -/
def joinPrefill (t : Nat) (d : Dev) : Dev :=
  if d.srv.prefill.contains t then d
  else if prefillRoom d then modSrv (fun s => { s with prefill := s.prefill ++ [t], rebuildWait := lremove s.rebuildWait t }) d
  else modSrv (fun s => { s with rebuildWait := linsert s.rebuildWait t }) d

/-- The first token page whose entry is evicted in this device's own maps; the record does not name one. -/
def firstEvicted (d : Dev) (t : Nat) : Nat :=
  let es := d.dram.maps.filter fun e => decide (e.1 / 8192 / 8192 = t) && decide (e.1 / 8192 % 8192 ≠ 8191) && e.2.evicted
  match es with | [] => 0 | e :: r => r.foldl (fun n x => min n (x.1 % 8192)) (e.1 % 8192)

def evictPages (t page : Nat) (d : Dev) : Dev :=
  let tpp := (serve d).tpp
  let d := evictFrom t page (dropSlots t 0 d)
  modTicket t (fun x => { x with position := min x.position (page * tpp), rebuildFrom := min x.position (page * tpp), feed := min x.position (page * tpp),
                                 shared := min x.shared (page * tpp), evicted := true }) d

/-- The entries that a ticket's shared pages came from: the chain of an absent group is dropped on every device (R335). -/
def dropShared (t : Nat) (d : Dev) : Dev :=
  let hs := (pfxMatch d (getTicket d t)).map (·.hash)
  modSrv (fun s => { s with pfxDrops := s.pfxDrops ++ hs }) d

def applyMask (t pos cause : Nat) (d : Dev) : Dev :=
  let x := getTicket d t
  if ! inLane x then d else
  let d := modTicket t (fun x => { x with masks := x.masks + 1 }) d
  if 4 ≤ x.masks + 1 then endTicket t 5 cause d
  else if cause = 2 ∨ cause = 5 then
    let d := modTicket t (fun x => { x with feed := min x.feed pos }) (dropSlots t pos d)
    if cause ≠ 5 then d
    else if 1 ≤ x.refusals then modSrv (fun s => { s with preempts := linsert s.preempts t }) (modTicket t (fun x => { x with refusals := 0 }) d)
    else modTicket t (fun x => { x with refusals := 1 }) d
  else
    let d := if cause = 4 then dropShared t d else d
    let page := min (firstEvicted d t) (pos / (serve d).tpp)
    let was := x.kvPages
    let d := modSrv (fun s => { s with outRecs := s.outRecs ++ [record 5 (ticketHandle d t) (beBytes 4 page ++ beBytes 4 (pagesOf d x - 1))] }) d
    let d := evictPages t page d
    let d := (reserveFor t (was - (getTicket d t).kvPages) d).getD d
    joinPrefill t (modTicket t (fun x => { x with state := .rebuild }) d)

/-- The masks of the step, the earliest position of each ticket first; a later position of the same ticket is discarded with
it. -/
def masks (d : Dev) : Dev :=
  let rs := d.srv.maskRecs
  let d := rs.foldl (fun d r => raise .tg 6 r.1 0 d) d
  let firsts := rs.filter fun r => ! rs.any fun q => decide (q.1 = r.1) && decide (q.2.1 < r.2.1)
  ((firsts.foldl (fun l r => if l.any fun q : Nat × Nat × Nat => decide (q.1 = r.1) then l else l ++ [r]) [])).foldl (fun d r => applyMask r.1 r.2.1 r.2.2 d) d

/-- Pre-empt a ticket (R341). -/
def preempt (t : Nat) (d : Dev) : Dev :=
  let x := getTicket d t
  if ! inLane x then d else
  let d := modSrv (unlist t) d
  let d := modSrv (fun s => { s with queues := mset s.queues x.queue [] (t :: mget s.queues x.queue []), outRecs := s.outRecs ++ [record 4 (ticketHandle d t) []] }) d
  let d := modTicket t (fun x => { x with state := .preempted, lane := none, feed := x.position, preStep := frontStep d }) d
  raise .tg 4 t 0 (tgCount 9 1 (abortTransfers t (releaseReserve t d)))

def preemptHead (d : Dev) : Dev :=
  match d.srv.preempts with
  | [] => d
  | t :: r => preempt t (modSrv (fun s => { s with preempts := r }) d)

/-- Tickets whose last position has been fed leave the prefill queue for DECODE (R318, R343). -/
def leavePrefill (d : Dev) : Dev :=
  let done := d.srv.prefill.filter fun t => decide (remaining (getTicket d t) = 0) &&
    ! d.srv.schedule.any fun u => decide (u.stage = 0) && decide (u.ticket = t) && (decide (u.kind = 1) || decide (u.kind = 2))
  done.foldl (fun d t => modTicket t (fun x => { x with state := .decode }) (modSrv (fun s => { s with prefill := lremove s.prefill t }) d)) d

/-- Tickets in REBUILD outside the queue join it while it has room (R343). -/
def joinWaiting (d : Dev) : Dev := d.srv.rebuildWait.foldl (fun d t => joinPrefill t d) d

/-- R324: the binding moves to the lane that the last prompt position enters. -/
def rebind (s : Nat) (d : Dev) : Dev :=
  (d.srv.schedule.filter fun u => decide (u.stage = 0) && decide (u.kind = 1) && decide (u.pos + 1 = (getTicket d u.ticket).n)).foldl (fun d u =>
    let l := (s % max 1 (serve d).stages, u.slot)
    if d.srv.lanes.any fun x => decide (x.1 = l) then d
    else modTicket u.ticket (fun x => { x with lane := some l })
      (modSrv (fun v => { v with lanes := (v.lanes.filter fun x => decide (x.2 ≠ u.ticket)) ++ [(l, u.ticket)] }) d)) d

/-! ### Admissions (R329, R334, R341) -/

def freeLane (d : Dev) : Option (Nat × Nat) :=
  ((List.range (serve d).stages).flatMap fun c => (List.range (serve d).slots).map fun k => (c, k)).find? fun l => ! d.srv.lanes.any fun x => decide (x.1 = l)

/-- Map the pages of matched entries, and mark their use. -/
def shareAll (t : Nat) (es : List PfxEntry) (d : Dev) : Dev :=
  let s := frontStep d
  let d := (es.zipIdx).foldl (fun d e => (e.1.ppns.zipIdx).foldl (fun d p => (sharePage (mapKey t p.2 e.2) p.1 d).getD d) d) d
  modSrv (fun v => { v with index := v.index.map fun i => if es.contains i then { i with used := s } else i }) d

def undoAdmission (t : Nat) (d : Dev) : Dev :=
  let h := ticketHandle d t
  modTicket t (fun x => { x with feed := if x.state = .queued then 0 else x.position })
    (modSrv (fun s => { s with outRecs := s.outRecs ++ [record 3 h (beBytes 4 0)] }) (dropSlots t 0 d))

def bindLane (t : Nat) (l : Nat × Nat) (d : Dev) : Dev :=
  modTicket t (fun x => { x with lane := some l }) (modSrv (fun s => { s with lanes := s.lanes ++ [(l, t)], queues := s.queues.map fun e => (e.1, lremove e.2 t) }) d)

def admitNew (t : Nat) (l : Nat × Nat) (s : Nat) (d : Dev) : Dev :=
  let x := getTicket d t
  let es := pfxMatch d x
  let fed := match d.srv.admission with | some (_, n) => n | none => 0
  let sh := es.length * (serve d).tpp
  let d := if es.length < fed then modTicket t (fun x => { x with feed := sh }) (dropSlots t 0 d) else d
  let es := es.take fed
  let sh := min sh (fed * (serve d).tpp)
  let d := shareAll t es d
  let d := modTicket t (fun y => { y with state := .prefill, admitted := s, reserve := x.n + x.maxNew, shared := sh, position := sh,
                                          serial := ((mfind d.srv.adapters x.adapter).map (·.serial)).getD 0 }) d
  let d := modSrv (fun v => { v with prefill := v.prefill ++ [t], refunds := v.refunds ++ [(x.customer, -(((x.n + x.maxNew) * 8000000 : Nat) : Int))] }) d
  tgCount 1 1 (bindLane t l (pinEpoch x.epoch d))

def admitAgain (t : Nat) (l : Nat × Nat) (d : Dev) : Dev :=
  let x := getTicket d t
  let d := bindLane t l d
  if 0 < remaining { x with feed := x.position } then joinPrefill t (modTicket t (fun x => { x with state := .rebuild, rebuildFrom := x.position }) d)
  else modTicket t (fun x => { x with state := .decode }) d

def admissions (s : Nat) (d : Dev) : Dev :=
  match d.srv.admission with
  | none => d
  | some (t, _) =>
    let x := getTicket d t
    let d' := if x.state ≠ .queued ∧ x.state ≠ .preempted ∨ x.state = .queued ∧ pinsNow d x ≠ (x.genModel, x.genAdapt, x.epoch) then undoAdmission t d
      else match freeLane d, (if ! mustFeed x || prefillRoom d then reserveFor t (needNow d x) d else none) with
        | some l, some d => if x.state = .queued then admitNew t l s d else admitAgain t l d
        | _, _ => undoAdmission t d
    modSrv (fun v => { v with admission := none }) d'

/-! ### Purses (R330) -/

def purses (delta : Nat) (d : Dev) : Dev :=
  let r := d.srv.refunds
  modSrv (fun s => { s with refunds := [], customers := s.customers.foldl (fun m e =>
    let c := e.2
    let b := min (c.balance + ((c.q * delta : Nat) : Int)) ((c.burst * 8000000 : Nat) : Int)
    mset m e.1 {} { c with balance := (r.filter fun x => decide (x.1 = e.1)).foldl (fun n x => n + x.2) b }) [] }) d

/-! ### The prefix index at a bell (R335) -/

/-- Put one page into the index; a full set drops the entry used longest ago. -/
def insertPfx (e : PfxEntry) (d : Dev) : Dev :=
  let set := pfxSet d (e.hash.toNat % 2 ^ 20)
  let d := if set.length < 8 then d else
    match set.foldl (fun (b : Option PfxEntry) x => match b with | none => some x | some o => if x.used < o.used then some x else b) none with
    | some o => dropPfx (fun x => decide (x = o)) d
    | none => d
  let d := modFrame e.group (fun f => { f with indexed := true, structural := true }) d
  let d := e.ppns.foldl (fun d p => modFrame p (fun f => { f with indexed := true }) d) d
  modSrv (fun s => { s with index := s.index ++ [e] }) d

/-- A page of a ticket goes into the index: its layers' pages, and a group page from the pool. -/
def insertPage (t : Nat) (p : Nat) (h pred : W64) (pub : Bool) (d : Dev) : Dev :=
  let x := getTicket d t
  let ms := (List.range (serve d).layers).map fun l => getMap d (mapKey t l p)
  if ms.any (fun m => ! m.valid) || d.srv.index.any (fun e => decide (e.hash = h)) || decide (d.dram.free ≤ d.dram.reserved) then d else
  match popFree d with
  | none => d
  | some (g, d) =>
    insertPfx { hash := h, page := p, customer := if pub then 0 else x.customer, isPublic := pub, used := frontStep d, group := g,
                ctx := pfxCtx d x.epoch x.genModel x.genAdapt (serve d).tpp x.adapter, pred := pred,
                toks := tokensOfPage (serve d).tpp p x.tokens, ppns := ms.map (·.ppn) } (judgePool d)

def insertsAtBell (d : Dev) : Dev :=
  d.srv.inserts.foldl (fun d t =>
    let x := getTicket d t
    if ! inLane x then d else
    let pub := x.publish && (getCust d x.customer).publishRight
    modTicket t (fun x => { x with pfxDone := true }) ((insertPages d x).foldl (fun d p => insertPage t p.1 p.2.1 p.2.2 pub d) d))
    (modSrv (fun s => { s with inserts := [] }) d)

/-- The first n drops ordered, which the schedule has announced, and the flushes that came after it; drops ordered at this bell
wait for the next one (R335). -/
def dropsAtBell (n : Nat) (d : Dev) : Dev :=
  let hs := d.srv.pfxDrops.take n
  let gone := flushed d
  let d := dropPfx (fun e => hs.contains e.hash || gone.contains e) d
  modSrv (fun s => { s with pfxDrops := s.pfxDrops.drop n, flushes := [], outRecs := s.outRecs ++ gone.map fun e => record 7 0 (beBytes 8 e.hash.toNat) }) d

def evictsAtBell (d : Dev) : Dev :=
  d.srv.evicts.foldl (fun d e => if (getTicket d e.1).state = .preempted then evictPages e.1 e.2 d else d) (modSrv (fun s => { s with evicts := [] }) d)

/-! ### Adapters and customers -/

def adaptersAtBell (d : Dev) : Dev :=
  let sets := d.srv.adapterSets
  let revs := d.srv.revokes.filter fun ix => ! adapterPinned d ix
  modSrv (fun s => { s with adapterSets := [], revokes := [],
                            adapters := revs.foldl (fun m ix => mdel m ix) (sets.foldl (fun m e => mput m e.1 e.2) s.adapters) }) d

def customersAtBell (d : Dev) : Dev := d.srv.custSets.foldl (fun d x => applyCustSet x d) (modSrv (fun s => { s with custSets := [] }) d)

/-! ### Catalogue (R361, R364-R366, R368) -/

/-- Answers of the queries that the ending step has scanned. -/
def catAnswers (d : Dev) : Dev :=
  let d := (d.srv.scanning.zipIdx).foldl (fun d e =>
    let q := e.1
    if d.srv.catGone.contains e.2 then ansQuery q.flow q.request 6 0 q.gen [] d
    else ansQuery q.flow q.request 0 0 q.gen (topList q.k ((d.srv.catLists.filter fun l => decide (l.1 = e.2)).flatMap (·.2)).eraseDups) d) d
  modSrv (fun s => { s with scanning := [], catLists := [], catGone := [] }) d

/-- Admissions of queries take effect; one whose deadline has come ends REJECTED 7, as does one that still waits. One announced for a
generation that is not the live one waits on (log 150). -/
def catStart (d : Dev) : Dev :=
  let now := frontTime d
  let late := fun (q : CatQuery) => decide (q.deadline ≠ 0) && decide (q.deadline ≤ now)
  let other := fun (q : CatQuery) => ! late q && decide (q.gen ≠ (getPart d q.part).live)
  let ok := d.srv.catAdmits.zipIdx.filter fun e => ! late e.1 && ! other e.1
  let d := (d.srv.catAdmits.filter other).reverse.foldl (fun d q =>
    let k := (getCust d q.customer).queue
    modSrv (fun s => { s with catQueues := mset s.catQueues k [] (q :: mget s.catQueues k []) }) d) d
  let bad := (d.srv.catAdmits.filter late) ++ (d.srv.catQueues.flatMap (·.2)).filter late
  let sch := d.srv.schedule.filterMap fun u =>
    if u.kind ≠ 3 then some u else (ok.findIdx? fun e => decide (e.2 = u.ticket)).map fun i => { u with ticket := i }
  let d := modSrv (fun s => { s with catAdmits := [], scanning := ok.map (·.1), schedule := sch,
                                     catQueues := s.catQueues.foldl (fun m e => mset m e.1 [] (e.2.filter fun q => ! late q)) [],
                                     refunds := s.refunds ++ ok.map fun e => (e.1.customer, -((e.1.cost * 8000000 : Nat) : Int)) }) d
  bad.foldl (fun d q => rejectQuery q.flow q.request 7 d) d

def masksAtBell (d : Dev) (m : List Host.Cell) : Dev × List Host.Cell :=
  let js := d.srv.masks.filter (·.sent)
  let d' := modSrv (fun s => { s with masks := s.masks.filter fun j => ! j.sent }) d
  (if isFront d then js.foldl (fun d j => ansMask j.flow j.request 0 d) d' else d', js.foldl (fun m j => maskApply j d m) m)

/-! ### Token history (R321) -/

/-- Write the history of a ticket from where it ends; the count is fuel. -/
def writeHist (t : Nat) : Nat → Dev × List Host.Cell → Dev × List Host.Cell
  | 0, s => s
  | n + 1, (d, m) =>
    let x := getTicket d t
    match x.tokens[x.hist]? with
    | none => (d, m)
    | some tok =>
      let kva := 8191 * 2 ^ 29 + 4 * x.hist
      let key := kvaKey t kva
      let d? := if (getMap d key).valid then some d else allocAt key d
      match d? with
      | none => (d, m)
      | some d => writeHist t n (modTicket t (fun x => { x with hist := x.hist + 1 }) d, memWrites m (kvAddr d t kva) (leBytes 4 tok))

def histories (s : Dev × List Host.Cell) : Dev × List Host.Cell :=
  (s.1.srv.tickets.filter fun e => inLane e.2).foldl (fun s e => writeHist e.1 (e.2.tokens.length - e.2.hist) s) s

/-! ### Snapshots (R351, R353, R354) -/

def waitMs (d : Dev) : Nat :=
  let pos := positionsAhead d fun _ => true
  let f := freeSlots d
  if f = 0 then 0xFFFF else min 0xFFFF (pos * (serve d).stages * basePeriod d / (8000 * f))

def snapshots (d : Dev) : Dev :=
  let s := d.srv
  let util := min 1024 (s.util.foldl (· + ·) 0 / max 1 (serve d).slots)
  modSrv (fun s => { s with snapStatus := BitVec.ofNat 32 (s.lanes.length % 2 ^ 15 + 65536 * (s.prefill.length % 16)),
                            snapLoad := BitVec.ofNat 32 (util + 65536 * waitMs d), snapTime := frontTime d,
                            snapLive := countState d admitted, snapQueued := countState d fun t => decide (t.state = .queued), snapPurse := s.customers }) d

/-! ### The whole bell of the front device -/

/-- The schedule of the new step comes into force; the one that ends stays for the commit (R300). -/
def turnSchedule (d : Dev) : Dev :=
  modSrv (fun s => { s with prevSchedule := s.schedule, schedule := s.nextSchedule, nextSchedule := [], schedSent := false,
                            util := ((s.schedule.filter fun u => decide (u.stage = 0) && decide (u.kind ≠ 3)).length :: s.util).take 1024 }) d

/-- Items 1-6 of R347 for the bell that starts step s; `delta` is the front time since the bell before. -/
def frontCommit (s delta : Nat) (d : Dev) : Dev :=
  let toks := d.srv.schedule.filterMap (slotToken d)
  let prev := d.srv.schedule
  let told := d.srv.pfxDrops.length
  let d := commitPositions prev ((serve d).stages - 1) d
  let d := customersAtBell (turnSchedule d)
  let d := takeEnds (queueArrivals d)
  let d := completions toks (deadlines toks d)
  let d := d.srv.faultEnds.foldl (fun d f => if admitted (getTicket d f.1) then endTicket f.1 f.2 (if f.2 = 5 then 3 else 0) d else d) d
  let d := masks (modSrv (fun s => { s with faultEnds := [] }) d)
  let d := rebind s (joinWaiting (leavePrefill (preemptHead d)))
  let d := catStart (catAnswers (admissions s d))
  let d := purses delta d
  adaptersAtBell (dropsAtBell told (insertsAtBell (evictsAtBell d)))

def frontBell (s : Nat) (first : Bool) (d : Dev) (m : List Host.Cell) : Dev × List Host.Cell :=
  let now := frontTime d
  let delta := if first then 0 else now - d.srv.lastBellTime
  let d := frontCommit s delta d
  let d := modSrv (fun v => { v with lastBellTime := now, sampled := [], maskRecs := [] }) d
  let p := histories (masksAtBell d m)
  (p.1, p.2)

/-- What follows the device's own items at every bell of the front domain. -/
def frontEnd (d : Dev) : Dev := releaseAnswers (snapshots d)

/-! ### Devices without the front role (R316, R322, R325, R335) -/

/-- The chain of entries that an Admit names: its last page's hash, and how many; the count is fuel. -/
def chainBack (d : Dev) : Nat → W64 → Option (List PfxEntry)
  | 0, _ => some []
  | n + 1, h => match d.srv.index.find? fun e => decide (e.hash = h) && decide (e.page = n) with
    | none => none
    | some e => (chainBack d n e.pred).map fun l => l ++ [e]

def noteAdmit (h : Nat) (b : List Byte) (d : Dev) : Dev :=
  let t := hIndex h
  if leAt b 1 1 = 1 then
    match chainBack d (beAt b 16 4) (BitVec.ofNat 64 (beAt b 8 8)) with
    | some es => modTicket t (fun x => { x with shared := es.length * (serve d).tpp, position := es.length * (serve d).tpp }) (shareAll t es d)
    | none => modTicket t (fun x => { x with noGroup := true }) d
  else if (getTicket d t).state = .preempted ∧ (getTicket d t).gen = hGen h then
    let d := (reserveFor t (pageNeed d (getTicket d t).reserve - (getTicket d t).kvPages) d).getD d
    modTicket t (fun x => { x with state := .rebuild }) d
  else
    let tok := beAt b 28 4
    let e := beAt b 8 4
    let d := setTicket d t { gen := hGen h, state := .prefill, epoch := e, genModel := beAt b 12 4, genAdapt := beAt b 16 4, adapter := beAt b 20 4,
                             serial := beAt b 24 4, reserve := tok }
    pinEpoch e ((reserveFor t (pageNeed d tok) d).getD d)

def kindState : Nat → TState | 0 => .decode | 1 => .prefill | _ => .rebuild

def noteSlot (h : Nat) (b : List Byte) (d : Dev) : Dev :=
  let kind := leAt b 16 1
  let u : SlotUse := { stage := beAt b 8 2, slot := beAt b 10 2, ticket := if kind = 3 then beAt b 10 2 else hIndex h, pos := beAt b 12 4, kind := kind, token := beAt b 20 4 }
  let d := modSrv (fun s => { s with schedule := s.schedule ++ [u] }) d
  if kind = 3 ∨ (ticketOf d h).isNone then d else modTicket (hIndex h) (fun x => { x with state := kindState kind }) d

def noteEnd (h : Nat) (d : Dev) : Dev :=
  match ticketOf d h with
  | none => d
  | some t =>
    let x := getTicket d t
    if ! admitted x then d else
    modTicket t (fun y => { y with state := .ended }) (unpinEpoch x.epoch (freeTicketPages t (modSrv (unlist t) d)))

/-- One record of the schedule, at the bell (R325). -/
def applyNotice (b : List Byte) (d : Dev) : Dev :=
  let h := beAt b 4 4
  match leAt b 0 1 with
  | 1 => noteSlot h b d
  | 2 => noteAdmit h b d
  | 3 => noteEnd h d
  | 4 => (match ticketOf d h with | some t => modTicket t (fun x => { x with state := .preempted }) (abortTransfers t (releaseReserve t d)) | none => d)
  | 5 => (match ticketOf d h with | some t => modTicket t (fun x => { x with noGroup := false }) (evictPages t (beAt b 8 4) d) | none => d)
  | 6 => (match ticketOf d h with
    | some t => insertPage t (beAt b 16 4) (BitVec.ofNat 64 (beAt b 8 8)) (BitVec.ofNat 64 (beAt b 20 8)) false d
    | none => d)
  | 7 => dropPfx (fun e => decide (e.hash = BitVec.ofNat 64 (beAt b 8 8))) d
  | _ => d

/-- The highest stage of this device's model partitions. -/
def ownStage (d : Dev) : Nat := (((theDoc d).map (·.parts)).getD []).foldl (fun n p => if p.kind = 2 then n else max n p.stage) 0

/-- Slots of tickets whose shared pages are absent run masked, with cause 4 (R335). -/
def maskAbsent (d : Dev) : Dev :=
  let bad := d.srv.schedule.filter fun u => decide (u.kind ≠ 3) && (getTicket d u.ticket).noGroup
  modSrv (fun s => { s with schedule := s.schedule.filter fun u => ! bad.contains u, maskRecs := s.maskRecs ++ bad.map fun u => (u.ticket, u.pos, 4) }) d

def memberBell (d : Dev) (m : List Host.Cell) : Dev × List Host.Cell :=
  let d := commitPositions d.srv.schedule (ownStage d) d
  let ns := d.srv.notices
  let d := modSrv (fun s => { s with prevSchedule := s.schedule, schedule := [], notices := [], scanning := s.catAdmits, catAdmits := [], catLists := [], catGone := [],
                                     sampled := [], maskRecs := [], faultEnds := [] }) d
  let d := maskAbsent (ns.foldl (fun d b => applyNotice b d) d)
  masksAtBell (adaptersAtBell (dropsAtBell d.srv.pfxDrops.length d)) m

/-- Frames of that report: its flows must be able to take them. -/
def reportReady (d : Dev) : Bool := isFront d || flowsReady d ((d.srv.maskRecs.length + d.srv.faultEnds.length) / 128 + 1 + (serve d).slots)

/-- What a device without the front role reports to it in a step: masks, tickets that end here, lists and absences of queries
(R325, R340, R365). -/
def reportUp (k : Nat) (d : Dev) : Dev :=
  if isFront d then d else
  let s := (getDom d k).step
  let rs := (d.srv.maskRecs.map fun r => maskRec (ticketHandle d r.1) r.2.1 r.2.2) ++ d.srv.faultEnds.map fun f => record 3 (ticketHandle d f.1) (beBytes 4 f.2)
  let d := sendRecords s rs d
  let cats := d.srv.schedule.filter fun u => decide (u.kind = 3)
  cats.foldl (fun d u =>
    let gone := d.srv.catGone.contains u.ticket
    let l := topList (((d.srv.scanning[u.ticket]?).map (·.k)).getD 0) ((d.srv.catLists.filter fun l => decide (l.1 = u.ticket)).flatMap (·.2)).eraseDups
    (scheduleFlows d).foldl (fun d f => sendData f 1 (if gone then 5 else 7) u.slot s (if gone then [] else cartList l) d) d) d

end Sys2Proof.Machine
end

