-- ==== Sys2Proof/Machine/HostPort.lean ====
section
/-! DEFINITION. What the host does over PCIe: doorbells, flags, writable registers, staging, the fault log (R383-R387,
R393, R398-R421). -/
namespace Sys2Proof.Machine

/-- BAR0 and BAR2 are served in every state but COLD, where the link is down or in reset (R414). -/
def barOpen (d : Dev) : Bool := decide (d.state ≠ .cold)

/-- Every register is served: firmware has started, and the device is not FAULTED without it (R401). -/
def barFull (d : Dev) : Bool :=
  barOpen d && decide (d.state ≠ .awaitFw) && (decide (d.state ≠ .faulted) || fwRuns d)

def hostDo (f : Dev → Dev) (s : State) : R := onDev (fun d => if barOpen d then f d else d) s
def hostDoFull (f : Dev → Dev) (s : State) : R := onDev (fun d => if barFull d then f d else d) s

/-! ### Interrupts -/

/-- CH_IRQ_MASK (R419, R420): a set flag whose bit is newly enabled causes a message, within vector 2's rate. -/
def irqMaskWrite (v : Word) (d : Dev) : Dev :=
  let m := v &&& 0x3FFF
  let rising := m &&& ~~~d.host.irqMask
  let d := { d with host := { d.host with irqMask := m } }
  if rising &&& summary d ≠ 0 then vec2 d else d

/-- The 10 µs interval of vector 2 ends (R420). -/
def vec2End (d : Dev) : Dev :=
  if ! d.host.vec2Open then d
  else if d.host.vec2Due then msix 2 { d with host := { d.host with vec2Due := false } }
  else { d with host := { d.host with vec2Open := false } }

/-- A software clear and the hardware sets of the same cycle (R402). -/
def w1c (e : EvId) (mask : Word) (hw : List EvHit) (d : Dev) : Dev :=
  let open_ := barFull d || (barOpen d && decide (e = .chHost))
  let hw := hw.filter fun h => decide (h.bit < evBits e)
  let r := getEv d e
  let r := if open_ then clearFlags mask r else r
  let d := setEv d e (hitAll e d.cycle hw r)
  if ! hw.isEmpty && d.host.irqMask.getLsbD (evIx e) then vec2 d else d

/-! ### Registers with a row of their own -/

def actCapWrite (v : Word) (d : Dev) : Dev :=
  { d with mkt := { d.mkt with actCap := max 10 (min 100 (v.toNat % 128)) } }

/-- R66, R74. -/
def trimModeSet (v : Word) (d : Dev) : Dev :=
  let m := v.getLsbD 0
  if steps d.state then { d with mkt := { d.mkt with trimNext := some m } }
  else { d with mkt := { d.mkt with trimMode := m, trimNext := none } }

/-- R133. -/
def auditRateWrite (v : Word) (d : Dev) : Dev :=
  { d with mkt := { d.mkt with auditRate := max 8 (min 16 (v.toNat % 32)) } }

/-! ### Check units (R267, R268, R273) -/

def chkMask (code v : Nat) : Nat := v % 2 ^ crcWidth code

def getChk (d : Dev) (u : Nat) : ChkUnit := mget d.eth.chks u {}
def setChk (d : Dev) (u : Nat) (x : ChkUnit) : Dev := { d with eth := { d.eth with chks := mset d.eth.chks u {} x } }

/-- A port unit's enable takes effect at the next message boundary of its flow: at once while none of its messages is being
gathered. -/
def chkBoundary (u : Nat) (d : Dev) : Dev :=
  let x := getChk d u
  if (getFlow d x.flow).msg.isEmpty then setChk d u { x with active := x.enable } else d

def chkCtlWrite (u : Nat) (v : Word) (d : Dev) : Dev :=
  let n := v.toNat
  if u < 12 then
    let x := getChk d u
    let x := if x.active then { x with enable := bitOf n 0 }
             else { x with enable := bitOf n 0, crc := bits n 2 1, flow := bits n 19 4,
                           value := BitVec.ofNat 64 (chkMask (bits n 2 1) x.value.toNat) }
    chkBoundary u (setChk d u x)
  else if u < 268 then setChk d u { getChk d u with channel := bits n 23 20 }
  else d

def chkValueWrite (u : Nat) (v : W64) (d : Dev) : Dev :=
  if u < 12 then
    let x := getChk d u
    if x.active then d else setChk d u { x with value := BitVec.ofNat 64 (chkMask x.crc v.toNat) }
  else if u < 268 then
    let c := (getChk d u).channel
    let r := getChan d (u - 12) c
    if r.state = .faulted ∨ r.state = .aborted then
      setChan d (u - 12) c { r with check := BitVec.ofNat 64 (chkMask ((r.d.map (·.crcCode)).getD 0) v.toNat) }
    else d
  else d

/-! ### Any register (R400, R401, R404, R405) -/

/-- The W1C register at an offset of BAR0. -/
def evAt : Nat → Option EvId
  | 0x0000020 => some .chHost | 0x0002000 => some .chNet | 0x0004000 => some .chFault | 0x0100040 => some .bl
  | 0x0100800 => some .blStep | 0x0200000 => some .st | 0x0300000 => some .ep | 0x0400000 => some .wb | 0x0500000 => some .sc
  | 0x1000010 => some .cv | 0x1000080 => some .cvDp | 0x10000C0 => some .cvQuant | 0x3000000 => some .pt | 0x3400000 => some .tg
  | _ => none

/-- A 32-bit write to register off - 0x1000 - 0x80 i of ring i (R405). -/
def ringRegWrite (i o v : Nat) (d : Dev) : Dev :=
  let r := getRing d i
  let lo := fun (x : W64) => (x &&& 0xFFFFFFFF00000000) ||| (BitVec.ofNat 64 v &&& 0xFFFFF000)
  let hi := fun (x : W64) => (x &&& 0xFFFFFFFF) ||| (BitVec.ofNat 64 v <<< 32)
  match o with
  | 0x00 => setRing d i { r with base := lo r.base }
  | 0x04 => setRing d i { r with base := hi r.base }
  | 0x08 =>
    let d := setRing d i { r with log2 := bits v 11 8 }
    if bitOf v 0 then enableSet i d else enableClear i d
  | 0x0C => tailWrite i v d
  | 0x18 => setRing d i { r with cplBase := lo r.cplBase }
  | 0x1C => setRing d i { r with cplBase := hi r.cplBase }
  | 0x20 => setRing d i { r with vector := bits v 5 0, irqEn := bitOf v 6, count := bits v 15 8, time := bits v 31 16 }
  | 0x24 => cplHeadWrite i v d
  | _ => d

/-- A 32-bit write to the MSI-X table (R398, R418): unmasking a vector with a pending message sends it. -/
def msixWrite (o v : Nat) (d : Dev) : Dev :=
  let k := o / 16
  if 64 ≤ k then d
  else if o % 16 = 12 then
    let bit := 1#64 <<< k
    let h := d.host
    if bitOf v 0 then { d with host := { h with msixUnmasked := h.msixUnmasked &&& ~~~bit } }
    else
      let pend := h.msixPending.getLsbD k
      let d := { d with host := { h with msixUnmasked := h.msixUnmasked ||| bit, msixPending := h.msixPending &&& ~~~bit } }
      if pend then emit (.msix k) d else d
  else { d with host := { d.host with msixTable := mset d.host.msixTable o 0 (BitVec.ofNat 32 v) } }

/-- PT_KV_LOW.pages (R195): the low condition is judged again, and sets no flag by itself. -/
def kvLowWrite (v : Nat) (d : Dev) : Dev :=
  let p := v % 2 ^ 24
  { d with dram := { d.dram with kvLow := p, poolLow := decide (d.dram.free - d.dram.reserved < p) } }

/-- An aligned 32-bit write. Everything else is read-only or reserved and ignores writes (R9). -/
def barWrite (off v : Nat) (d : Dev) : Dev :=
  if 0x1000 ≤ off ∧ off < 0x1400 then ringRegWrite ((off - 0x1000) / 0x80) ((off - 0x1000) % 0x80) v d
  else if 0x600000 ≤ off ∧ off < 0x600400 then msixWrite (off - 0x600000) v d
  else if off = 0x20 then w1c .chHost (BitVec.ofNat 32 v) [] d
  else if ! barFull d then d
  else match evAt off with
  | some e => w1c e (BitVec.ofNat 32 v) [] d
  | none =>
    let w := BitVec.ofNat 32 v
    if off = 0x84 then irqMaskWrite w d
    else if off = 0x400C then { d with faults := { d.faults with readSeq := v } }
    else if off = 0x4060 then { d with mkt := { d.mkt with patPeriod := bits v 7 0, patData := bitOf v 8 } }
    else if off = 0x1000000 then trimModeSet w d
    else if off = 0x1000040 then actCapWrite w d
    else if off = 0x1000100 then auditRateWrite w d
    else if off = 0x3000108 then kvLowWrite v d
    else if off = 0x400064 then alertMaskWrite w d
    else if 0x310000 ≤ off ∧ off < 0x310000 + 16 * 268 then
      let u := (off - 0x310000) / 16
      match (off - 0x310000) % 16 with
      | 0 => chkCtlWrite u w d
      | 8 => chkValueWrite u (BitVec.ofNat 64 ((if u < 12 then (getChk d u).value else (getChan d (u - 12) (getChk d u).channel).check).toNat / 2 ^ 32 * 2 ^ 32 + v)) d
      | 12 => chkValueWrite u (BitVec.ofNat 64 ((if u < 12 then (getChk d u).value else (getChan d (u - 12) (getChk d u).channel).check).toNat % 2 ^ 32 + v * 2 ^ 32)) d
      | _ => d
    else d

/-- A host write (R400): narrow or unaligned, it is ignored and sets bad_access; eight bytes at once are atomic. -/
def hostWrite (off size : Nat) (v : W64) (d : Dev) : Dev :=
  if size = 4 ∧ off % 4 = 0 then barWrite off (v.toNat % 2 ^ 32) d
  else if size = 8 ∧ off % 8 = 0 then
    if 0x310000 ≤ off ∧ off < 0x310000 + 16 * 268 ∧ off % 16 = 8 then (if barFull d then chkValueWrite ((off - 0x310000) / 16) v d else d)
    else barWrite (off + 4) (v.toNat / 2 ^ 32) (barWrite off (v.toNat % 2 ^ 32) d)
  else raise .chHost 3 0 0 d

/-! ### Staging (R398, R399) -/

/-- Staged ranges that commands are reading, from acceptance to completion. -/
def lockedRanges (d : Dev) : List (Nat × Nat) :=
  (d.sec.fwJobs.map fun j => (j.off, j.off + j.len)) ++ (d.sec.patJobs.map fun j => (j.2.1, j.2.1 + j.2.2)) ++
    (if d.plan.validating then [(0, d.host.stagedEnd)] else []) ++
    d.stock.parts.filterMap fun e => e.2.restock.bind fun r => if r.verified then none else some r.range

def lockedByte (rs : List (Nat × Nat)) (o : Nat) : Bool := rs.any fun r => decide (r.1 ≤ o) && decide (o < r.2)

def stageBytes (rs : List (Nat × Nat)) (m : List Host.Cell) (o : Nat) : List Byte → List Host.Cell
  | [] => m
  | b :: r => stageBytes rs (if lockedByte rs o || decide (0x10000000 ≤ o) then m else memWrite m (stagingBase + o) b) (o + 1) r

def stagingWrite (off : Nat) (bytes : List Byte) (d : Dev) (m : List Host.Cell) : Dev × List Host.Cell :=
  if ! barOpen d then (d, m) else
  let rs := lockedRanges d
  let hit := (List.range bytes.length).any fun i => lockedByte rs (off + i)
  let e := if off < 0x0F000000 then max d.host.stagedEnd (min 0x0F000000 (off + bytes.length)) else d.host.stagedEnd
  let d1 := if d.plan.validating then d else { d with host := { d.host with stagedEnd := e } }
  (if hit then raise .chHost 4 0 0 d1 else d1, stageBytes rs m off bytes)

/-! ### The fault log (R383-R387, R393) -/

def findRec (d : Dev) (q : Nat) : Option FaultRec := d.faults.log.find? fun r => decide (r.seq = q)

def captureOf (d : Dev) (r : Option FaultRec) : List Byte :=
  match r with
  | some r =>
    if r.capture = 0 then List.replicate 4096 0 else captureBytes (mget d.faults.captures ((r.capture - 0x00BFE0400000) / 4096) {})
  | none => List.replicate 4096 0

def faultRead (c : Cmd) (d : Dev) : Dev × Verdict :=
  let addr := param c.params 8 8
  let first := param c.params 16 4
  let n := param c.params 20 2
  if addr % 64 ≠ 0 ∨ n < 1 ∨ 64 < n then fail .badArg d else
  let recs := (List.range n).map fun k => findRec d (first + k)
  let data := recs.flatMap fun r => match r with | some r => recBytes r | none => List.replicate 64 0
  let caps := if bitOf (param c.params 22 1) 0 then recs.flatMap (captureOf d) else []
  let held := recs.filterMap id
  let newest := held.foldl (fun m r => max m r.seq) 0
  let d' := emit (.hostWrite addr (data ++ caps)) { d with faults := { d.faults with readSeq := if held.isEmpty then d.faults.readSeq else newest } }
  (if c.wrOk then d' else d, .now .ok (held.length + d.faults.head * 2 ^ 32))

/-! ### Meanings -/

/-- R409, R415. -/
def execNop (c : Cmd) (s : State) : R := onDev (hostCmd 0x01 c ok0) s
def execFaultRead (c : Cmd) (s : State) : R := onDev (hostCmd 0x03 c (faultRead c)) s
def execCringTailWrite (ring v : Nat) (s : State) : R := hostDo (fun d => if ring < 8 then tailWrite ring v d else d) s
def execCringEnableSet (ring : Nat) (s : State) : R := hostDo (fun d => if ring < 8 then enableSet ring d else d) s
def execCringEnableClear (ring : Nat) (s : State) : R := hostDo (fun d => if ring < 8 then enableClear ring d else d) s
def execCplHeadWrite (ring v : Nat) (s : State) : R := hostDo (fun d => if ring < 8 then cplHeadWrite ring v d else d) s

/-- R411: an entry that cannot be read is not run and the head stands; a result or completion that cannot be written
leaves the effects that the command has had. -/
def execRingDmaError (ring : Nat) (k : DmaErr) (s : State) : R :=
  onDev (fun d =>
    match k with
    | .entryRead => if serves d ring then ringFail ring { d with host := { d.host with lastRing := ring } } else d
    | .resultWrite => if (getRing d ring).job.isSome then ringFail ring d else d) s

def execW1cClear (e : EvId) (mask : Word) (hw : List EvHit) (s : State) : R := onDev (w1c e mask hw) s
def execRegisterWrite (off size : Nat) (v : W64) (s : State) : R := hostDo (hostWrite off size v) s
def execCvActCapWrite (v : Word) (s : State) : R := hostDoFull (actCapWrite v) s
def execTrimModeWrite (v : Word) (s : State) : R := hostDoFull (trimModeSet v) s
def execCvAuditCtlWrite (v : Word) (s : State) : R := hostDoFull (auditRateWrite v) s
def execChIrqMaskWrite (v : Word) (s : State) : R := hostDoFull (irqMaskWrite v) s
def execEpChkCtlWrite (u : Nat) (v : Word) (s : State) : R := hostDoFull (chkCtlWrite u v) s
def execEpChkValueWrite (u : Nat) (v : W64) (s : State) : R := hostDoFull (chkValueWrite u v) s
/-- From BAR0 or from the sideband (R470), which is served in every state but COLD (R422). -/
def execWbAlertCtlWrite (v : Word) (s : State) : R := hostDo (alertMaskWrite v) s
def execStagingWrite (off : Nat) (bytes : List Byte) (s : State) : R := onMem (stagingWrite off bytes) s
def execVector2IntervalEnd (s : State) : R := onDev vec2End s

/-- R421. -/
def execCoalesceTimeout (ring : Nat) (s : State) : R :=
  onDev (fun d =>
    let r := getRing d ring
    if r.irqEn && decide (0 < r.posted) && decide (r.time ≠ 0) then ringMsg ring d else d) s

end Sys2Proof.Machine
end

