-- ==== Sys2Proof/Machine/Rx.lean ====
section
/-! DEFINITION. The Bengoif receiver (R239, R240, R242-R259, R267, R312, R337): what a frame on a flow does. -/
namespace Sys2Proof.Machine

/-! ### Arrival (R234, R237, R239, R240, R243, R244) -/

/-- The source address lies in the service allow list. -/
def allowed (d : Dev) (n m src : Nat) : Bool :=
  let w := if (portEntry d n m).any fun e => e.flags.getLsbD 0 then 128 else 32
  (((theDoc d).map (·.allow)).getD []).any fun e => decide (src / 2 ^ (w - e.2) = e.1 / 2 ^ (w - e.2))

/-- The class of a type (R243). -/
def classOk (typ cls : Nat) : Bool :=
  match typ with
  | 1 | 2 | 11 => decide (cls = 1)
  | 3 => decide (cls = 2) || decide (cls = 3)
  | 4 | 5 | 6 | 7 => decide (cls ≠ 0)
  | 12 => decide (cls = 3)
  | 8 | 9 | 10 => decide (cls = 0)
  | _ => false

def role2Ok (d : Dev) (r : Rx) : Bool := decide (r.cls = 3) && [12, 3, 4, 5, 6, 7].contains r.typ && allowed d r.port r.sub r.src

/-- Flow index that an event names: none for bell and probe frames. -/
def eventFlow (r : Rx) : Nat := if r.cls = 0 then 0xFFFF else min 0xFFFF (hIndex r.handle.toNat)

/-- The checks on a frame of a type before any of its fields act; whether it goes on. -/
def arrive (typ : Nat) (r : Rx) (d : Dev) : Dev × Bool :=
  if ! ringOn d r.port then (d, false) else
  match (getSub d r.port r.sub).state with
  | .down | .training => (d, false)
  | .probing => (portCount r.port 1 d, false)
  | .heldDown => (portCount r.port 7 (portCount r.port 1 d), false)
  | .up =>
    let d := portCount r.port 1 d
    if subRole d r.port r.sub = 2 ∧ ¬ role2Ok d r then (portCount r.port 7 d, false)
    else if r.crc ≠ rxCrc r then (epRaise 7 (eventFlow r) r.port r.sub (portCount r.port 6 d), false)
    else if r.typ ≠ typ || ! classOk typ r.cls then (portCount r.port 8 d, false)
    else (if r.ce then portCount r.port 5 d else d, true)

/-- The flow that a frame's handle names, in use and of its class; a stale generation is counted (R248). -/
def frameFlow (r : Rx) (d : Dev) : Dev × Option Nat :=
  let h := r.handle.toNat
  let x := getFlow d (hIndex h)
  if 49152 ≤ hIndex h then (portCount r.port 8 d, none)
  else if ! x.inUse || decide (x.gen ≠ hGen h) then
    (epRaise 4 (hIndex h) r.port r.sub { d with eth := { d.eth with staleDrops := (d.eth.staleDrops + 1) % 2 ^ 32 } }, none)
  else if x.cls ≠ r.cls then (portCount r.port 8 d, none)
  else (d, some (hIndex h))

/-- The acknowledgement that a frame carries, and the echo and the mark of ECN (R250, R253). -/
def acksOf (f : Nat) (r : Rx) (d : Dev) : Dev :=
  let d := if r.flags.getLsbD 0 then settle f r.ack (if r.typ = 4 then r.aux else 0) d else d
  let d := if r.flags.getLsbD 1 then ecnEcho f d else d
  if r.ce then modFlow f (fun x => { x with ceEcho := true }) d else d

/-! ### Messages in PSN order (R249, R254-R256) -/

/-- Frames that follow without a gap from a PSN; the count is fuel. -/
def inOrder : Nat → Nat → List Rx → List Rx
  | 0, _, _ => []
  | n + 1, p, l => match l.find? (fun r => decide (r.psn = p)) with
    | none => []
    | some r => r :: inOrder n (p + 1) l

/-- A numbered frame is accepted once and held until every earlier one has arrived: the frames to deliver now. -/
def takePsn (f : Nat) (r : Rx) (d : Dev) : Dev × List Rx :=
  let x := getFlow d f
  let n := x.sinceAck + 1
  if r.psn < x.rxNext ∨ x.rxNext + 65536 ≤ r.psn ∨ x.early.any (fun e => decide (e.psn = r.psn)) then (setFlow d f { x with sinceAck := n }, [])
  else
    let l := r :: x.early
    let out := inOrder l.length x.rxNext l
    let next := x.rxNext + out.length
    (setFlow d f { x with sinceAck := n, rxNext := next, early := l.filter fun e => decide (next ≤ e.psn) }, out)

/-- The step that a domain runs next (R210, R211). -/
def proposal (d : Dev) (k : Nat) : Nat :=
  let x := getDom d k
  if x.belled then x.step + 1 else ((stepEntry d k).map (·.first)).getD 0

/-- The full number of a step named by its low 32 bits: the domain's current one, or a later one; none when it has committed. -/
def fullStep (d : Dev) (k low : Nat) : Option Nat :=
  let x := getDom d k
  let next := proposal d k
  let diff := (low + 2 ^ 32 - next % 2 ^ 32) % 2 ^ 32
  if x.running && decide (diff = 2 ^ 32 - 1) then some x.step else if diff < 2 ^ 31 then some (next + diff) else none

/-! ### Contributions (R257-R259) -/

/-- The records of a message, without its seal: record index, exponent, sums; none where it is malformed. The count is fuel. -/
def contribRecs : Nat → List Byte → Option (List (Nat × Int × List Nat))
  | 0, _ => none
  | fuel + 1, b =>
    if b.isEmpty then some [] else
    let n := beAt b 4 2
    if b.length < 8 + 4 * n ∨ n < 1 ∨ 512 < n then none
    else (contribRecs fuel (b.drop (8 + 4 * n))).map fun l => (beAt b 0 2, signed16 (beAt b 2 2), (List.range n).map fun j => beAt b (8 + 4 * j) 4) :: l

def peerRec (d : Dev) (ix : Nat) : Option PeerRecord := (((theDoc d).map (·.peerRecs)).getD []).find? fun p => decide (p.idx = ix)

/-- The sum of c P over the records, mod 2^32; none where a record is unknown. -/
def sealOf (d : Dev) (rs : List (Nat × Int × List Nat)) : Option Nat :=
  rs.foldl (fun a r => match a, peerRec d r.1 with
    | some s, some p => if p.c.length < r.2.2.length then none else some (((r.2.2.zip p.c).foldl (fun s e => s + e.1 * e.2) s) % 2 ^ 32)
    | _, _ => none) (some 0)

def signed32 (n : Nat) : Int := if n < 2 ^ 31 then n else (n : Int) - 2 ^ 32

/-- The contributions as the combine list takes them: in the order of their positions in it, FP32, scaled with the sender's scales. -/
def contribLines (d : Dev) (rs : List (Nat × Int × List Nat)) : List Line :=
  let at_ := fun (r : Nat × Int × List Nat) => ((peerRec d r.1).map (·.pos)).getD 0
  (sortBy (fun x y => decide (at_ x ≤ at_ y)) rs).flatMap fun r => f32Lines ((r.2.2.zip (((peerRec d r.1).map (·.scales)).getD [])).map fun e => scaleOut (signed32 e.1) e.2 r.2.1)

/-- The records of a whole message whose seal matches. -/
def contribOk (d : Dev) (b : List Byte) : Option (List (Nat × Int × List Nat)) :=
  if b.length < 4 then none else
  match contribRecs (b.length + 1) (b.take (b.length - 4)) with
  | none => none
  | some rs => if sealOf d rs = some (beAt b (b.length - 4) 4) then some rs else none

/-! ### Delivery into the market (R190, R191, R254) -/

/-- The records that begin in octets lo to hi - 1 of a message; off is the octet of the first. -/
def recsWithin (lo hi : Nat) : Nat → List (Nat × Int × List Nat) → List (Nat × Int × List Nat)
  | _, [] => []
  | off, r :: l => (if lo ≤ off ∧ off < hi then [r] else []) ++ recsWithin lo hi (off + 8 + 4 * r.2.2.length) l

/-- The frames of a message with the octet at which each begins. -/
def withStarts : Nat → List Rx → List (Nat × Rx)
  | _, [] => []
  | o, r :: l => (o, r) :: withStarts (o + r.payload.length) l

/-- The carts of a message, in part order, as the flow table directs them: that of a contribution's frame has the records that begin
in the frame. -/
def messageCarts (d : Dev) (e : FlowEntry) (s : Nat) (ms : List Rx) (rs : List (Nat × Int × List Nat)) : List Cart :=
  let r := routeAt d (2048 + e.port) e.route
  let cart := fun (typ : Nat) (slot : Nat) (ls : List Line) =>
    ({ dest := e.dest, src := 2048 + e.port, typ := typ, queue := e.queue, route := e.route, mode := r.elim 0 (·.mode), vc := 0, linkValid := r.elim false (·.linkValid),
       link := r.elim 0 (·.link), members := r.elim 0 (·.members), slot := slot, step := s % 2 ^ 32, seq := 0, addr := 0, flits := ls } : Cart)
  match ms with
  | [] => []
  | h :: _ =>
    if h.typ = 2 then (withStarts 0 ms).map fun r => cart 1 (bits r.2.aux.toNat 31 16) (contribLines d (recsWithin r.1 (r.1 + r.2.payload.length) 0 rs))
    else ms.map fun r => cart r.cart (bits r.aux.toNat 31 16) (linesOf 64 r.payload)

/-- A cart into its journal entry; carts to the counting house are no carts of the market. -/
def journalCart (k s : Nat) (c : Cart) (d : Dev) : Dev :=
  if 1920 ≤ c.dest then d else
  let cs := (portDests d c).map fun t => { c with dest := t.1, queue := t.2 }
  match journalOf d k s with
  | some e => { d with net := { d.net with journal := d.net.journal.map fun x => if x = e then { x with carts := x.carts ++ cs } else x } }
  | none => { d with net := { d.net with journal := d.net.journal ++ [{ domain := k, step := s, carts := cs, lines := [], opened := true }] } }

/-- Carts of the running step go on, carts of a later one wait for its bell. -/
def marketCart (k s : Nat) (c : Cart) (d : Dev) : Dev :=
  let d := journalCart k s c d
  if (getDom d k).running && decide ((getDom d k).step = s) then portSend c d
  else { d with net := { d.net with held := d.net.held ++ [(k, s, c)] } }

def peerReplay (f s : Nat) (d : Dev) : Dev := if flowReady d f 1 then sendReplayReq f s d else d

/-- A record about a flow's message (R256, R259). -/
def portRec (kind k : Nat) (d : Dev) : FaultRec := { blankRec with kind := kind, unit := 11, step := (getDom d k).step }

/-- A message of a step flow, whole. -/
def stepMessage (f : Nat) (h : Rx) (ms : List Rx) (d : Dev) : Dev :=
  let x := getFlow d f
  let k := x.domain
  let mid := h.aux.toNat / 2 ^ 32
  match fullStep d k h.step, flowEntry d f with
  | none, _ => portCount h.port 3 d
  | _, none => d
  | some s, some e =>
    if d.state = .faulted ∨ proposal d k < s ∧ (getDom d k).running then d
    else if x.accepted.contains (s, mid) then portCount h.port 3 d
    else
      let b := ms.flatMap (·.payload)
      let rs := if h.typ = 2 then contribOk d b else some []
      match rs with
      | none => peerReplay f s (faultRec { portRec 13 k d with step := s } (epRaise 6 f h.port h.sub (portCount h.port 4 d)))
      | some rs =>
        let d := setFlow d f { x with accepted := x.accepted ++ [(s, mid)] }
        (messageCarts d e s ms rs).foldl (fun d c => marketCart k s c d) d

/-- REPLAY_REQ (R220, R491): the step of the rejected contribution, while this device runs it. -/
def replayAsked (f : Nat) (r : Rx) (d : Dev) : Dev :=
  let k := (getFlow d f).domain
  if (getDom d k).running && decide ((getDom d k).step = r.aux.toNat) then orderReplay k true d else d

/-! ### Units (R185, R290, R337, R380) -/

/-- The load that takes the bytes of a flow. -/
def adapterFor (d : Dev) (f : Nat) : Option AdLoad := d.srv.adLoads.find? fun a => fromSource d f a.srcKind a.src

/-- Octets of a body on the wire: a sealed one travels as segments of 1 MiB with their tags, after session records from a peer. -/
def bodyWire (sealed_ : Bool) (kind len : Nat) : Nat :=
  let n := (len + 2 ^ 20 - 1) / 2 ^ 20
  if sealed_ then len + 16 * n + (if kind = 0 then 16 * n else 0) else len

/-- The body in the clear, and the least counter that the link session accepts after it (R283, R336); none where a counter repeats. The
count of segments is fuel, ix the index of the next one. -/
def bodyPlain (peer : Bool) (key : List Byte) : Nat → Nat → Nat → Nat → List Byte → Option (List Byte × Nat)
  | 0, _, lo, _, _ => some ([], lo)
  | n + 1, ix, lo, len, b =>
    let k := min len (2 ^ 20)
    let pre := if peer then 16 else 0
    let c := leAt b 0 12
    if peer ∧ c < lo then none else
    let nonce := if peer then b.take 12 else leBytes 12 ix
    (bodyPlain peer key n (ix + 1) (if peer then c + 1 else lo) (len - k) (b.drop (pre + k + 16))).map fun r =>
      (unsealed key nonce [] k ((b.drop pre).take (k + 16)) ++ r.1, r.2)

/-- R337: the checks on a package, all in hand; a package that fails one is not registered. -/
def packageOk (d : Dev) (a : AdLoad) (h sig wrap body : List Byte) : Bool :=
  decide (h.take 8 = asciiBytes "SKOVADPT") && decide (leAt h 8 2 = 1) && decide (leAt h 10 1 < 2) && decide (leAt h 12 2 = a.customer) &&
    decide (4 ≤ leAt h 14 2) && decide (leAt h 14 2 ≤ 64) && decide (leAt h 16 2 = (serve d).layers) && decide (leAt h 24 8 = a.length) &&
    decide (Config.identity 5 (h ++ sig) ≠ []) && (((theDoc d).map (·.pubKeys)).getD []).contains (digestAt h 64) &&
    (decide (wrap = []) || decide (Config.identity 6 wrap ≠ [])) && decide (sha3 body = digestAt h 32)

/-- Lines written whole hold valid data again (R167). -/
def healRange (lo hi : Nat) (d : Dev) : Dev :=
  modDram (fun x => { x with lost := x.lost.filter fun l => ! (decide (lo ≤ 64 * l) && decide (64 * l + 64 ≤ hi)) }) d

def adapterDone (a : AdLoad) (h sig wrap body : List Byte) (d : Dev) (m : List Host.Cell) : Dev × List Host.Cell :=
  let d := { d with srv := { d.srv with adLoads := d.srv.adLoads.filter fun x => decide (x.index ≠ a.index) } }
  if ! packageOk d a h sig wrap body then (d, m) else
  (registerAdapter a.index { customer := a.customer, rank := leAt h 14 2, offset := a.offset, length := a.length, digest := digestAt h 32, serial := 0, part := none,
                             usable := true } (healRange (regionBase d .adapter + a.offset) (regionBase d .adapter + a.offset + a.length) d),
   memWrites m (regionBase d .adapter + a.offset) body)

/-- Bytes of a package. -/
def adapterBytes (a : AdLoad) (off : Nat) (b : List Byte) (d : Dev) (m : List Host.Cell) : Dev × List Host.Cell :=
  let a := { a with rx := a.rx ++ [(off, b)] }
  let d := { d with srv := { d.srv with adLoads := d.srv.adLoads.map fun x => if x.index = a.index then a else x } }
  let get := gather a.rx (a.rx.length + 1)
  match get 0 128 with
  | none => (d, m)
  | some h =>
    let sl := decide (leAt h 10 1 = 1)
    let w := if sl && decide (a.srcKind = 1) then 1168 else 0
    match get 128 2432, get 2560 w, get (2560 + w) (bodyWire sl a.srcKind a.length) with
    | some sig, some wrap, some body =>
      if ! sl then adapterDone a h sig wrap body d m else
      let peer := decide (a.srcKind = 0)
      let key := if peer then ((peerSub d a.src).session.map digestBytes).getD [] else Config.identity 6 wrap
      match bodyPlain peer key ((a.length + 2 ^ 20 - 1) / 2 ^ 20) 0 (if peer then (peerSub d a.src).rxCounter else 0) a.length body with
      | some p => adapterDone a h sig wrap p.1 (if peer then countTaken a.src (some (p.2 - 1)) d else d) m
      | none => ({ d with srv := { d.srv with adLoads := d.srv.adLoads.filter fun x => decide (x.index ≠ a.index) } }, m)
    | _, _, _ => (d, m)

/-- The channel whose transfer the flow feeds. -/
def chanFor (d : Dev) (f : Nat) : Option Nat :=
  (d.dram.chans.find? fun e => decide (e.2.state = .running) && (e.2.d.any fun x => decide (x.srcSpace = 4) && decide (x.src = flowHandle d f))).map (·.1)

/-- Bytes of a unit, at its offset in its transfer (R185). -/
def unitMessage (f : Nat) (h : Rx) (b : List Byte) (d : Dev) (m : List Host.Cell) : Dev × List Host.Cell :=
  let off := h.aux.toNat
  match fetchFor d f, restockFor d f, adapterFor d f, chanFor d f with
  | some q, _, _, _ => (fetchBytes q off (h.flags.getLsbD 4) b d, m)
  | none, some p, _, _ => (restockBytes p off b d, m)
  | none, none, some a, _ => adapterBytes a off b d m
  | none, none, none, some c =>
    let x := getChan d (c / 16) (c % 16)
    (setChan d (c / 16) (c % 16) { x with rx := aset x.rx (off / 4096) b }, m)
  | none, none, none, none => (d, m)

/-! ### SERVICE (R312) -/

/-- A whole SERVICE message at the front device, by the operation in its aux field. -/
def serviceMessage (f : Nat) (h : Rx) (b : List Byte) (d : Dev) : Dev :=
  let fl := flowHandle d f
  if ! isFront d || decide (4194304 < b.length) then d else
  match h.aux.toNat / 2 ^ 56 with
  | 0x01 => serviceOrder fl b d
  | 0x02 => serviceCancel fl b d
  | 0x40 => serviceQuery fl b d
  | 0x41 => serviceMask fl b d
  | _ => d

/-! ### Delivery -/

/-- The check unit of the flow's home port takes a delivered message whole (R267). -/
def chkTake (f : Nat) (b : List Byte) (alive : Nat) (d : Dev) : Dev :=
  let u := (getFlow d f).port
  let x := getChk d u
  if x.flow ≠ f then d
  else chkBoundary u (setChk d u { x with value := if x.active then crcBytes x.crc x.value b else x.value, aliveLast := alive })

/-- Where a message's frames go. -/
def deliver (f : Nat) (h : Rx) (ms : List Rx) (d : Dev) (m : List Host.Cell) : Dev × List Host.Cell :=
  let b := ms.flatMap (·.payload)
  let d := chkTake f b h.alive d
  match h.typ with
  | 1 | 2 => (stepMessage f h ms d, m)
  | 3 => unitMessage f h b d m
  | 11 => (replayAsked f h d, m)
  | 12 => (serviceMessage f h b d, m)
  | _ => (d, m)

/-- A repeat or a skip of the alive counter (R256). -/
def aliveError (f : Nat) (h : Rx) (d : Dev) : Dev :=
  let x := getFlow d f
  let d := faultRec (portRec 14 x.domain d) (epRaise 5 f h.port h.sub d)
  if x.cls ≠ 1 then flowFail f d
  else peerReplay f (((fullStep d x.domain h.step).getD h.step)) d

/-- A whole message. -/
def message (f : Nat) (h : Rx) (ms : List Rx) (d : Dev) (m : List Host.Cell) : Dev × List Host.Cell :=
  let x := getFlow d f
  let d' := setFlow d f { x with aliveRx := some ((h.alive + 1) % 65536), msg := [] }
  match x.aliveRx with
  | some a => if a = h.alive then deliver f h ms d' m else (aliveError f h d', m)
  | none => deliver f h ms d' m

/-- One frame in PSN order: gathered, and its message delivered with the last; nothing once the flow has been retired. -/
def inFrame (f gen : Nat) (s : Dev × List Host.Cell) (r : Rx) : Dev × List Host.Cell :=
  let x := getFlow s.1 f
  if ! x.inUse || decide (x.gen ≠ gen) then s else
  let ms := x.msg ++ [r]
  let d := if x.msg.isEmpty && decide ((getChk s.1 x.port).flow = f) then chkBoundary x.port s.1 else s.1
  if r.flags.getLsbD 2 then message f (ms.headD r) ms d s.2
  else (setFlow d f { x with msg := ms }, s.2)

/-- An ACK after every 8 frames (R250). -/
def ackDue (f : Nat) (d : Dev) : Dev := let x := getFlow d f; if x.inUse && decide (8 ≤ x.sinceAck) then sendAck f d else d

/-- A numbered frame of a type on a flow. -/
def flowFrame (typ : Nat) (r : Rx) (d : Dev) (m : List Host.Cell) : Dev × List Host.Cell :=
  let a := arrive typ r d
  if ! a.2 then (a.1, m) else
  match frameFlow r a.1 with
  | (d, none) => (d, m)
  | (d, some f) =>
    let p := takePsn f r (acksOf f r d)
    let s := p.2.foldl (inFrame f (getFlow p.1 f).gen) (p.1, m)
    (ackDue f s.1, s.2)

def execDataFrame (r : Rx) (s : State) : R := onMem (flowFrame 1 r) s
def execContrib (r : Rx) (s : State) : R := onMem (flowFrame 2 r) s
def execUnitFrame (r : Rx) (s : State) : R := onMem (flowFrame 3 r) s
def execReplayReq (r : Rx) (s : State) : R := onMem (flowFrame 11 r) s
/-- The operation of a SERVICE message stands in its aux field; the four rows share the type (R312). -/
def execOrder (r : Rx) (s : State) : R := onMem (flowFrame 12 r) s
def execCancel (r : Rx) (s : State) : R := onMem (flowFrame 12 r) s
def execQuery (r : Rx) (s : State) : R := onMem (flowFrame 12 r) s
def execMaskWrite (r : Rx) (s : State) : R := onMem (flowFrame 12 r) s

/-! ### ACK, OPEN, OPEN_ACK, CLOSE (R247, R248, R250) -/

/-- An unnumbered frame of a type on a flow. -/
def plainFrame (typ : Nat) (act : Nat → Dev → Dev) (r : Rx) (d : Dev) : Dev :=
  let a := arrive typ r d
  if ! a.2 then a.1 else
  match frameFlow r a.1 with
  | (d, none) => d
  | (d, some f) => act f (acksOf f r d)

def execAckFrame (r : Rx) (s : State) : R := onDev (plainFrame 4 (fun _ d => d) r) s

/-- A side of a descriptor that names a flow index, with whatever generation. -/
def onFlow (space a f : Nat) : Bool := decide (space = 4) && decide (hIndex a = f)

def moveDesc (f h : Nat) (x : Desc) : Desc :=
  { x with src := if onFlow x.srcSpace x.src f then h else x.src, dst := if onFlow x.dstSpace x.dst f then h else x.dst }

def resumed (f h : Nat) (c : Chan) : Chan := { c with state := .running, cause := 0, early := [], rx := [], d := c.d.map (moveDesc f h) }

/-- Firmware resumes the transfers that the flow's failure ended (R189), under its new handle. -/
def resumeFlow (f : Nat) (d : Dev) : Dev :=
  let h := flowHandle d f
  let mine := fun (c : Chan) => reopenable c && decide (c.cause = 4) && c.d.any fun x => onFlow x.srcSpace x.src f || onFlow x.dstSpace x.dst f
  { d with dram := { d.dram with chans := d.dram.chans.map fun e => if mine e.2 then (e.1, resumed f h e.2) else e } }

/-- R247: answered where the index is neither quarantined nor in use; an index whose own OPEN is still unanswered counts as
not in use. An index of the plan keeps the plan's class. Firmware resumes what the flow's failure ended (R189, R252). -/
def openIn (r : Rx) (d : Dev) : Dev :=
  let a := arrive 5 r d
  let d := a.1
  if ! a.2 then d else
  let h := r.handle.toNat
  let f := hIndex h
  let x := getFlow d f
  let e := flowEntry d f
  if 49152 ≤ f ∨ hGen h ≠ 0 ∨ x.quarantine ∨ x.opened then
    { d with eth := { d.eth with staleDrops := (d.eth.staleDrops + 1) % 2 ^ 32 } }
  else
    let y := if x.inUse then x
      else { inUse := true, gen := nextGen x.gen, cls := (e.map (·.cls)).getD r.cls, port := ((e.map (·.port)).getD r.port), sub := ((e.map (·.sub)).getD r.sub),
             domain := ((e.map (·.domain)).getD 0) }
    sendOpenAck f (resumeFlow f (setFlow d f { y with opened := true, peer := r.aux.setWidth 32, src := r.src }))

def execOpenFrame (r : Rx) (s : State) : R := onDev (openIn r) s

def openAckIn (r : Rx) (f : Nat) (d : Dev) : Dev :=
  let x := getFlow d f
  if x.opened then d else resumeFlow f (setFlow d f { x with opened := true, peer := r.aux.setWidth 32 })

def execOpenAck (r : Rx) (s : State) : R := onDev (plainFrame 6 (openAckIn r) r) s

/-- CLOSE retires this end: what ran over the flow ends as at a failure (R187, R248, R291). -/
def closeIn (f : Nat) (d : Dev) : Dev :=
  let h := flowHandle d f
  let cs := d.dram.chans.filter fun e => e.2.d.any fun x => (decide (x.srcSpace = 4) && decide (x.src = h)) || (decide (x.dstSpace = 4) && decide (x.dst = h))
  let d := cs.foldl (fun d e => chanFault (e.1 / 16) (e.1 % 16) 4 0 d) (retireFlow f d)
  let d := { d with srv := { d.srv with adLoads := d.srv.adLoads.filter fun a => ! (decide (a.srcKind = 1) && decide (a.src = h)) } }
  refetch (haltRestocks d)

def execCloseFrame (r : Rx) (s : State) : R := onDev (plainFrame 7 closeIn r) s

end Sys2Proof.Machine
end

