-- ==== Sys2Proof/Machine/Bells.lean ====
section
/-! DEFINITION. Steps and bells (R123, R125, R146, R150-R152, R190, R191, R208-R218, R223, R261-R263, R435, R489-R491): the
device's done, the tree, and what a bell does. -/
namespace Sys2Proof.Machine

/-! ### Time (R208, R215, R216) -/

/-- Stretch levels in quarters. -/
def quarters (level : Nat) : Nat := match level with | 0 => 4 | 1 => 5 | 2 => 6 | 3 => 8 | 4 => 12 | _ => 16

def elapsed (d : Dev) (k : Nat) : Nat := d.tick - (getDom d k).bellTick
def baseOf (d : Dev) (k : Nat) : Nat := ((stepEntry d k).map (·.base)).getD 0
def allowOf (d : Dev) (k : Nat) : Nat := ((stepEntry d k).map (·.allow)).getD 0

/-- P_s - A has passed since the bell. -/
def atPace (d : Dev) (k : Nat) : Bool := decide (quarters (getDom d k).level * baseOf d k * 125 ≤ 4 * (elapsed d k * 125 + allowOf d k))

/-- P_s has passed since the bell. -/
def atPeriod (d : Dev) (k : Nat) : Bool := decide (quarters (getDom d k).level * baseOf d k ≤ 4 * elapsed d k)

/-- The need r, as 4 (t_w + A) against multiples of P_base: the stretch flag to raise, and whether the need passes x4. -/
def stretchNeed (d : Dev) (k : Nat) : Option Nat × Bool :=
  let x := getDom d k
  let need := 4 * ((x.workTick - x.bellTick) * 125 + allowOf d k)
  let p := 125 * baseOf d k
  if 4 * p < need then
    (match (List.range 6).find? fun l => decide (need ≤ quarters l * p) with
     | some l => (some (8 * k + 1 + l), false)
     | none => (some (8 * k + 6), true))
  else (if x.reserveUsed then some (8 * k + 1) else none, false)

def raiseStretch (k : Nat) (d : Dev) : Dev :=
  let q := stretchNeed d k
  let d := match q.1 with | some f => raiseFlag k f d | none => d
  if q.2 then raise .blStep 3 k 0 d else d

/-! ### Bell frames (R261, R262) -/

def flagBytes (l : List Nat) : List Byte :=
  (List.range 64).map fun o => (List.range 8).foldl (fun (b : Byte) j => if l.contains (8 * o + j) then b ||| (1#8 <<< j) else b) 0

def flagsOf (b : List Byte) : List Nat := (List.range 512).filter fun j => ((b.drop (16 + j / 8)).headD 0).getLsbD (j % 8)

def bellPayload (k level rank epoch kind : Nat) (flags : List Nat) : List Byte :=
  beBytes 1 k ++ beBytes 1 level ++ beBytes 2 rank ++ beBytes 4 epoch ++ beBytes 1 kind ++ List.replicate 7 (0 : Byte) ++ flagBytes flags ++ List.replicate 16 (0 : Byte)

/-- A bell frame on both paths of a tree edge. A path whose sub-port is not UP carries none. -/
def sendBell (typ rank stepNo : Nat) (payload : List Byte) (d : Dev) : Dev :=
  (((theDoc d).map fun p => bellPaths p rank).getD []).foldl (fun d e =>
    if (getSub d e.port e.sub).state ≠ .up then d else
    sendFrame { port := e.port, sub := e.sub, typ := typ, cls := 0, cart := 0, flags := 0, handle := 0, psn := 0, ack := 0, alive := 0, step := 0,
                aux := BitVec.ofNat 64 stepNo, payload := payload } d) d

def ownRank (d : Dev) : Nat := ((d.plan.plan).map (·.rank)).getD 0
def parentOf (d : Dev) (k : Nat) : Option Nat := (domEntry d k).bind (·.parent)
def childrenOf (d : Dev) (k : Nat) : List Nat := ((domEntry d k).map (·.children)).getD []
def isMachine (d : Dev) (k : Nat) : Bool := ((domEntry d k).map (·.machine)).getD false

def unionFlags (xs : List (List Nat)) : List Nat := xs.foldl (fun l x => x.foldl linsert l) []

/-- Flags of the device and of its children's dones; the least epoch of them. -/
def treeFlags (d : Dev) (k : Nat) : List Nat := let x := getDom d k; unionFlags (x.snapshot :: x.kids.map (·.2.2))
def treeEpoch (d : Dev) (k : Nat) : Nat := (getDom d k).kids.foldl (fun n c => min n c.2.1) d.epochs.cur

/-- BELL_UP of kind 0 to the parent (R209). -/
def sendUp (k : Nat) (d : Dev) : Dev :=
  match parentOf d k with
  | none => d
  | some p =>
    let fl := treeFlags d k
    sendBell 9 p (getDom d k).step (bellPayload k 0 (ownRank d) (treeEpoch d k) 0 fl) (modDom k (fun x => { x with sentUp := true, sentFlags := fl }) d)

/-- The last bell of a domain to one child. -/
def sendDown (k rank : Nat) (d : Dev) : Dev :=
  let x := getDom d k
  sendBell 10 rank x.step (bellPayload k x.level (ownRank d) x.bellEpoch 0 x.lastFlags) d

/-! ### The commit (R123, R125, R212) -/

/-- The ledger increments and overrun passes of a stall's step. -/
def commitStall (i : Nat) (d : Dev) : Dev :=
  let x := getStall d i
  let inc := x.led.filter fun e => ! x.masked.contains e.2.1
  let m := d.mkt
  { d with mkt := { m with ledger := inc.foldl (fun l e => mmod l e.1 {} fun y => ledgerAdd y e.2.2) m.ledger,
                           ledgerSum := inc.foldl (fun y e => ledgerAdd y e.2.2) m.ledgerSum,
                           outOverrun := (m.outOverrun + x.outPasses) % 2 ^ 32, wideOverrun := (m.wideOverrun + x.widePasses) % 2 ^ 32 } }

def commitStalls (k : Nat) (d : Dev) : Dev := (membersOf d k).foldl (fun d i => commitStall i d) d

/-- A member stall at the start of a step; its pending audits belong to no running slot any more (R129). -/
def stallStep0 (x : Stall) : Stall := { stallStart x with audits := x.audits.map fun a => { a with slot := 0x10000 } }

/-! ### What takes hold at a bell (R146, R191, R213, R389) -/

/-- A detour set is in force once the next bell of every running domain has come. -/
def detourAtBell (k : Nat) (d : Dev) : Dev :=
  match d.net.detourNext with
  | none => d
  | some (n, l) =>
    let l := linsert l k
    if (runningDoms d).all (fun j => l.contains j) then { d with net := { d.net with detours := 1 ||| (1#64 <<< n), detourNext := none } }
    else { d with net := { d.net with detourNext := some (n, l) } }

def patsAtBell (d : Dev) : Dev := match d.mkt.patsNext with | some p => { d with mkt := { d.mkt with pats := some p, patsNext := none } } | none => d

/-- The carried lines of a domain's stalls, as they stand. -/
def carriedLines (d : Dev) (k : Nat) : List (Nat × Line) :=
  (membersOf d k).flatMap fun i => (((theDoc d).map fun p => (queueMapOf p i).carried).getD []).map fun l => (i * 8192 + l, getLine d i l)

/-- Entry s of the journal holds the lines of bell s; the entry of two steps before is released. -/
def journalAtBell (k s : Nat) (d : Dev) : Dev :=
  let ls := carriedLines d k
  let j := d.net.journal.filter fun e => decide (e.domain ≠ k) || decide (s ≤ e.step + 1)
  let j := if j.any (fun e => decide (e.domain = k) && decide (e.step = s))
    then j.map fun e => if e.domain = k ∧ e.step = s then { e with lines := ls } else e
    else j ++ [{ domain := k, step := s, carts := [], lines := ls, opened := false }]
  { d with net := { d.net with journal := j } }

/-- The commit set of the step that a bell ends, into its entry: the ticket records and purses that the bell changes, and the ledger
increments (R190, R212). -/
def journalCommit (k s : Nat) (old new : Dev) : Dev :=
  let ts := ((new.srv.tickets.map (·.1) ++ old.srv.tickets.map (·.1)).eraseDups.map fun t => (t, ticketBytes new t)).filter fun e => decide (e.2 ≠ ticketBytes old e.1)
  let ps := (new.srv.customers.filter fun e => decide ((mget old.srv.customers e.1 {}).balance ≠ e.2.balance)).map fun e => (e.1, e.2.balance)
  let ls := (membersOf old k).flatMap fun i => ((getStall old i).led.filter fun e => ! (getStall old i).masked.contains e.2.1).map fun e => (e.1, e.2.2)
  { new with net := { new.net with journal := new.net.journal.map fun e =>
      if e.domain = k ∧ e.step = s then { e with commit := { tickets := ts, purses := ps, ledger := ls } } else e } }

/-- Carts that have waited for this bell go on. -/
def releaseHeld (k s : Nat) (d : Dev) : Dev :=
  let mine := d.net.held.filter fun h => decide (h.1 = k) && decide (h.2.1 = s)
  let rest := d.net.held.filter fun h => ! (decide (h.1 = k) && decide (h.2.1 ≤ s))
  mine.foldl (fun d h => portSend h.2.2 d) { d with net := { d.net with held := rest } }

/-- Message ids start at 0 in each step (R255). -/
def flowStep (k s : Nat) (x : Flow) : Flow :=
  if x.inUse && decide (x.domain = k) && decide (x.cls = 1) then { x with nextMsg := 0, gather := [], accepted := x.accepted.filter fun a => decide (s ≤ a.1) } else x

def flowsAtBell (k s : Nat) (d : Dev) : Dev := { d with eth := { d.eth with flows := d.eth.flows.map fun e => (e.1, flowStep k s e.2) } }

/-- Sequence numbers as a replay of this step restores them (R155). -/
def seqsAtBell (k : Nat) (d : Dev) : Dev :=
  let ms := membersOf d k
  { d with net := { d.net with seqs0 := (d.net.seqs0.filter fun q => ! replayKey ms q.1) ++ d.net.seqs.filter fun q => replayKey ms q.1 } }

/-- The domain in its new step. Late flags of the old one count in it, at a first bell also those raised since the domain stopped (R151);
a blocking recovery that still runs holds it (R379, R491). -/
def newStep (k s level epoch : Nat) (flags : List Nat) (first : Bool) (d : Dev) : Dev :=
  let x := getDom d k
  let late := if first then unionFlags [x.lateFlags, x.flags] else x.lateFlags
  let bad := late.contains (8 * k)
  let hold := blocked d k
  setDom d k { running := true, belled := true, step := s, level := level, bellTick := d.tick, workTick := d.tick, flags := late, lastFlags := flags, bellEpoch := epoch,
               halted := hold || bad, replaying := hold, faultRaised := bad }

/-- The domain that the instance of a device without the front role runs in. -/
def instDom (d : Dev) : Nat := ((((theDoc d).map (·.parts)).getD []).head?.map (·.domain)).getD 64

/-- The serving items of a bell (R347), on the front device and on the others. -/
def serveBell (k s : Nat) (first : Bool) (d : Dev) (m : List Host.Cell) : Dev × List Host.Cell :=
  if isFront d then (if frontDom d = k then frontBell s first d m else (d, m))
  else if instDom d = k then memberBell d m else (d, m)

def stopsAtBell (d : Dev) : Dev :=
  let d := if d.srv.drainNext && decide (d.state = .serving) then startDrain d else d
  if d.srv.stopNext && decide (countState d admitted = 0) then startStop d else d

/-- BL_STRETCH_CNT and BL_EVENT.stretch_seen of a bell that starts a step. -/
def countLevel (k level : Nat) (d : Dev) : Dev :=
  let d := { d with plan := { d.plan with stretch := mmod d.plan.stretch level 0 fun n => (n + 1) % 2 ^ 32 } }
  if level = 0 then d else raise .bl 3 k 0 d

/-- The parts of a bell that do not touch DRAM, once the domain stands in its new step s. -/
def bellChanges (k s : Nat) (d : Dev) : Dev :=
  let d := patsAtBell (detourAtBell k (fetchesAtBell (redirectsAtBell d)))
  let d := (membersOf d k).foldl (fun d i => modStall i stallStep0 d) d
  let d := seqsAtBell k (flowsAtBell k s (journalAtBell k s d))
  let d := if blocked d k then holdFlag k d else d
  stopsAtBell (fwAtBell k s (releaseHeld k s d))

/-- Bell s: the commit of the step before (none at a first bell, R489), then every change that waits for a bell, then the
new step; the bell goes on to the children. -/
def commitBell (k s level epoch : Nat) (flags : List Nat) (d : Dev) (m : List Host.Cell) : Dev × List Host.Cell :=
  let first := ! (getDom d k).running
  let d0 := d
  let last := (getDom d k).step
  let d := if first then d else commitStalls k d
  let d := countLevel k level (applyTrimMode (applyAllQueued (epochAtBell d)))
  let d := stockAtBell k s (modDom k (fun x => { x with bellEpoch := epoch }) d)
  let p := serveBell k s first d m
  let d := if first then p.1 else journalCommit k last d0 p.1
  let d := bellChanges k s (newStep k s level epoch flags first d)
  let d := if isFront d && decide (frontDom d = k) then frontEnd d else d
  ((childrenOf d k).foldl (fun d c => sendDown k c d) d, p.2)

/-- The domain that serves the instance's tickets. -/
def servingDom (d : Dev) : Nat := if isFront d then frontDom d else instDom d

/-- What a step of the serving domain that does not commit leaves behind (R214, R490): its tokens, masks, admission and reports are
discarded. -/
def discardSets (k : Nat) (d : Dev) : Dev :=
  if servingDom d ≠ k then d else
  modSrv (fun s => { s with sampled := [], maskRecs := [], admission := none, faultEnds := [], rejects := [], catLists := [], catGone := [], nextSchedule := [] }) d

/-- A bell with the FAULT flag: nothing commits, and the device enters FAULTED (R214). -/
def faultBell (k s level epoch : Nat) (flags : List Nat) (d : Dev) : Dev :=
  let d := raise .bl 2 k 0 (discardSets k d)
  let d := if level = 0 then d else raise .bl 3 k 0 d
  let d := modDom k (fun x => { x with belled := true, step := s, level := level, lastFlags := flags, bellEpoch := epoch }) d
  let d := (childrenOf d k).foldl (fun d c => sendDown k c d) d
  enterFaulted d

/-- A bell at this device. -/
def bellAt (k s level epoch : Nat) (flags : List Nat) (d : Dev) (m : List Host.Cell) : Dev × List Host.Cell :=
  if flags.contains (8 * k) then (faultBell k s level epoch flags d, m) else commitBell k s level epoch flags d m

/-- The level that a root sets from a vector (R218). -/
def levelOf (k : Nat) (flags : List Nat) : Nat := ((List.range 6).reverse.find? fun l => flags.contains (8 * k + 1 + l)).getD 0

/-- Record 25: a bell for step s + 1 before the device's own done (R490). -/
def earlyRec (k : Nat) (d : Dev) : Dev := faultRec { blankRec with kind := 25, stage := 6, unit := 12, step := (getDom d k).step } d

/-- A bell for step s + 1 before the device's own done (R490): a record, and FAULT with the done of the new step, in which the flags
already raised count (R151). A bell that carries FAULT itself brings the device to FAULTED (R214). -/
def bellEarly (k s level epoch : Nat) (flags : List Nat) (d : Dev) : Dev :=
  if flags.contains (8 * k) then faultBell k s level epoch flags (earlyRec k d) else
  let d := earlyRec k (discardSets k d)
  let x := getDom d k
  let d := countLevel k level (setDom d k { running := true, belled := true, step := s, level := level, bellTick := d.tick, workTick := d.tick, flags := x.flags, lastFlags := flags,
                                            bellEpoch := epoch, halted := true, faultRaised := x.faultRaised })
  raiseFault k ((childrenOf d k).foldl (fun d c => sendDown k c d) d)

/-! ### The tree (R209-R211) -/

/-- The root, with its own done and every child's, fires the bell; another device hands its done up. -/
def tryUp (k : Nat) (d : Dev) (m : List Host.Cell) : Dev × List Host.Cell :=
  let x := getDom d k
  if ! x.running || ! x.done || ! isMachine d k || ! (childrenOf d k).all (fun c => x.kids.any fun e => decide (e.1 = c)) then (d, m)
  else match parentOf d k with
    | none => let fl := treeFlags d k; bellAt k (x.step + 1) (levelOf k fl) (treeEpoch d k) fl d m
    | some _ => if x.sentUp && (treeFlags d k).all (fun f => x.sentFlags.contains f) then (d, m) else (sendUp k d, m)

/-- Readiness (R211, R214): in SERVING, without a running step, no FAULT raised, every child heard. -/
def isReady (d : Dev) (k : Nat) : Bool :=
  let x := getDom d k
  decide (d.state = .serving) && ! x.running && ! x.faultRaised && (childrenOf d k).all fun c => x.readies.any fun r => decide (r.rank = c)

def readyStep (d : Dev) (k : Nat) : Nat := (getDom d k).readies.foldl (fun n r => max n r.proposal) (proposal d k)
def readyEpoch (d : Dev) (k : Nat) : Nat := (getDom d k).readies.foldl (fun n r => min n r.epoch) d.epochs.cur

def sendReady (k : Nat) (d : Dev) : Dev :=
  match parentOf d k with
  | none => d
  | some p =>
    let s := readyStep d k
    sendBell 9 p s (bellPayload k 0 (ownRank d) (readyEpoch d k) 1 []) (modDom k (fun x => { x with readySent := some s }) d)

/-- A ready device reports, once; a ready root fires the first bell. -/
def tryReady1 (k : Nat) (d : Dev) (m : List Host.Cell) : Dev × List Host.Cell :=
  if ! isMachine d k || ! isReady d k then (d, m)
  else match parentOf d k with
    | none => bellAt k (readyStep d k) 0 (readyEpoch d k) [] d m
    | some _ => if (getDom d k).readySent = some (readyStep d k) then (d, m) else (sendReady k d, m)

def startDoms (d : Dev) (m : List Host.Cell) : Dev × List Host.Cell := (planDomains d).foldl (fun s e => tryReady1 e.num s.1 s.2) (d, m)

/-- A bell may retire arrays: the marks go into their cells (R47). -/
def onBell (f : Dev → List Host.Cell → Dev × List Host.Cell) (s : State) : R :=
  let d := tickCycle s.dev
  let p := f d s.mem
  .next { s with dev := p.1, mem := p.2, nv := markRetirements d p.1 s.nv }

def serveStart (c : Cmd) (d : Dev) (m : List Host.Cell) : Dev × List Host.Cell :=
  let d' := hostCmd 0x22 c (fun d => ok0 (enter .serving d)) d
  if d'.state = .serving ∧ d.state ≠ .serving then startDoms d' m else (d', m)

def execServeStart (c : Cmd) (s : State) : R := onBell (serveStart c) s

/-! ### DEVICE_DONE, PACE_POINT, LOCAL_BELL -/

/-- The combining tree of a domain works while the router columns of its stalls have their clocks (R14). -/
def treeClocked (k : Nat) (f : Dev → List Host.Cell → Dev × List Host.Cell) (d : Dev) (m : List Host.Cell) : Dev × List Host.Cell :=
  if (membersOf d k).all (columnOn d) then f d m else (d, m)


/-- Every member stall has raised its done; a covered stall has left the combination (R380, R496). -/
def stallsDone (d : Dev) (k : Nat) : Bool := (membersOf d k).all fun i => (getStall d i).done || d.net.covered.contains i

/-- The work of the step has ended, the counting house's included (R150, R325, R379, R436). -/
def workDone (d : Dev) (k : Nat) : Bool :=
  let x := getDom d k
  stallsDone d k && ! x.replaying && ! x.halted && ! blocked d k && ! d.sec.switching && (! (isFront d && decide (frontDom d = k)) || d.srv.schedSent) &&
    (decide (instDom d ≠ k) || reportReady d)

/-- The device's own done rises and the root takes its snapshot (R151, R216). -/
def riseDone (k : Nat) (d : Dev) : Dev :=
  let d := if instDom d = k then reportUp k d else d
  let d := if workDone d k then raiseStretch k d else d
  modDom k (fun x => { x with done := true, snapshot := x.flags }) d

/-- A parity error on a bell wire: the done does not pass, record 19, FAULT (R152). -/
def bellWireError (k : Nat) (d : Dev) : Dev :=
  raiseFault k (faultRec { blankRec with kind := 19, stage := 6, unit := 12, step := (getDom d k).step } (raise .bl 1 k 0 d))

/-- After the done has risen: the end of a replay on a peer's request, whose flags follow in a further BELL_UP (R491). -/
def postDone (k : Nat) (d : Dev) : Dev :=
  if (getDom d k).post && workDone d k then modDom k (fun x => { x with post := false }) (raiseStretch k d) else d

def deviceDone (k : Nat) (wireError : Bool) (d : Dev) (m : List Host.Cell) : Dev × List Host.Cell :=
  let x := getDom d k
  if ! x.running then (d, m)
  else if x.done then tryUp k (postDone k d) m
  else if ! (x.faultRaised || (x.paced && workDone d k)) then (d, m)
  else if wireError then (bellWireError k d, m)
  else tryUp k (riseDone k (flushFlows k d)) m

def execDeviceDone (domain : Nat) (wireError : Bool) (s : State) : R := onBell (treeClocked domain (deviceDone domain wireError)) s

/-- The hold of R208 ends. -/
def execPacePoint (domain : Nat) (s : State) : R :=
  onDev (fun d => if (getDom d domain).running && atPace d domain then modDom domain (fun x => { x with paced := true }) d else d) s

/-- The on-die root of a local domain fires: a first bell once the device is ready, another once its done has risen and P_s has
passed (R150, R208, R211). -/
def localBell (k : Nat) (d : Dev) (m : List Host.Cell) : Dev × List Host.Cell :=
  let x := getDom d k
  if (domEntry d k).isNone || isMachine d k then (d, m)
  else if ! x.running then (if isReady d k then bellAt k (proposal d k) 0 d.epochs.cur [] d m else (d, m))
  else if x.done && atPeriod d k then bellAt k (x.step + 1) (levelOf k x.snapshot) d.epochs.cur x.snapshot d m
  else (d, m)

def execLocalBell (domain : Nat) (s : State) : R := onBell (treeClocked domain (localBell domain)) s

/-! ### BELL_UP, BELL_DOWN and the resends (R209-R211, R262, R263, R491) -/

/-- A done, or a further one with flags not yet received. -/
def kidDone (k rank epoch : Nat) (flags : List Nat) (d : Dev) : Dev × Bool :=
  let x := getDom d k
  match x.kids.find? fun e => decide (e.1 = rank) with
  | none => (setDom d k { x with kids := x.kids ++ [(rank, epoch, flags)] }, true)
  | some e =>
    if flags.all (fun f => e.2.2.contains f) then (d, false)
    else (setDom d k { x with kids := x.kids.map fun c => if c.1 = rank then (rank, c.2.1, unionFlags [c.2.2, flags]) else c }, true)

def kidReady (k rank s epoch : Nat) (d : Dev) : Dev :=
  modDom k (fun x => { x with readies := x.readies.filter (fun r => decide (r.rank ≠ rank)) ++ [{ rank := rank, proposal := s, epoch := epoch }] }) d

def bellUp (r : Rx) (d : Dev) (m : List Host.Cell) : Dev × List Host.Cell :=
  let a := arrive 9 r d
  let d := a.1
  if ! a.2 then (d, m) else
  let k := leAt r.payload 0 1
  let rank := beAt r.payload 2 2
  let epoch := beAt r.payload 4 4
  let s := r.aux.toNat
  let x := getDom d k
  let dup := portCount r.port 3 d
  if r.payload.length ≠ 96 then (portCount r.port 8 d, m)
  else if ! isMachine d k || ! (childrenOf d k).contains rank then (d, m)
  else if leAt r.payload 8 1 = 1 then
    (if x.running then (dup, m) else tryReady1 k (kidReady k rank s epoch d) m)
  else if leAt r.payload 8 1 ≠ 0 then (d, m)
  else if x.running && decide (s = x.step) then
    (match kidDone k rank epoch (flagsOf r.payload) d with
     | (d, true) => tryUp k d m
     | (_, false) => (dup, m))
  else if x.belled && decide (s + 1 = x.step) then (sendDown k rank dup, m)
  else (if x.running then dup else d, m)

def execBellUp (r : Rx) (s : State) : R := onBell (bellUp r) s

def bellDown (r : Rx) (d : Dev) (m : List Host.Cell) : Dev × List Host.Cell :=
  let a := arrive 10 r d
  let d := a.1
  if ! a.2 then (d, m) else
  let k := leAt r.payload 0 1
  let level := min 5 (leAt r.payload 1 1)
  let epoch := beAt r.payload 4 4
  let fl := flagsOf r.payload
  let s := r.aux.toNat
  let x := getDom d k
  if r.payload.length ≠ 96 then (portCount r.port 8 d, m)
  else if ! isMachine d k || (parentOf d k).isNone || decide (leAt r.payload 8 1 ≠ 0) then (d, m)
  else if ! steps d.state then (if x.belled && decide (s ≠ x.step + 1) then portCount r.port 3 d else d, m)
  else if x.running then
    (if s ≠ x.step + 1 then (portCount r.port 3 d, m)
     else if ! x.done then (bellEarly k s level epoch fl d, m)
     else bellAt k s level epoch fl d m)
  else if s < proposal d k then (portCount r.port 3 d, m)
  else bellAt k s level epoch fl d m

def execBellDown (r : Rx) (s : State) : R := onBell (bellDown r) s

def execBellResend (domain : Nat) (s : State) : R :=
  onDev (fun d => let x := getDom d domain; if x.running && x.sentUp then sendUp domain d else d) s

def execReadinessResend (domain : Nat) (s : State) : R :=
  onDev (fun d => let x := getDom d domain; if isReady d domain && x.readySent.isSome then sendReady domain d else d) s

end Sys2Proof.Machine
end

