-- ==== Sys2Proof/Machine/Link.lean ====
section
/-! DEFINITION. Sub-ports: link-up, the slice probe, hold-down, loss of link, priority flow control, LLDP and frames that do not
conform (R233, R234, R237-R240, R442, R443). -/
namespace Sys2Proof.Machine

/-! ### The probe (R238, R443) -/

def randomBytes (ix : Nat) : List Byte := digestBytes (Config.random ix)

/-- Payload of part 0 with a nonce. -/
def part0 (d : Dev) (nv : NonVol) (n m nonce : Nat) : List Byte :=
  let p := d.plan.plan
  beBytes 8 ((p.map (·.sliceId.toNat)).getD 0) ++ beBytes 8 ((p.map (·.planId.toNat)).getD 0) ++ beBytes 2 ((p.map (·.rank)).getD 0) ++ beBytes 1 n ++ beBytes 1 m ++
    randomBytes nonce ++ List.replicate 12 (0 : Byte) ++ kemKey nv

def sendProbe (n m part : Nat) (payload : List Byte) (d : Dev) : Dev :=
  sendFrame { port := n, sub := m, typ := 8, cls := 0, cart := 0, flags := 0, handle := 0, psn := 0, ack := 0, alive := 0, step := 0,
              aux := BitVec.ofNat 64 part, payload := payload } d

/-- A fresh part 0. -/
def freshProbe (nv : NonVol) (n m : Nat) (d : Dev) : Dev :=
  let p := takeFree d
  let d := modSub n m (fun x => { x with nonce := p.1 }) p.2
  sendProbe n m 0 (part0 d nv n m p.1) d

/-- Encapsulations and decapsulations are ML-KEM-768's (log 9): 7 the ciphertext and 8 the secret of a random value to a key, 9
the secret that our key finds in a ciphertext. -/
def kemCipher (ix : Nat) (key : List Byte) : List Byte := sub (Config.identity 7 (randomBytes ix ++ key)) 0 1088
def kemSecret (ix : Nat) (key : List Byte) : List Byte := sub (Config.identity 8 (randomBytes ix ++ key)) 0 32
def kemOpen (nv : NonVol) (ct : List Byte) : List Byte := sub (Config.identity 9 (digestBytes (cdi0 nv) ++ ct)) 0 32

def peerKey (part0 : List Byte) : List Byte := sub part0 64 1184

/-- Parts 1-3 in answer to a peer's part 0: the report over its nonce and our own part 0, and the encapsulation to its key. -/
def answerProbe (nv : NonVol) (n m : Nat) (peer : List Byte) (d : Dev) : Dev :=
  let p := takeFree d
  let d := modSub n m (fun x => { x with encap := p.1 }) p.2
  let rep := report d nv 1 n m (digestAt peer 20) (sha3 (part0 d nv n m (getSub d n m).nonce))
  sendProbe n m 3 (kemCipher p.1 (peerKey peer)) (sendProbe n m 2 (sub rep 3860 3860) (sendProbe n m 1 (sub rep 0 3860) d))

/-- K (R443): the secrets and nonces of the side with the lower rank come first. -/
def linkKey (d : Dev) (nv : NonVol) (n m : Nat) : Digest :=
  let x := getSub d n m
  let own := ((d.plan.plan).map (·.rank)).getD 0
  let p0 := aget x.parts 0 []
  let mine := kemSecret x.encap (peerKey p0)
  let theirs := kemOpen nv (aget x.parts 3 [])
  let nm := randomBytes x.nonce
  let nt := sub p0 20 32
  let lo := decide (own < beAt p0 16 2)
  let ids := beBytes 8 (((d.plan.plan).map (·.sliceId.toNat)).getD 0) ++ beBytes 8 (((d.plan.plan).map (·.planId.toNat)).getD 0)
  sha3 (asciiBytes "BNGF-LINK" ++ (if lo then mine ++ theirs ++ nm ++ nt else theirs ++ mine ++ nt ++ nm) ++ ids)

/-- HELD_DOWN (R239): the port's reason, and EP_EVENT.held_down. A sub-port already held keeps its reason. -/
def holdDown (n m reason : Nat) (d : Dev) : Dev :=
  if (getSub d n m).state = .heldDown then modSub n m (fun x => { x with parts := [] }) d
  else
    let d := modSub n m (fun x => { x with state := .heldDown, parts := [], session := none, txq := [] }) d
    epRaise 1 0xFFFF n m { d with eth := { d.eth with reasons := mput d.eth.reasons n reason } }

/-! ### LINK_TRAINED, PROBE, PROBE_VERIFIED and the timers -/

/-- A role-1 sub-port probes; a role-2 sub-port takes no probe and is UP (R239). The verify runs where the plan asks for
preemption. -/
def linkTrained (nv : NonVol) (n m : Nat) (preempt : Bool) (d : Dev) : Dev :=
  if (getSub d n m).state ≠ .training then d else
  let want := (portEntry d n m).any fun e => e.flags.getLsbD 4
  let d := if want && ! preempt then epRaise 8 0xFFFF n m d else d
  let d := modSub n m (fun x => { x with preempt := want && preempt }) d
  if subRole d n m = 2 then modSub n m (fun x => { x with state := .up }) d
  else if subRole d n m = 1 then freshProbe nv n m (modSub n m (fun x => { x with state := .probing, parts := [] }) d)
  else d

def execLinkTrained (port sub : Nat) (preempt : Bool) (s : State) : R := onDev (clocked (fun d => ringOn d port) (linkTrained s.nv port sub preempt)) s

/-- A probe frame passes in PROBING, UP and HELD_DOWN. Part 0 is answered; the parts are gathered until the sub-port is UP. -/
def probeIn (nv : NonVol) (r : Rx) (d : Dev) : Dev :=
  let x := getSub d r.port r.sub
  if x.state = .down ∨ x.state = .training then d else
  let d := portCount r.port 1 d
  if r.crc ≠ rxCrc r then epRaise 7 0xFFFF r.port r.sub (portCount r.port 6 d)
  else if r.typ ≠ 8 ∨ r.cls ≠ 0 then portCount r.port 8 d
  else if subRole d r.port r.sub = 2 then holdDown r.port r.sub 6 d
  else
    let d := if r.ce then portCount r.port 5 d else d
    let part := r.aux.toNat % 256
    let d := if x.state = .up then d else modSub r.port r.sub (fun x => { x with parts := aset x.parts part r.payload }) d
    if part = 0 then answerProbe nv r.port r.sub r.payload d else d

def execProbe (r : Rx) (s : State) : R := onDev (clocked (fun d => ringOn d r.port) (probeIn s.nv r)) s

/-- The first check of R239 that a complete probe fails, in the order of the table. -/
def probeFault (d : Dev) (e : PortEntry) (p0 : List Byte) (reportOk : Bool) : Option Nat :=
  let p := d.plan.plan
  ([(decide (beAt p0 0 8 = (p.map (·.sliceId.toNat)).getD 0), 1), (decide (beAt p0 8 8 = (p.map (·.planId.toNat)).getD 0), 2), (decide (beAt p0 16 2 = e.peerRank), 3),
    (reportOk, 4), (decide (beAt p0 18 1 = e.peerPort) && decide (beAt p0 19 1 = e.peerSub), 7)].find? fun c => ! c.1).map (·.2)

def probeVerified (nv : NonVol) (n m : Nat) (reportOk : Bool) (d : Dev) : Dev :=
  let x := getSub d n m
  if (x.state ≠ .probing ∧ x.state ≠ .heldDown) ∨ subRole d n m ≠ 1 ∨ ¬ (List.range 4).all (fun k => x.parts.any fun p => decide (p.1 = k)) then d else
  match portEntry d n m with
  | none => d
  | some e =>
    match probeFault d e (aget x.parts 0 []) reportOk with
    | some r => holdDown n m r (if r = 4 then raise .sc 7 0 0 d else d)
    | none =>
      let key := linkKey d nv n m
      pathsUp n m (modSub n m (fun y => { y with state := .up, parts := [], session := some key, rxCounter := 0 }) d)

def execProbeVerified (port sub : Nat) (reportOk : Bool) (s : State) : R := onDev (clocked (fun d => ringOn d port) (probeVerified s.nv port sub reportOk)) s

def execProbeTimeout (port sub : Nat) (s : State) : R :=
  onDev (fun d => if (getSub d port sub).state = .probing ∧ ringOn d port then holdDown port sub 5 d else d) s

def execHeldDownProbeResend (port sub : Nat) (s : State) : R :=
  onDev (fun d => if (getSub d port sub).state = .heldDown ∧ ringOn d port then freshProbe s.nv port sub d else d) s

/-! ### LINK_LOSS (R240, R252, R291) -/

/-- The keys of the session are erased, and frames that waited are lost. -/
def linkLoss (n m : Nat) (d : Dev) : Dev :=
  let x := getSub d n m
  if x.state = .down then d else
  let d := epRaise 0 0xFFFF n m (setSub d n m { state := .training, partner := x.partner })
  refetch (haltRestocks (pathsLost n m d))

def execLinkLoss (port sub : Nat) (s : State) : R := onDev (linkLoss port sub) s

/-! ### FRAME_DROP, PFC_FRAME, LLDP_FRAME -/

/-- The counter of a frame that does not conform, 7 or 8. -/
def dropCounter (d : Dev) (n m : Nat) (why : DropWhy) : Option Nat :=
  let held := decide ((getSub d n m).state = .heldDown)
  match why with
  | .badFcs => some (if held then 7 else 8)
  | .notUp => if held then some 7 else none
  | .notAllowed | .wrongClass => if held || decide (subRole d n m = 2) then some 7 else none
  | _ => if held then some 7 else some 8

/-- No flag and no record (R234). -/
def frameDrop (n m : Nat) (why : DropWhy) (d : Dev) : Dev :=
  let st := (getSub d n m).state
  if st = .down ∨ st = .training then d else
  let d := if why = .badFcs then d else portCount n 1 d
  match dropCounter d n m why with | some k => portCount n k d | none => d

def execFrameDrop (port sub : Nat) (why : DropWhy) (s : State) : R := onDev (clocked (fun d => ringOn d port) (frameDrop port sub why)) s

/-- Classes whose flow control the plan enables, and the frames that go on once theirs is resumed. -/
def pfcIn (n m paused : Nat) (d : Dev) : Dev :=
  let x := getSub d n m
  if x.state = .heldDown then portCount n 7 (portCount n 1 d)
  else if x.state ≠ .up then d else
  let on := ((portEntry d n m).map (·.flags.toNat / 2 % 8)).getD 0
  let p := paused &&& on
  let go := x.txq.filter fun t => ! bitOf p (t.cls - 1)
  go.foldl (fun d t => putFrame t d) (setSub d n m { x with paused := p, txq := x.txq.filter fun t => bitOf p (t.cls - 1) })

def execPfcFrame (port sub : Nat) (paused : Nat) (s : State) : R := onDev (clocked (fun d => ringOn d port) (pfcIn port sub paused)) s

/-- The partner's capability; every other TLV is ignored. LLDP passes in PROBING too (R237). -/
def execLldpFrame (port sub : Nat) (preempt : Bool) (s : State) : R :=
  onDev (fun d =>
    let x := getSub d port sub
    if ! ringOn d port then d
    else if x.state = .probing ∨ x.state = .up then setSub (portCount port 1 d) port sub { x with partner := preempt }
    else if x.state = .heldDown then portCount port 7 (portCount port 1 d) else d) s

end Sys2Proof.Machine
end

