-- ==== Sys2Proof/Machine/Regs.lean ====
section
/-! DEFINITION. What the registers read as (R403-R405 and the register rules of each section), and the I3C sideband
(R422-R424). -/
namespace Sys2Proof.Machine

/-- Fields from bit 0 up: (value, width). -/
def pack : List (Nat × Nat) → Nat
  | [] => 0
  | (v, w) :: r => v % 2 ^ w + 2 ^ w * pack r

/-- Word w (0-59) of a bit per stall (R159, R394). -/
def stallBits (l : List Nat) (w : Nat) : Nat := pack ((List.range 32).map fun j => (b2n (l.contains (32 * w + j)), 1))

/-! ### Event registers -/

/-- Offset of the flags, of _LAST where there is one, of the counters, and how many counters (R76, R107, R132, R158, R161,
R194, R231, R269, R307, R350, R392, R404, R445, R469). -/
def evMap : List (EvId × Nat × Option Nat × Nat × Nat) :=
  [(.cv, 0x1000010, some 0x1000018, 0x1000020, 8), (.cvDp, 0x1000080, some 0x1000088, 0x10000A0, 8),
   (.cvQuant, 0x10000C0, some 0x10000C8, 0x10000E0, 8), (.chNet, 0x2000, some 0x2008, 0x2020, 8),
   (.bl, 0x100040, none, 0x100060, 8), (.blStep, 0x100800, none, 0x100820, 8),
   (.pt, 0x3000000, some 0x3000008, 0x3000020, 8), (.ep, 0x300000, some 0x300008, 0x300020, 16),
   (.st, 0x200000, some 0x200008, 0x200020, 8), (.tg, 0x3400000, some 0x3400008, 0x3400020, 8),
   (.chFault, 0x4000, some 0x4008, 0x4020, 9), (.wb, 0x400000, none, 0x400020, 9), (.sc, 0x500000, none, 0x500020, 8),
   (.chHost, 0x20, none, 0x40, 8)]

/-- The _LAST register of an event register. -/
def lastWord (e : EvId) (r : EvReg) : Nat :=
  match e with
  | .ep => pack [(r.lastAux, 16), (r.lastIdx, 4), (r.lastAux / 65536, 3), (0, 1), (r.lastBit, 4)]
  | .pt => pack [(r.lastIdx, 8), (r.lastAux, 4), (0, 4), (r.lastBit, 3)]
  | .tg => pack [(r.lastIdx, 21), (0, 3), (r.lastBit, 3)]
  | _ => pack [(r.lastIdx, 16), (r.lastBit, 4)]

def evRead (d : Dev) (off : Nat) : Option Nat :=
  evMap.findSome? fun (e, o, l, c, n) =>
    if off = o then some (getEv d e).flags.toNat
    else if some off = l then some (lastWord e (getEv d e))
    else if c ≤ off ∧ off < c + 4 * n ∧ off % 4 = 0 then some (mget (getEv d e).cnt ((off - c) / 4) 0)
    else none

/-! ### CH (R159, R228, R229, R392-R395, R404, R412) -/

def chState (d : Dev) : Nat := pack [(stateCode d.state, 4), (b2n (fwRuns d), 1), (0, 3), (stateCode d.previous, 4)]

def planStatus (d : Dev) : Nat :=
  pack [(b2n d.plan.plan.isSome, 1), (b2n d.plan.validating, 1), (b2n d.plan.rejected, 1), (0, 5), (d.plan.check, 8), (d.plan.sect, 5)]

/-- CH_RECOVERY (R393): copies of a fence recovery are no background copies. -/
def recoveryWord (d : Dev) : Nat :=
  let ms := match d.net.recoveries with
    | [] => 0
    | r :: _ => min 0xFFFF ((d.tick - r.startTick) / 8000)
  let copies := d.net.copies.filter fun c => ! d.net.recoveries.any fun r => r.moves.any fun m => decide (m.1 = c.array)
  pack [(b2n (! d.net.recoveries.isEmpty), 1), (min 16 copies.length, 5), (0, 2), (ms, 16)]

/-- A register of a ring (R405), by offset in its range. -/
def ringRead (i o : Nat) (d : Dev) : Nat :=
  let r := getRing d i
  match o with
  | 0x00 => r.base.toNat % 2 ^ 32
  | 0x04 => r.base.toNat / 2 ^ 32
  | 0x08 => pack [(b2n r.enable, 1), (0, 7), (r.log2, 4)]
  | 0x0C => r.tail
  | 0x10 => r.head
  | 0x14 => pack [(b2n r.running, 1), (b2n r.error, 1), (b2n r.job.isSome, 1)]
  | 0x18 => r.cplBase.toNat % 2 ^ 32
  | 0x1C => r.cplBase.toNat / 2 ^ 32
  | 0x20 => pack [(ringVector i r, 6), (b2n r.irqEn, 1), (0, 1), (r.count, 8), (r.time, 16)]
  | 0x24 => r.cplHead
  | 0x28 => r.cplTail
  | _ => 0

def msixRead (o : Nat) (d : Dev) : Nat :=
  if o < 0x400 then (if o % 16 = 12 then b2n (! d.host.msixUnmasked.getLsbD (o / 16)) else (mget d.host.msixTable o 0).toNat)
  else if o = 0x1000 then d.host.msixPending.toNat % 2 ^ 32
  else if o = 0x1004 then d.host.msixPending.toNat / 2 ^ 32
  else 0

def chRead (nv : NonVol) (d : Dev) (off : Nat) : Nat :=
  if off = 0x0 then 0xA056 + 65536 * (nv.stepping % 16)
  else if off = 0x10 then chState d
  else if off = 0x80 then (summary d).toNat
  else if off = 0x84 then d.host.irqMask.toNat
  else if 0x1000 ≤ off ∧ off < 0x1400 then ringRead ((off - 0x1000) / 0x80) ((off - 0x1000) % 0x80) d
  else if 0x2100 ≤ off ∧ off < 0x21F0 then stallBits d.net.fenced ((off - 0x2100) / 4)
  else if 0x2200 ≤ off ∧ off < 0x22F0 then stallBits d.net.routerFail ((off - 0x2200) / 4)
  else if off = 0x3000 then planStatus d
  else if off = 0x3004 then d.plan.item
  else if off = 0x3018 then (match d.plan.plan with | some p => pack [(p.rank, 16), (p.size, 12)] | none => 0)
  else if off = 0x4004 then d.faults.head
  else if off = 0x400C then d.faults.readSeq
  else if off = 0x4010 then recoveryWord d
  else if off = 0x4060 then pack [(d.mkt.patPeriod, 8), (b2n d.mkt.patData, 1)]
  else if off = 0x4064 then pack [((d.mkt.pats.map fun p => p.entries.length).getD 0, 16), (d.mkt.patSweeps, 16)]
  else if off = 0x4068 then patSerial d
  else if 0x4100 ≤ off ∧ off < 0x41F0 then stallBits (d.net.covered.filter fun f => (coverOf d f).isSome) ((off - 0x4100) / 4)
  else 0

/-! ### BL (R160, R162, R230, R231) -/

/-- The domain of a machine flag: its own one, else the one that the plan assigns it to (R150, R217). -/
def flagDom (d : Dev) (f : Nat) : Option Nat :=
  if (domEntry d (f / 8)).isSome && decide (f % 8 ≠ 7) then some (f / 8)
  else ((((theDoc d).map (·.flagMap)).getD []).find? (·.1 = f)).map (·.2)

/-- Machine flag f as the most recent bell of its domain delivered it. -/
def flagSeen (d : Dev) (f : Nat) : Bool := match flagDom d f with | some k => (getDom d k).lastFlags.contains f | none => false

def blRead (d : Dev) (o : Nat) : Nat :=
  if o = 0 then pack [(b2n (! (runningDoms d).isEmpty), 1), ((planDomains d).length, 7)]
  else if 0x400 ≤ o ∧ o < 0x440 then pack ((List.range 32).map fun j => (b2n (flagSeen d (32 * ((o - 0x400) / 4) + j)), 1))
  else if 0x600 ≤ o ∧ o < 0x700 then
    let k := (o - 0x600) / 4
    let x := getDom d k
    if x.belled then pack [(((stepEntry d k).map (·.base)).getD 0, 16), (x.level, 3)] else 0
  else if 0x880 ≤ o ∧ o < 0x898 then mget d.plan.stretch ((o - 0x880) / 4) 0
  else 0

/-! ### ST (R308, R309) -/

def stPart (d : Dev) (p w : Nat) : Nat :=
  let x := getPart d p
  match w with
  | 0 => x.live
  | 1 => x.side
  | 2 => pack [(x.sideState, 3), (b2n x.stopped, 1), (b2n x.armed.isSome, 1), ((x.armed.map (·.2.1)).getD 0, 1),
               (b2n (x.restock.any (·.halted)), 1)]
  | 3 => (x.armed.map (·.2.2)).getD 0
  | 4 => pinned d p x.live
  | 5 => pinned d p x.side
  | 6 => if x.restock.isSome then pack [(x.doneCount, 16), (x.totalCount, 16)] else 0
  | _ => 0

def stRead (d : Dev) (o : Nat) : Nat :=
  if o = 0x40 then pack [(b2n d.stock.takeRunning, 1), (b2n d.stock.takeDone, 1), (b2n (shelfOk d), 1), (0, 13), (min 0xFFFF (missingAll d), 16)]
  else if 0x100 ≤ o ∧ o < 0x300 then stPart d ((o - 0x100) / 32) ((o - 0x100) % 32 / 4)
  else 0

/-! ### EP (R270-R273) -/

def subCode : SubState → Nat
  | .down => 0 | .training => 1 | .probing => 2 | .up => 3 | .heldDown => 4

def portStatus (d : Dev) (n : Nat) : Nat :=
  let ways := (((theDoc d).map (·.ports)).getD []).find? (·.port = n) |>.map (·.ways) |>.getD 1
  pack ((List.range 8).map (fun m => (subCode (getSub d n m).state, 3)) ++
    [(match ways with | 1 => 0 | 2 => 1 | 4 => 2 | _ => 3, 2), (b2n ((List.range 8).any fun m => (getSub d n m).preempt), 1), (0, 1), (mget d.eth.reasons n 0, 3)])

def portCnt (d : Dev) (n k : Nat) : Nat :=
  if k < 7 then mget d.eth.cnts (n * 16 + k) 0
  else if k = 7 then pack [(mget d.eth.cnts (n * 16 + 7) 0, 16), (mget d.eth.cnts (n * 16 + 8) 0, 16)]
  else 0

def chkChan (d : Dev) (u : Nat) : Chan := getChan d (u - 12) (getChk d u).channel

/-- EP_CHK_VALUE: a port unit's own value, or the check value of the named channel. -/
def chkValue (d : Dev) (u : Nat) : W64 := if u < 12 then (getChk d u).value else (chkChan d u).check

def chkRead (d : Dev) (u o : Nat) : Nat :=
  let x := getChk d u
  let c := chkChan d u
  let runs := decide (c.state = .running) && c.d.any (·.check)
  match o with
  | 0 => if u < 12 then pack [(b2n x.enable, 1), (x.crc, 2), (0, 1), (x.flow, 16)]
         else pack [(b2n runs, 1), ((c.d.map (·.crcCode)).getD 0, 2), (0, 17), (x.channel, 4)]
  | 4 => if u < 12 then pack [(b2n x.active, 1), (0, 15), (x.aliveLast, 16)] else b2n runs
  | 8 => (chkValue d u).toNat % 2 ^ 32
  | _ => (chkValue d u).toNat / 2 ^ 32

def epRead (d : Dev) (o : Nat) : Nat :=
  if o = 0x80 then d.eth.staleDrops
  else if 0x100 ≤ o ∧ o < 0x130 then portStatus d ((o - 0x100) / 4)
  else if 0x1000 ≤ o ∧ o < 0x1300 then portCnt d ((o - 0x1000) / 64) ((o - 0x1000) % 64 / 4)
  else if 0x10000 ≤ o ∧ o < 0x10000 + 16 * 268 then chkRead d ((o - 0x10000) / 16) ((o - 0x10000) % 16)
  else 0

/-! ### WB (R470-R473) -/

def wbRead (d : Dev) (o : Nat) : Nat :=
  if o = 0x60 then (wbCond d).toNat
  else if o = 0x64 then d.wb.alertMask.toNat
  else if o = 0x68 then pack [((dieTemp d).1, 12), (d.therm.level, 3), (0, 1), (hbmMax d, 8), ((dieTemp d).2, 6)]
  else if o = 0x6C then pack [(d.wb.edges, 12), (0, 4), (d.wb.overlaps, 8), (b2n d.wb.fresh, 1), (b2n d.wb.supplyOk, 1)]
  else if 0x100 ≤ o ∧ o < 0x160 then pack [(mget d.wb.codesA ((o - 0x100) / 4) 0, 16), (d.wb.burstNo, 16)]
  else if 0x180 ≤ o ∧ o < 0x1E0 then pack [(mget d.wb.codesB ((o - 0x180) / 4) 0, 16), (d.wb.burstNo, 16)]
  else if o = 0x200 then pack [(meanPower 64 d, 16), (meanPower 4096 d, 16)]
  else if 0x400 ≤ o ∧ o < 0x500 then mget d.therm.sensors ((o - 0x400) / 4) 0
  else 0

/-! ### SC (R445-R447) -/

/-- Word w of a digest, byte 0 in the low bits of the first word. -/
def digestWord (x : Digest) (w : Nat) : Nat := leAt (digestBytes x) (4 * w) 4

/-- Whole seconds left of the confirmation window. -/
def windowLeft (d : Dev) : Nat := if d.sec.windowOpen then (d.sec.windowLen * 8000000 - (d.tick - d.sec.windowTick) + 7999999) / 8000000 else 0

def scRead (nv : NonVol) (d : Dev) (o : Nat) : Nat :=
  let f := nv.fuses
  if o = 0x40 then
    if ! d.sec.fuseRead then 0
    else pack [(floorOf f, 7), (b2n (locked f), 1), (f.revoked.toNat, 4), (f.rootsValid.toNat, 4)]
  else if o = 0x44 then
    pack [(b2n d.sec.armed.isSome, 1), (b2n d.sec.windowOpen, 1), (b2n d.sec.previous.isSome, 1), (b2n d.sec.pend.isSome, 1),
          (b2n d.sec.fellBack, 1), (0, 1), ((d.sec.armed.map (·.domain)).getD 0, 6), (0, 4), (windowLeft d, 9)]
  else if o = 0x60 then
    pack [(fwSvn d, 7), (0, 1), ((d.sec.previous.map (·.svn)).getD 0, 7), (0, 1), ((d.sec.pend.map (·.svn)).getD 0, 7)]
  else if o = 0x64 then pack [(d.sec.lastFail, 4), (0, 4), (d.sec.lastFailStatus, 3)]
  else if 0x100 ≤ o ∧ o < 0x120 then (if d.sec.idDone then digestWord (sha3 (deviceIdKey nv)) ((o - 0x100) / 4) else 0)
  else if 0x120 ≤ o ∧ o < 0x140 then (if d.sec.idDone then digestWord (sha3 (kemKey nv)) ((o - 0x120) / 4) else 0)
  else if 0x140 ≤ o ∧ o < 0x160 then digestWord (fwDigest d) ((o - 0x140) / 4)
  else if 0x160 ≤ o ∧ o < 0x180 then (if d.sec.romDone then digestWord nv.romDigest ((o - 0x160) / 4) else 0)
  else 0

/-! ### CV (R51-R53, R74-R78, R124, R125, R133) -/

/-- CV_ACT_STATUS (R52). -/
def actStatus (d : Dev) : Nat :=
  let e := effCap d
  let sets := fun (l : Nat) => b2n (decide (l = e) && decide (e < hostCap d))
  let active := (d.mkt.arrays.filter fun a => a.2.grant.isSome).length
  pack [(e, 7), (sets (thermalLimit d.therm.level), 1), (sets (staleLimit d), 1), (0, 7), (active, 15)]

/-- CV_ARRAY_STATUS (R53). -/
def arrayStatus (d : Dev) (a : Nat) : Nat :=
  let x := getArr d a
  let role := if x.retired then 3 else if isShelf a then 2 else if isStock d a || spareTaken d a then 1 else 0
  let g := fun (k : GrantFor) => decide (x.grant = some k)
  pack [(role, 2), (x.lStep, 2), (x.margin, 7), (b2n (g .mvm || g .guest || g .pattern), 1), (b2n (g .program), 1), (b2n (g .verifyRead), 1),
        (0, 1), (if x.tagRead then x.remaps.length else 0, 4), (0, 13), (if x.tagRead then x.progCount else 0, 15)]

/-- The slice is offline from the start of its window until its trims have been confirmed (3.4). -/
def offline (x : Arr) (s : Nat) : Bool :=
  decide (x.window = s) && (decide (x.phase = .reference) || decide (x.phase = .margin) || decide (x.phase = .confirm))

def arrayTrim (d : Dev) (a : Nat) : Nat :=
  let x := getArr d a
  pack [(x.readBias, 6), (b2n (! x.qTrims.isEmpty || x.qBias.isSome), 1), (b2n x.retiring, 1), (if x.phase = .idle then 0 else x.window, 7), (0, 1),
        (x.lastWinMargin, 7), (0, 1), (x.rotations, 8)]

def sliceTrim (d : Dev) (a s : Nat) : Nat :=
  let x := mget d.mkt.slices (a * 69 + s) {}
  pack [((x.offset % 64).toNat, 6), (0, 2), (x.gain, 6), (0, 2), (x.margin, 7), (b2n (offline (getArr d a) s), 1), (b2n x.failed, 1)]

/-- Word w of a ledger entry (R124). -/
def ledgerWord (l : Ledger) (w : Nat) : Nat :=
  match w with
  | 0 => l.blocks | 1 => l.wide | 2 => l.floored | 3 => l.saturated | 4 => l.zeroed | 5 => l.outliers
  | 6 => pack [(l.maxOut, 16), (l.maxSat, 16)]
  | _ => 0

def calStatus (d : Dev) : Nat :=
  let low := (d.mkt.arrays.filter fun a => decide (2 ≤ a.2.lStep)).length
  pack [(b2n d.mkt.initDone, 1), (b2n (d.mkt.initDone && d.mkt.arrays.any fun a => a.2.calibrated && ! a.2.retired), 1), (0, 14), (low, 15)]

def cvRead (d : Dev) (o : Nat) : Nat :=
  if o = 0x0 then pack [(b2n (d.mkt.trimNext.getD d.mkt.trimMode), 1), (b2n d.mkt.trimNext.isSome, 1)]
  else if o = 0x4 then calStatus d
  else if o = 0x40 then d.mkt.actCap
  else if o = 0x44 then actStatus d
  else if o = 0x100 then pack [(d.mkt.auditRate, 5), (0, 3), (b2n (auditMode d), 1)]
  else if o = 0x104 then d.mkt.auditSamples
  else if o = 0x108 then pack [(d.mkt.worst, 16), (d.mkt.worstStall, 11)]
  else if 0x120 ≤ o ∧ o < 0x140 then ledgerWord d.mkt.ledgerSum ((o - 0x120) / 4)
  else if o = 0x140 then d.mkt.outOverrun
  else if o = 0x144 then d.mkt.wideOverrun
  else if 0x200000 ≤ o ∧ o < 0x200000 + 4 * 30720 then arrayTrim d ((o - 0x200000) / 4)
  else if 0x800000 ≤ o ∧ o < 0x800000 + 0x1000 * 1920 then
    let q := o - 0x800000
    ledgerWord (mget d.mkt.ledger (q / 0x1000 * 128 + q % 0x1000 / 32) {}) (q % 32 / 4)
  else if 0x1000000 ≤ o ∧ o < 0x1000000 + 0x200 * 30720 then
    let q := o - 0x1000000
    if q % 0x200 < 0x114 then sliceTrim d (q / 0x200) (q % 0x200 / 4) else 0
  else 0

/-! ### PT (R195-R197) -/

def chanCode : ChanState → Nat
  | .idle => 0 | .running => 1 | .done => 2 | .faulted => 3 | .aborted => 4 | .discarded => 5

def hbmStatus (d : Dev) (h : Nat) : Nat :=
  let x := mget d.dram.stackMap h {}
  let t := mget d.therm.stackMap h 0
  pack [(b2n x.trained, 1), (b2n x.slow, 1), (b2n (decide (85 < t)), 1), (0, 5), (x.lanes, 6), (0, 2), (t, 8)]

/-- Word w of a progress record (R186, R197). -/
def progressWord (c : Chan) (w : Nat) : Nat :=
  match w with
  | 0 => pack [(c.desc, 16), (chanCode c.state, 8), (c.cause, 8)]
  | 1 => c.unitsDone
  | 2 => c.check.toNat % 2 ^ 32
  | 3 => c.check.toNat / 2 ^ 32
  | 4 => c.ticket
  | 5 => c.step
  | 6 => c.tag
  | _ => 0

def ptRead (d : Dev) (o : Nat) : Nat :=
  if o = 0x108 then d.dram.kvLow
  else if 0x200 ≤ o ∧ o < 0x240 then hbmStatus d ((o - 0x200) / 4)
  else if 0x100000 ≤ o ∧ o < 0x100000 + 0x400 * 256 then
    let q := o - 0x100000
    if q % 0x400 < 0x200 then progressWord (getChan d (q / 0x400) (q % 0x400 / 32)) (q % 32 / 4) else 0
  else 0

/-! ### TG (R350-R354): zero on a device that is no front device -/

def purseWord (x : Customer) (w : Nat) : Nat :=
  let b := (x.balance % 2 ^ 64).toNat
  match w with
  | 0 => b % 2 ^ 32 | 1 => b / 2 ^ 32 | 2 => x.q | _ => x.burst

def tgRead (d : Dev) (o : Nat) : Nat :=
  if ! isFront d then 0
  else if o = 0x40 then d.srv.snapStatus.toNat
  else if o = 0x44 then d.srv.snapLoad.toNat
  else if o = 0x50 then d.srv.snapLive % 2 ^ 22
  else if o = 0x54 then d.srv.snapQueued % 2 ^ 22
  else if 0x100 ≤ o ∧ o < 0x180 then mget d.srv.counts ((o - 0x100) / 4) 0
  else if 0x100000 ≤ o ∧ o < 0x200000 then purseWord (mget d.srv.snapPurse ((o - 0x100000) / 16) {}) (o % 16 / 4)
  else 0

/-! ### Any register -/

/-- The 64-bit read-only registers, whose low word latches the high one (R400). -/
def reg64 (d : Dev) (off : Nat) : Option Nat :=
  let pl := fun (f : Plan → W64) => ((d.plan.plan.map f).getD 0).toNat
  match off with
  | 0x8 => some (fwVersion d).toNat
  | 0x2040 => some (d.net.detours ||| 1).toNat
  | 0x3008 => some (pl (·.planId))
  | 0x3010 => some (pl (·.arith))
  | 0x3020 => some (pl (·.sliceId))
  | 0x500048 => some ((d.sec.armed.map (·.step)).getD 0)
  | 0x500050 => some ((d.sec.previous.map (·.version.toNat)).getD 0)
  | 0x500058 => some ((d.sec.pend.map (·.version.toNat)).getD 0)
  | 0x3000100 => some (pack [(d.dram.free, 32), (d.dram.reserved, 24)])
  | 0x3400048 => some (if isFront d then d.srv.snapTime else 0)
  | _ =>
    if 0x100100 ≤ off ∧ off < 0x100300 ∧ off % 8 = 0 then
      let x := getDom d ((off - 0x100100) / 8)
      some (if x.belled then x.step else 0)
    else if 0x1100000 ≤ off ∧ off < 0x1100000 + 8 * 30720 ∧ off % 8 = 0 then some (arrayStatus d ((off - 0x1100000) / 8))
    else none

def blockRead (nv : NonVol) (d : Dev) (off : Nat) : Nat :=
  match evRead d off with
  | some v => v
  | none =>
    if off < 0x100000 then chRead nv d off
    else if off < 0x200000 then blRead d (off - 0x100000)
    else if off < 0x300000 then stRead d (off - 0x200000)
    else if off < 0x400000 then epRead d (off - 0x300000)
    else if off < 0x500000 then wbRead d (off - 0x400000)
    else if off < 0x600000 then scRead nv d (off - 0x500000)
    else if off < 0x602000 then msixRead (off - 0x600000) d
    else if off < 0x1000000 then 0
    else if off < 0x3000000 then cvRead d (off - 0x1000000)
    else if off < 0x3400000 then ptRead d (off - 0x3000000)
    else if off < 0x3800000 then tgRead d (off - 0x3400000)
    else 0

/-- What BAR0 serves before firmware (R401). -/
def earlyReg (off : Nat) : Bool :=
  decide (off < 0x14) || decide (off = 0x20) || (decide (0x40 ≤ off) && decide (off < 0x60)) ||
    (decide (0x1000 ≤ off) && decide (off < 0x1400)) || (decide (0x600000 ≤ off) && decide (off < 0x602000))

/-- The aligned 32-bit word at an offset of BAR0, as a snapshot of this moment. -/
def regRead (nv : NonVol) (d : Dev) (off : Nat) : Word :=
  if ! barFull d && ! earlyReg off then 0 else
  match reg64 d (off - off % 8) with
  | some v => BitVec.ofNat 32 (if off % 8 < 4 then v else v / 2 ^ 32)
  | none => BitVec.ofNat 32 (blockRead nv d off)

/-- A 4-byte read (R400): the low word of a 64-bit read-only register latches the high word, and the next 4-byte read of
the high word returns what was latched; an unaligned read returns 0 and sets bad_access. -/
def wordRead (nv : NonVol) (off : Nat) (d : Dev) : Dev :=
  if ! barOpen d then d else
  if off % 4 ≠ 0 then emit (.regRead off 0) (raise .chHost 3 0 0 d) else
  let v := regRead nv d off
  let latched := fun (m : SMap Word) => { d with host := { d.host with latches := m } }
  if (reg64 d (off - off % 8)).isNone || (! barFull d && ! earlyReg off) then emit (.regRead off v) d
  else if off % 8 = 0 then emit (.regRead off v) (latched (mput d.host.latches (off + 4) (regRead nv d (off + 4))))
  else match mfind d.host.latches off with
    | some h => emit (.regRead off h) (latched (mdel d.host.latches off))
    | none => emit (.regRead off v) d

/-- R400. -/
def execLowWordRead (off : Nat) (s : State) : R := onDev (wordRead s.nv off) s

/-! ### The sideband (R422-R424): served in every state but COLD -/

/-- BAR0 offset that a sideband address shows (R423). -/
def sideMap (a : Nat) : Option Nat :=
  if a < 0x4 then some 0x0
  else if 0x8 ≤ a ∧ a < 0x10 then some a
  else if 0x10 ≤ a ∧ a < 0x14 then some 0x10
  else if 0x20 ≤ a ∧ a < 0x24 then some 0x20
  else if 0x30 ≤ a ∧ a < 0x34 then some 0x4004
  else if 0x34 ≤ a ∧ a < 0x38 then some 0x4010
  else if 0x40 ≤ a ∧ a < 0x44 then some 0x3000
  else if 0x48 ≤ a ∧ a < 0x50 then some (0x3008 + (a - 0x48))
  else if 0x50 ≤ a ∧ a < 0x54 then some 0x1000044
  else if 0x60 ≤ a ∧ a < 0xA0 then some (0x3000200 + (a - 0x60))
  else if 0x1000 ≤ a ∧ a < 0x2000 then some (0x400000 + (a - 0x1000))
  else none

/-- The word at a sideband address: no latch, and no gate of R401. -/
def sideRead (nv : NonVol) (d : Dev) (a : Nat) : Word :=
  if a % 4 ≠ 0 then 0 else
  match sideMap a with
  | none => 0
  | some off =>
    match reg64 d (off - off % 8) with
    | some v => BitVec.ofNat 32 (if off % 8 < 4 then v else v / 2 ^ 32)
    | none => BitVec.ofNat 32 (blockRead nv d off)

def sideWords (nv : NonVol) (d : Dev) : Nat → Nat → List Word
  | _, 0 => []
  | a, n + 1 => sideRead nv d (a % 65536) :: sideWords nv d (a + 4) n

def sideDo (f : Dev → Dev) (d : Dev) : Dev := if d.state = .cold then d else f d
def modSide (f : Sideband → Sideband) (d : Dev) : Dev := { d with side := f d.side }

/-- A private read of n bytes, at most the maximum read length, in whole words. -/
def sideReadOut (nv : NonVol) (n : Nat) (d : Dev) : Dev :=
  let k := (min n d.side.mrl.toNat + 3) / 4
  let a := d.side.ptr.toNat
  emit (.i3cRead a (sideWords nv d a k)) (modSide (fun s => { s with ptr := BitVec.ofNat 16 (a + 4 * k) }) d)

/-- A private write sets the pointer; WB_ALERT_CTL, at 0x1064, is the one register that takes data (R470); i3c_ignored at
most once for a transfer. -/
def sideWrite (addr : W16) (bytes : List Byte) (d : Dev) : Dev :=
  let d := modSide (fun s => { s with ptr := addr }) d
  if bytes.isEmpty then d
  else if addr = 0x1064 ∧ bytes.length = 4 then alertMaskWrite (BitVec.ofNat 32 (leAt bytes 0 4)) d
  else if addr = 0x1064 ∧ 4 < bytes.length then raise .chHost 5 0 0 (alertMaskWrite (BitVec.ofNat 32 (leAt bytes 0 4)) d)
  else raise .chHost 5 0 0 d

/-- Answers of the common commands that the manual gives no value for (log 35). -/
def sideAnswer (kind n : Nat) (d : Dev) : Dev := emit (.i3cAnswer (leBytes n (Config.unstated kind 0).toNat)) d

def execI3cPrivateWrite (addr : W16) (bytes : List Byte) (s : State) : R := onDev (sideDo (sideWrite addr bytes)) s
def execI3cPrivateRead (n : Nat) (s : State) : R := onDev (sideDo (sideReadOut s.nv n)) s
def execEntdaa (addr : BitVec 7) (won : Bool) (s : State) : R :=
  onDev (sideDo fun d => if won && d.side.dynAddr.isNone then modSide (fun x => { x with dynAddr := some addr }) d else d) s
def execSetdasa (static addr : BitVec 7) (s : State) : R :=
  onDev (sideDo fun d =>
    if static.toNat = 0x50 + d.pwr.slot ∧ d.side.dynAddr.isNone then modSide (fun x => { x with dynAddr := some addr }) d else d) s
def execRstdaa (s : State) : R := onDev (sideDo (modSide fun x => { x with dynAddr := none })) s
/-- Bit 0 enables in-band interrupts; one that waits goes out (R424). -/
def execEnec (b : Byte) (s : State) : R :=
  onDev (sideDo fun d => if b.getLsbD 0 && ! d.side.ibiOn then frontIbi (modSide (fun x => { x with ibiOn := true }) d) else d) s
def execDisec (b : Byte) (s : State) : R :=
  onDev (sideDo fun d => if b.getLsbD 0 then modSide (fun x => { x with ibiOn := false }) d else d) s
def execGetpid (s : State) : R := onDev (sideDo (sideAnswer 20 6)) s
def execGetbcr (s : State) : R := onDev (sideDo (sideAnswer 21 1)) s
def execGetdcr (s : State) : R := onDev (sideDo (sideAnswer 22 1)) s
def execGetstatus (s : State) : R :=
  onDev (sideDo fun d => let p := takeFree d; emit (.i3cAnswer (leBytes 2 (Config.unstated 23 p.1).toNat)) p.2) s
def execSetmwl (len : W16) (s : State) : R := onDev (sideDo (modSide fun x => { x with mwl := len })) s
/-- The maximum read length is at most 64 bytes. -/
def execSetmrl (len : W16) (s : State) : R :=
  onDev (sideDo (modSide fun x => { x with mrl := if len.toNat ≤ 64 then len else 64 })) s
/-- R424: the front interrupt has been taken; the next goes out. -/
def execInBandInterruptTaken (s : State) : R :=
  onDev (sideDo fun d => frontIbi (modSide (fun x => { x with ibis := x.ibis.drop 1 }) d)) s

end Sys2Proof.Machine
end

