-- ==== Sys2Proof/Machine/Dispatch.lean ====
section
/-! DEFINITION. One arm per command (R415 and the rows of spec/opcode_table.json): the meaning of each. -/
namespace Sys2Proof.Machine

def exec (i : Instr) (s : State) : Host.Outcome State Fault Refusal :=
  match i with
  | .nop c => Sys2Proof.Machine.execNop c s
  | .attestGet c => Sys2Proof.Machine.execAttestGet c s
  | .faultRead c => Sys2Proof.Machine.execFaultRead c s
  | .ticketRead c => Sys2Proof.Machine.execTicketRead c s
  | .fwLoad c => Sys2Proof.Machine.execFwLoad c s
  | .fwActivateAt c => Sys2Proof.Machine.execFwActivateAt c s
  | .fwActivateCancel c => Sys2Proof.Machine.execFwActivateCancel c s
  | .patternLoad c => Sys2Proof.Machine.execPatternLoad c s
  | .planLoad c => Sys2Proof.Machine.execPlanLoad c s
  | .epochSet c => Sys2Proof.Machine.execEpochSet c s
  | .serveStart c => Sys2Proof.Machine.execServeStart c s
  | .serveDrain c => Sys2Proof.Machine.execServeDrain c s
  | .serveStop c => Sys2Proof.Machine.execServeStop c s
  | .stockLoad c => Sys2Proof.Machine.execStockLoad c s
  | .stockFlip c => Sys2Proof.Machine.execStockFlip c s
  | .stockFlipCancel c => Sys2Proof.Machine.execStockFlipCancel c s
  | .stockRelease c => Sys2Proof.Machine.execStockRelease c s
  | .stockAbort c => Sys2Proof.Machine.execStockAbort c s
  | .stocktake c => Sys2Proof.Machine.execStocktake c s
  | .stockRefresh c => Sys2Proof.Machine.execStockRefresh c s
  | .shelfWrite c => Sys2Proof.Machine.execShelfWrite c s
  | .customerSet c => Sys2Proof.Machine.execCustomerSet c s
  | .adapterLoad c => Sys2Proof.Machine.execAdapterLoad c s
  | .adapterRevoke c => Sys2Proof.Machine.execAdapterRevoke c s
  | .ticketAbort c => Sys2Proof.Machine.execTicketAbort c s
  | .ticketPreempt c => Sys2Proof.Machine.execTicketPreempt c s
  | .prefixFlush c => Sys2Proof.Machine.execPrefixFlush c s
  | .porterResume c => Sys2Proof.Machine.execPorterResume c s
  | .porterDiscard c => Sys2Proof.Machine.execPorterDiscard c s
  | .cringTailWrite ring v => Sys2Proof.Machine.execCringTailWrite ring v s
  | .cringEnableSet ring => Sys2Proof.Machine.execCringEnableSet ring s
  | .cringEnableClear ring => Sys2Proof.Machine.execCringEnableClear ring s
  | .cplHeadWrite ring v => Sys2Proof.Machine.execCplHeadWrite ring v s
  | .ringDmaError ring k => Sys2Proof.Machine.execRingDmaError ring k s
  | .w1cClear e mask hw => Sys2Proof.Machine.execW1cClear e mask hw s
  | .lowWordRead off => Sys2Proof.Machine.execLowWordRead off s
  | .registerWrite off size v => Sys2Proof.Machine.execRegisterWrite off size v s
  | .cvActCapWrite v => Sys2Proof.Machine.execCvActCapWrite v s
  | .trimModeWrite v => Sys2Proof.Machine.execTrimModeWrite v s
  | .cvAuditCtlWrite v => Sys2Proof.Machine.execCvAuditCtlWrite v s
  | .chIrqMaskWrite v => Sys2Proof.Machine.execChIrqMaskWrite v s
  | .epChkCtlWrite u v => Sys2Proof.Machine.execEpChkCtlWrite u v s
  | .epChkValueWrite u v => Sys2Proof.Machine.execEpChkValueWrite u v s
  | .wbAlertCtlWrite v => Sys2Proof.Machine.execWbAlertCtlWrite v s
  | .stagingWrite off bytes => Sys2Proof.Machine.execStagingWrite off bytes s
  | .i3cPrivateWrite addr bytes => Sys2Proof.Machine.execI3cPrivateWrite addr bytes s
  | .i3cPrivateRead n => Sys2Proof.Machine.execI3cPrivateRead n s
  | .entdaa addr won => Sys2Proof.Machine.execEntdaa addr won s
  | .setdasa static addr => Sys2Proof.Machine.execSetdasa static addr s
  | .rstdaa => Sys2Proof.Machine.execRstdaa s
  | .enec bits => Sys2Proof.Machine.execEnec bits s
  | .disec bits => Sys2Proof.Machine.execDisec bits s
  | .getpid => Sys2Proof.Machine.execGetpid s
  | .getbcr => Sys2Proof.Machine.execGetbcr s
  | .getdcr => Sys2Proof.Machine.execGetdcr s
  | .getstatus => Sys2Proof.Machine.execGetstatus s
  | .setmwl len => Sys2Proof.Machine.execSetmwl len s
  | .setmrl len => Sys2Proof.Machine.execSetmrl len s
  | .vector2IntervalEnd => Sys2Proof.Machine.execVector2IntervalEnd s
  | .coalesceTimeout ring => Sys2Proof.Machine.execCoalesceTimeout ring s
  | .inputPowerRise => Sys2Proof.Machine.execInputPowerRise s
  | .railsInRegulation => Sys2Proof.Machine.execRailsInRegulation s
  | .undervoltageLockout => Sys2Proof.Machine.execUndervoltageLockout s
  | .inputBelow20v => Sys2Proof.Machine.execInputBelow20v s
  | .inputLow => Sys2Proof.Machine.execInputLow s
  | .inputRecovered => Sys2Proof.Machine.execInputRecovered s
  | .inputOverCurrentTrip => Sys2Proof.Machine.execInputOverCurrentTrip s
  | .inputOverVoltageTrip => Sys2Proof.Machine.execInputOverVoltageTrip s
  | .railOverCurrentTrip => Sys2Proof.Machine.execRailOverCurrentTrip s
  | .dieOverTemperatureTrip => Sys2Proof.Machine.execDieOverTemperatureTrip s
  | .perstAssert => Sys2Proof.Machine.execPerstAssert s
  | .perstDeassert tray slot => Sys2Proof.Machine.execPerstDeassert tray slot s
  | .functionReset => Sys2Proof.Machine.execFunctionReset s
  | .referenceLost => Sys2Proof.Machine.execReferenceLost s
  | .islandClockStop isl => Sys2Proof.Machine.execIslandClockStop isl s
  | .islandClockRestart isl => Sys2Proof.Machine.execIslandClockRestart isl s
  | .islandStopTimeout stall => Sys2Proof.Machine.execIslandStopTimeout stall s
  | .islandClockAdjust isl khz => Sys2Proof.Machine.execIslandClockAdjust isl khz s
  | .sensorConversion sensor code => Sys2Proof.Machine.execSensorConversion sensor code s
  | .thermalEvaluation hbmTemps => Sys2Proof.Machine.execThermalEvaluation hbmTemps s
  | .sampleEdge => Sys2Proof.Machine.execSampleEdge s
  | .burstEnd a b => Sys2Proof.Machine.execBurstEnd a b s
  | .sampleWindowEnd => Sys2Proof.Machine.execSampleWindowEnd s
  | .telemetryStaleTimeout => Sys2Proof.Machine.execTelemetryStaleTimeout s
  | .alertHoldEnd => Sys2Proof.Machine.execAlertHoldEnd s
  | .hbmTrainingEnd res => Sys2Proof.Machine.execHbmTrainingEnd res s
  | .romSelfCheckEnd ok => Sys2Proof.Machine.execRomSelfCheckEnd ok s
  | .identityDerivationEnd => Sys2Proof.Machine.execIdentityDerivationEnd s
  | .firmwareVerificationEnd sigOk => Sys2Proof.Machine.execFirmwareVerificationEnd sigOk s
  | .patternSetVerified sigOk => Sys2Proof.Machine.execPatternSetVerified sigOk s
  | .clerksStart => Sys2Proof.Machine.execClerksStart s
  | .planValidationEnd doc certOk sigOk => Sys2Proof.Machine.execPlanValidationEnd doc certOk sigOk s
  | .dramInitEnd => Sys2Proof.Machine.execDramInitEnd s
  | .initialCalRoundEnd margins => Sys2Proof.Machine.execInitialCalRoundEnd margins s
  | .calWindowStart array => Sys2Proof.Machine.execCalWindowStart array s
  | .calPhaseEnd array p => Sys2Proof.Machine.execCalPhaseEnd array p s
  | .calWindowEnd array liveErr liveSamples => Sys2Proof.Machine.execCalWindowEnd array liveErr liveSamples s
  | .calibrationOnlySample array margin => Sys2Proof.Machine.execCalibrationOnlySample array margin s
  | .activityGrant array k => Sys2Proof.Machine.execActivityGrant array k s
  | .scriptWordIssue r => Sys2Proof.Machine.execScriptWordIssue r s
  | .mvm stall slot f => Sys2Proof.Machine.execMvm stall slot f s
  | .combine stall r => Sys2Proof.Machine.execCombine stall r s
  | .vec stall r int => Sys2Proof.Machine.execVec stall r int s
  | .rq stall r => Sys2Proof.Machine.execRq stall r s
  | .send r => Sys2Proof.Machine.execSend r s
  | .recv stall => Sys2Proof.Machine.execRecv stall s
  | .port r => Sys2Proof.Machine.execPort r s
  | .slot stall => Sys2Proof.Machine.execSlot stall s
  | .doneWord stall => Sys2Proof.Machine.execDoneWord stall s
  | .stallDone stall => Sys2Proof.Machine.execStallDone stall s
  | .escalationRetryEnd array f => Sys2Proof.Machine.execEscalationRetryEnd array f s
  | .auditPathEnd array readErr => Sys2Proof.Machine.execAuditPathEnd array readErr s
  | .guestMvm stall f => Sys2Proof.Machine.execGuestMvm stall f s
  | .auditSample r => Sys2Proof.Machine.execAuditSample r s
  | .patternTest array f => Sys2Proof.Machine.execPatternTest array f s
  | .datapathPatternRun stall entry fails => Sys2Proof.Machine.execDatapathPatternRun stall entry fails s
  | .cartReceive c e => Sys2Proof.Machine.execCartReceive c e s
  | .creditNote n => Sys2Proof.Machine.execCreditNote n s
  | .fencedNote n => Sys2Proof.Machine.execFencedNote n s
  | .completionNote n => Sys2Proof.Machine.execCompletionNote n s
  | .errorReportNote n => Sys2Proof.Machine.execErrorReportNote n s
  | .countingHouseOrder n => Sys2Proof.Machine.execCountingHouseOrder n s
  | .creditTimeout stall => Sys2Proof.Machine.execCreditTimeout stall s
  | .replayQuiesced domain => Sys2Proof.Machine.execReplayQuiesced domain s
  | .recoveryTimeout domain => Sys2Proof.Machine.execRecoveryTimeout domain s
  | .porterUnitComplete porter ch unit => Sys2Proof.Machine.execPorterUnitComplete porter ch unit s
  | .translationWalkEnd porter ch kva write => Sys2Proof.Machine.execTranslationWalkEnd porter ch kva write s
  | .pageAllocationRequest r => Sys2Proof.Machine.execPageAllocationRequest r s
  | .pageInvalidationComplete ticket => Sys2Proof.Machine.execPageInvalidationComplete ticket s
  | .hbmReread addr porter ch recovered => Sys2Proof.Machine.execHbmReread addr porter ch recovered s
  | .hbmScrub addr corrected => Sys2Proof.Machine.execHbmScrub addr corrected s
  | .linkTrained port sub preempt => Sys2Proof.Machine.execLinkTrained port sub preempt s
  | .probe r => Sys2Proof.Machine.execProbe r s
  | .probeVerified port sub reportOk => Sys2Proof.Machine.execProbeVerified port sub reportOk s
  | .probeTimeout port sub => Sys2Proof.Machine.execProbeTimeout port sub s
  | .heldDownProbeResend port sub => Sys2Proof.Machine.execHeldDownProbeResend port sub s
  | .linkLoss port sub => Sys2Proof.Machine.execLinkLoss port sub s
  | .frameDrop port sub why => Sys2Proof.Machine.execFrameDrop port sub why s
  | .dataFrame r => Sys2Proof.Machine.execDataFrame r s
  | .contrib r => Sys2Proof.Machine.execContrib r s
  | .unitFrame r => Sys2Proof.Machine.execUnitFrame r s
  | .ackFrame r => Sys2Proof.Machine.execAckFrame r s
  | .openFrame r => Sys2Proof.Machine.execOpenFrame r s
  | .openAck r => Sys2Proof.Machine.execOpenAck r s
  | .closeFrame r => Sys2Proof.Machine.execCloseFrame r s
  | .bellUp r => Sys2Proof.Machine.execBellUp r s
  | .bellDown r => Sys2Proof.Machine.execBellDown r s
  | .replayReq r => Sys2Proof.Machine.execReplayReq r s
  | .order r => Sys2Proof.Machine.execOrder r s
  | .cancel r => Sys2Proof.Machine.execCancel r s
  | .query r => Sys2Proof.Machine.execQuery r s
  | .maskWrite r => Sys2Proof.Machine.execMaskWrite r s
  | .ackTimer flow => Sys2Proof.Machine.execAckTimer flow s
  | .retransmitTimeout flow psn => Sys2Proof.Machine.execRetransmitTimeout flow psn s
  | .flowFailTimeout flow => Sys2Proof.Machine.execFlowFailTimeout flow s
  | .quarantineEnd flow => Sys2Proof.Machine.execQuarantineEnd flow s
  | .rateLimitRise flow => Sys2Proof.Machine.execRateLimitRise flow s
  | .bellResend domain => Sys2Proof.Machine.execBellResend domain s
  | .readinessResend domain => Sys2Proof.Machine.execReadinessResend domain s
  | .pacePoint domain => Sys2Proof.Machine.execPacePoint domain s
  | .deviceDone domain wireError => Sys2Proof.Machine.execDeviceDone domain wireError s
  | .localBell domain => Sys2Proof.Machine.execLocalBell domain s
  | .clerkHandover => Sys2Proof.Machine.execClerkHandover s
  | .fwConfirm bad => Sys2Proof.Machine.execFwConfirm bad s
  | .confirmationWindowExpiry => Sys2Proof.Machine.execConfirmationWindowExpiry s
  | .clerkTrap => Sys2Proof.Machine.execClerkTrap s
  | .scheduleSend domain => Sys2Proof.Machine.execScheduleSend domain s
  | .handleRetentionEnd ticket => Sys2Proof.Machine.execHandleRetentionEnd ticket s
  | .restockHeaderVerified part header leaves sigOk wrapOk => Sys2Proof.Machine.execRestockHeaderVerified part header leaves sigOk wrapOk s
  | .erasePulseEnd array => Sys2Proof.Machine.execErasePulseEnd array s
  | .rowProgramEnd array => Sys2Proof.Machine.execRowProgramEnd array s
  | .verifyReadEnd array plane r => Sys2Proof.Machine.execVerifyReadEnd array plane r s
  | .planeHashWrite array => Sys2Proof.Machine.execPlaneHashWrite array s
  | .referenceRestored => Sys2Proof.Machine.execReferenceRestored s
  | .pfcFrame port sub paused => Sys2Proof.Machine.execPfcFrame port sub paused s
  | .lldpFrame port sub preempt => Sys2Proof.Machine.execLldpFrame port sub preempt s
  | .inBandInterruptTaken => Sys2Proof.Machine.execInBandInterruptTaken s

end Sys2Proof.Machine
end

