-- ==== Sys2Proof/Machine/Tick.lean ====
section
/-! DEFINITION. What passes while no command waits: one 125 ns unit of the timebase (R453, log 15). -/
namespace Sys2Proof.Machine

/-- The timebase runs while the rails stand; without its reference it stands still (R453, R455). -/
def idleTick (d : Dev) : Dev :=
  if d.pwr.railsGood && ! d.pwr.refLost then { d with tick := d.tick + 1 } else d

end Sys2Proof.Machine
end

