-- ==== Sys2Proof/Safety.lean ====
section
/-! DEFINITION. The terms of the statements: states whose sparse maps are in canonical form, a host command whose turn has
come, and the completion that answers it. -/
namespace Sys2Proof.Machine

/-- DRAM lists no byte twice, none out of order, none that reads 0, and none at or above 0x00C0_0000_0000 (R170; log 12). -/
def MemGood (s : State) : Prop := memWf s.mem

/-- The cells likewise: no row twice, none out of order, none that is all OFF. -/
def CellsGood (s : State) : Prop := mwf (0 : CellRow) none s.nv.cells = true

/-- Every blown fuse of f is blown in g (R427). -/
def FusesKept (f g : Fuses) : Prop :=
  f.floorA &&& ~~~g.floorA = 0 ∧ f.floorB &&& ~~~g.floorB = 0 ∧ f.revoked &&& ~~~g.revoked = 0 ∧
    f.secret = g.secret ∧ f.roots = g.roots ∧ f.rootsValid = g.rootsValid ∧ f.lock = g.lock

/-- It is the turn of c's ring, and c is a well-formed entry of opcode op that R416 allows in the present state; its
completion can be written (R406, R409-R411). -/
def Accepted (op : Nat) (c : Cmd) (s : State) : Prop :=
  serves s.dev c.ring = true ∧ c.opcode = op ∧ formatOk c = true ∧ legal op s.dev.state (fwRuns s.dev) = true ∧ c.wrOk = true

def isCompletion : Out → Bool
  | .completion .. => true
  | _ => false

/-- The completions that the device has posted, oldest first. -/
def postedBy (s : State) : List Out := s.dev.out.filter isCompletion

/-- t's one new completion answers c with status st and this result, in the ring's next slot and with its phase (R406,
R408). -/
def Answered (c : Cmd) (st : Status) (result : Nat) (s t : State) : Prop :=
  let r := getRing s.dev c.ring
  postedBy t = postedBy s ++
    [.completion c.ring (cplAddr r) (cplEntry c.cid c.opcode st t.dev.state r.phase result ((r.head + 1) % ringSize r))]

/-- c has been accepted and will complete later; its ring is busy (R410, R415). -/
def InProgress (c : Cmd) (t : State) : Prop :=
  (getRing t.dev c.ring).job.any (fun j => decide (j.opcode = c.opcode) && decide (j.cid = c.cid)) = true

/-- The command in progress on ring i has its completion, and no other has come (R406, R408, R410). -/
def JobAnswered (i : Nat) (st : Status) (result : Nat) (s t : State) : Prop :=
  ∀ j, (getRing s.dev i).job = some j → j.wrOk = true → (getRing t.dev i).job = none ∧
    ∃ ds, postedBy t = postedBy s ++
      [.completion i (cplAddr (getRing s.dev i)) (cplEntry j.cid j.opcode st ds (getRing s.dev i).phase result j.head)]

/-- What no command but those named in a statement touches: the cells, the fuses and DRAM. -/
def SameStore (s t : State) : Prop := t.nv = s.nv ∧ t.mem = s.mem ∧ t.pending = s.pending

/-- Event bit b of register e has happened once more: its flag reads 1, its counter has risen by 1 (R402). -/
def EventSeen (e : EvId) (b : Nat) (s t : State) : Prop :=
  (getEv t.dev e).flags.getLsbD b = true ∧ mget (getEv t.dev e).cnt b 0 = (mget (getEv s.dev e).cnt b 0 + 1) % 2 ^ 32

/-- Of the device, only the host interface, the outputs and the model's cycle count may differ. -/
def HostOnly (s t : State) : Prop :=
  SameStore s t ∧ t.dev = { s.dev with cycle := s.dev.cycle + 1, host := t.dev.host, out := t.dev.out }

/-- Of the device, only the event registers and what an event may interrupt with may differ. -/
def EventOnly (s t : State) : Prop :=
  SameStore s t ∧ t.dev = { s.dev with cycle := s.dev.cycle + 1, evs := t.dev.evs, host := t.dev.host, out := t.dev.out } ∧
    t.dev.host.rings = s.dev.host.rings

/-- Nothing differs but the model's cycle count. -/
def Nothing (s t : State) : Prop := t = { s with dev := { s.dev with cycle := s.dev.cycle + 1 } }

/-- Issued word pos of stall i has completed, and no other word of the stall has gone (R104). -/
def WordGone (i pos : Nat) (s t : State) : Prop :=
  (getStall t.dev i).issued = (getStall s.dev i).issued.filter fun e => decide (e.pos ≠ pos)

/-- The stall stores, lines 0-6,143 (R103), hold what they held, but for the lines ls of stall i from base on. -/
def LinesSet (i base : Nat) (ls : List Line) (s t : State) : Prop :=
  ∀ j l, l < 6144 → getLine t.dev j l = if j = i ∧ base ≤ l ∧ l < base + ls.length then ls.getD (l - base) 0 else getLine s.dev j l

/-- Of the device, only stalls, their stores and the model's cycle count may differ. -/
def StallsOnly (s t : State) : Prop :=
  SameStore s t ∧ t.dev = { s.dev with cycle := s.dev.cycle + 1, mkt := { s.dev.mkt with stalls := t.dev.mkt.stalls, store := t.dev.mkt.store } }

/-- A frame that its sub-port takes (R14, R234, R237, R239, R243, R244): its ring block has its clock, the sub-port is UP, the CRC matches, its type and class go
together, on a service port the source is allowed; no mark of congestion. -/
def Arrives (typ : Nat) (r : Rx) (s : State) : Prop :=
  ringOn s.dev r.port = true ∧ (getSub s.dev r.port r.sub).state = .up ∧ r.crc = rxCrc r ∧ r.typ = typ ∧ classOk typ r.cls = true ∧ (subRole s.dev r.port r.sub = 2 → role2Ok s.dev r = true) ∧
    r.ce = false

/-- It names flow f by a handle in use, of the flow's class (R247, R248), and carries no echo of congestion. -/
def OnFlow (f : Nat) (r : Rx) (s : State) : Prop :=
  f < 49152 ∧ hIndex r.handle.toNat = f ∧ (getFlow s.dev f).inUse = true ∧ (getFlow s.dev f).gen = hGen r.handle.toNat ∧ (getFlow s.dev f).cls = r.cls ∧
    r.flags.getLsbD 1 = false

/-- A whole message in one frame, next in PSN order and with the alive stamp expected (R249, R255, R256), on a flow that no check
unit watches and whose acknowledgement is not yet due; it acknowledges nothing. -/
def WholeMessage (f : Nat) (r : Rx) (s : State) : Prop :=
  r.psn = (getFlow s.dev f).rxNext ∧ (getFlow s.dev f).early = [] ∧ (getFlow s.dev f).msg = [] ∧
    ((getFlow s.dev f).aliveRx = none ∨ (getFlow s.dev f).aliveRx = some r.alive) ∧ (getFlow s.dev f).sinceAck < 7 ∧
    r.flags.getLsbD 0 = false ∧ r.flags.getLsbD 2 = true ∧ (getChk s.dev (getFlow s.dev f).port).flow ≠ f

/-- The frame has been accepted on its flow, and its message taken (R249, R256). -/
def Taken (f : Nat) (r : Rx) (t : State) : Prop :=
  (getFlow t.dev f).rxNext = r.psn + 1 ∧ (getFlow t.dev f).aliveRx = some ((r.alive + 1) % 65536) ∧ (getFlow t.dev f).msg = []

/-- The plane of an MVM passes its seal check exactly: the seal columns' sum is that of the exact sums (R82, R83). -/
def SealGood (j : MvmJob) (rows : List CellRow) : Prop :=
  sealSum j.block.xs rows = sealDot j.seed j.off (partialSums j.fmt j.block.xs rows)

/-- Conversion without an error, and no failed check of the till (R34). -/
def noFault : MvmFault := { deltas := [], residue := false, shadow := false }

/-- The opcode and the entry of a host command (R415). -/
def hostRow : Instr → Option (Nat × Cmd)
  | .nop c => some (0x01, c) | .attestGet c => some (0x02, c) | .faultRead c => some (0x03, c) | .ticketRead c => some (0x04, c)
  | .fwLoad c => some (0x10, c) | .fwActivateAt c => some (0x11, c) | .fwActivateCancel c => some (0x12, c) | .patternLoad c => some (0x13, c)
  | .planLoad c => some (0x20, c) | .epochSet c => some (0x21, c) | .serveStart c => some (0x22, c) | .serveDrain c => some (0x23, c)
  | .serveStop c => some (0x24, c) | .stockLoad c => some (0x30, c) | .stockFlip c => some (0x31, c) | .stockFlipCancel c => some (0x32, c)
  | .stockRelease c => some (0x33, c) | .stockAbort c => some (0x34, c) | .stocktake c => some (0x35, c) | .stockRefresh c => some (0x36, c)
  | .shelfWrite c => some (0x37, c) | .customerSet c => some (0x40, c) | .adapterLoad c => some (0x41, c) | .adapterRevoke c => some (0x42, c)
  | .ticketAbort c => some (0x43, c) | .ticketPreempt c => some (0x44, c) | .prefixFlush c => some (0x45, c) | .porterResume c => some (0x50, c)
  | .porterDiscard c => some (0x51, c)
  | _ => none

/-- The commands that take the rails or the reset of the die with them (R397, R452, R466, R482). -/
def isReset : Instr → Bool
  | .undervoltageLockout | .inputBelow20v | .inputOverCurrentTrip | .inputOverVoltageTrip | .railOverCurrentTrip | .dieOverTemperatureTrip
  | .perstAssert | .functionReset => true
  | _ => false

/-- The commands that may store to DRAM: staging, the initialisation after validation, transfers, the error paths of DRAM, messages, and
bells. -/
def writesDram : Instr → Bool
  | .stagingWrite _ _ | .dramInitEnd | .porterUnitComplete _ _ _ | .porterDiscard _ | .hbmReread _ _ _ _ | .dataFrame _ | .contrib _ | .unitFrame _
  | .replayReq _ | .order _ | .cancel _ | .query _ | .maskWrite _ | .serveStart _ | .deviceDone _ _ | .localBell _ | .bellUp _ | .bellDown _ => true
  | c => isReset c

/-- The commands that may change a cell or a fuse: programming, the verify-reads and bells that retire an array, the end of an operation
in progress at a plan load or a reset, and the commit of firmware. -/
def writesNonVol : Instr → Bool
  | .erasePulseEnd _ | .rowProgramEnd _ | .verifyReadEnd _ _ _ | .planeHashWrite _ | .planLoad _ | .fwConfirm _ | .serveStart _
  | .deviceDone _ _ | .localBell _ | .bellUp _ | .bellDown _ => true
  | c => isReset c

end Sys2Proof.Machine
end

