-- ==== Sys2Proof/Certificates/Slice0/Obligations.lean ====
section
/-! DEFINITION. The statements for the provers. Each says, in its docstring, which rules of spec/ it formalises; where a clause rests on a
choice of the model's own, the log entry is named. -/
open Sys2Proof Sys2Proof.Machine

/-! ### The machine as a whole -/

/-- The block takes the command at the front of its queue (the model's own interface, log 3); on an empty queue the timebase runs
where the rails and the reference stand (R453; log 15). -/
def Obligations.StepTakesTheFrontCommand : Prop :=
  ∀ s : State,
    (∀ (c : Instr) (rest : List Instr), s.pending = c :: rest → step s = exec c { s with pending := rest }) ∧
    (s.pending = [] → ∃ t, step s = .next t ∧ t = { s with dev := { s.dev with tick := t.dev.tick } } ∧
      (s.dev.pwr.railsGood = true → s.dev.pwr.refLost = false → t.dev.tick = s.dev.tick + 1))

/-- Every command answers a next state, and none touches the queue behind it (log 3). -/
def Obligations.EveryCommandAnswers : Prop :=
  ∀ (c : Instr) (s : State), ∃ t, exec c s = .next t ∧ t.pending = s.pending

/-- A blown fuse stays blown through every step, and no step changes the device secret, the roots or the field lock
(R427, R438). -/
def Obligations.FusesStayBlown : Prop :=
  ∀ s t : State, step s = .next t → FusesKept s.nv.fuses t.nv.fuses

/-- Every step keeps DRAM in its one canonical form: equal contents are equal data, and nothing is listed that an unlisted
address reads as (R170; the form is the model's, log 12). -/
def Obligations.DramStaysCanonical : Prop :=
  ∀ s t : State, MemGood s → step s = .next t → MemGood t

/-- The same of the array cells (R28, R41; log 12). -/
def Obligations.CellsStayCanonical : Prop :=
  ∀ s t : State, CellsGood s → step s = .next t → CellsGood t

/-- The state before the first power-up meets both invariants (log 10). -/
def Obligations.ResetMeetsTheInvariants : Prop :=
  MemGood State.reset ∧ CellsGood State.reset ∧ State.reset.pending = [] ∧ State.reset.dev.state = .cold ∧
    FusesKept State.reset.nv.fuses State.reset.nv.fuses ∧ State.reset.nv.fuses.floorA = 0 ∧ State.reset.nv.cells = []

/-- Every byte of DRAM (R170) is unchanged by every command that is not named by writesDram; every cell and every fuse by every command
that is not named by writesNonVol: no script, transfer, frame or register write reaches them (R2, R41, R427). -/
def Obligations.MemoryAndCellsFrame : Prop :=
  (∀ (c : Instr) (s t : State), writesDram c = false → exec c s = .next t → ∀ a, memRead t.mem a = memRead s.mem a) ∧
    (∀ (c : Instr) (s t : State), writesNonVol c = false → exec c s = .next t → t.nv = s.nv)

/-- A reset or the loss of the rails leaves the cells and the fuses as they are where no erase or program operation is in
progress, and nothing else of the device: COLD, every register at its reset value, DRAM unlisted (R2, R397, R428, R452; DRAM's
contents after it are the model's choice, log 12). -/
def Obligations.ResetsKeepCellsAndFuses : Prop :=
  ∀ (c : Instr) (s : State), isReset c = true → s.dev.pwr.outOfReset = true → s.dev.pwr.railsGood = true → inProgress s.dev = [] →
    ∃ t p, exec c s = .next t ∧ t.nv = s.nv ∧ t.mem = [] ∧ t.pending = s.pending ∧
      t.dev = { tick := s.dev.tick, cycle := s.dev.cycle + 1, freeIx := s.dev.freeIx + 1, out := s.dev.out, pwr := p } ∧
      (p.outOfReset = true ↔ c = .functionReset)

/-! ### Host commands: form, state, queries (R406-R411, R413-R416) -/

/-- An entry with a non-zero reserved bit completes with BAD_ARG, one that the present state does not allow with STATE, and
neither has any effect (R409, R416). -/
def Obligations.RefusedHostCommandsHaveNoEffect : Prop :=
  ∀ (i : Instr) (op : Nat) (c : Cmd) (s : State), hostRow i = some (op, c) → serves s.dev c.ring = true → c.opcode = op → c.wrOk = true →
    (formatOk c = false ∨ legal op s.dev.state (fwRuns s.dev) = false) →
    ∃ t, exec i s = .next t ∧ Answered c (if formatOk c then .state else .badArg) 0 s t ∧ HostOnly s t

/-- NOP, ATTEST_GET, FAULT_READ and TICKET_READ each complete with OK, their result, and the bytes that they write to the host: the
attestation report with the nonce given; the records first to first + n - 1, zeros for a record not held, then their captures where asked, the
number of records held and CH_FAULT_HEAD, with CH_FAULT_READ at the newest record returned; the ticket's record (R393, R409, R415, R441). An address
that is not aligned, a buffer too short and a count outside 1-64 complete with BAD_ARG, a handle that is no live ticket's with STALE, and nothing is written. Nothing else changes. -/
def Obligations.HostQueriesComplete : Prop :=
  ∀ (c : Cmd) (s : State), let addr := param c.params 8 8; let first := param c.params 16 4; let n := param c.params 20 2
    let recs := (List.range n).map fun k => s.dev.faults.log.find? fun r => decide (r.seq = first + k)
    let bytes := recs.flatMap fun r => r.elim (List.replicate 64 0) recBytes
    (Accepted 0x01 c s → ∃ t, exec (.nop c) s = .next t ∧ Answered c .ok 0 s t ∧ HostOnly s t) ∧
    (Accepted 0x02 c s → addr % 4096 = 0 → 7720 ≤ first →
      ∃ t, exec (.attestGet c) s = .next t ∧ Answered c .ok 7720 s t ∧ HostOnly s t ∧
        Out.hostWrite addr (report s.dev s.nv 0 0 0 (BitVec.ofNat 256 (param c.params 20 32)) 0) ∈ t.dev.out) ∧
    (Accepted 0x02 c s → addr % 4096 ≠ 0 ∨ first < 7720 → ∃ t, exec (.attestGet c) s = .next t ∧ Answered c .badArg 0 s t ∧ HostOnly s t) ∧
    (Accepted 0x03 c s → addr % 64 = 0 → 1 ≤ n → n ≤ 64 →
      ∃ t, exec (.faultRead c) s = .next t ∧ Answered c .ok ((recs.filter (·.isSome)).length + s.dev.faults.head * 2 ^ 32) s t ∧
        SameStore s t ∧ t.dev = { s.dev with cycle := s.dev.cycle + 1, host := t.dev.host, out := t.dev.out, faults := t.dev.faults } ∧
        t.dev.faults = { s.dev.faults with readSeq := t.dev.faults.readSeq } ∧
        Out.hostWrite addr (bytes ++ if bitOf (param c.params 22 1) 0 then recs.flatMap (captureOf s.dev) else []) ∈ t.dev.out ∧
        (∀ r, some r ∈ recs → r.seq ≤ t.dev.faults.readSeq) ∧ ((∀ r, some r ∉ recs) → t.dev.faults.readSeq = s.dev.faults.readSeq) ∧
        ((∃ r, some r ∈ recs ∧ 0 < r.seq) → ∃ r, some r ∈ recs ∧ r.seq = t.dev.faults.readSeq)) ∧
    (Accepted 0x03 c s → addr % 64 ≠ 0 ∨ n = 0 ∨ 64 < n → ∃ t, exec (.faultRead c) s = .next t ∧ Answered c .badArg 0 s t ∧ HostOnly s t) ∧
    (∀ k, Accepted 0x04 c s → addr % 64 = 0 → ticketOf s.dev first = some k →
      ∃ t, exec (.ticketRead c) s = .next t ∧ Answered c .ok 0 s t ∧ HostOnly s t ∧ Out.hostWrite addr (ticketBytes s.dev k) ∈ t.dev.out) ∧
    (Accepted 0x04 c s → addr % 64 = 0 → ticketOf s.dev first = none → ∃ t, exec (.ticketRead c) s = .next t ∧ Answered c .stale 0 s t ∧ HostOnly s t) ∧
    (Accepted 0x04 c s → addr % 64 ≠ 0 → ∃ t, exec (.ticketRead c) s = .next t ∧ Answered c .badArg 0 s t ∧ HostOnly s t)

/-! ### Rings and registers -/

/-- The four ring registers of R406: a tail in range of an enabled ring is taken, any other sets doorbell_error alone; setting
enable zeroes the indices and sets the phase; clearing it stops the ring at once, or after the command in progress; CPL_HEAD frees
slots. Every other ring stays. -/
def Obligations.RingRegistersComplete : Prop :=
  ∀ (i v : Nat) (s : State), i < 8 → barOpen s.dev = true →
    ((getRing s.dev i).enable = true → v % 4096 < ringSize (getRing s.dev i) →
      ∃ t, exec (.cringTailWrite i v) s = .next t ∧ HostOnly s t ∧ getRing t.dev i = { getRing s.dev i with tail := v % 4096 } ∧
        ∀ j, j ≠ i → getRing t.dev j = getRing s.dev j) ∧
    ((getRing s.dev i).enable = false ∨ ringSize (getRing s.dev i) ≤ v % 4096 →
      ∃ t, exec (.cringTailWrite i v) s = .next t ∧ EventSeen .chHost 1 s t ∧ EventOnly s t) ∧
    ((getRing s.dev i).enable = false →
      ∃ t, exec (.cringEnableSet i) s = .next t ∧ HostOnly s t ∧ (∀ j, j ≠ i → getRing t.dev j = getRing s.dev j) ∧
        (getRing t.dev i).enable = true ∧ (getRing t.dev i).running = true ∧ (getRing t.dev i).error = false ∧ (getRing t.dev i).phase = true ∧
        (getRing t.dev i).head = 0 ∧ (getRing t.dev i).tail = 0 ∧ (getRing t.dev i).cplHead = 0 ∧ (getRing t.dev i).cplTail = 0) ∧
    (∃ t, exec (.cringEnableClear i) s = .next t ∧ HostOnly s t ∧ (∀ j, j ≠ i → getRing t.dev j = getRing s.dev j) ∧
        ((getRing s.dev i).job = none → (getRing t.dev i).enable = false ∧ (getRing t.dev i).running = false) ∧
        ((getRing s.dev i).job ≠ none → getRing t.dev i = { getRing s.dev i with stopping := true })) ∧
    (∃ t, exec (.cplHeadWrite i v) s = .next t ∧ HostOnly s t ∧ getRing t.dev i = { getRing s.dev i with cplHead := v % 4096 } ∧
        ∀ j, j ≠ i → getRing t.dev j = getRing s.dev j)

/-- A DMA error stops its ring and sets ring_error; an entry that could not be read is not run (R411). -/
def Obligations.RingDmaErrorStopsTheRing : Prop :=
  ∀ (i : Nat) (k : DmaErr) (s : State),
    (match k with | .entryRead => serves s.dev i = true | .resultWrite => (getRing s.dev i).job ≠ none) →
    ∃ t, exec (.ringDmaError i k) s = .next t ∧ EventSeen .chHost 2 s t ∧ (getRing t.dev i).error = true ∧ (getRing t.dev i).running = false ∧
      (getRing t.dev i).head = (getRing s.dev i).head ∧ SameStore s t ∧
      t.dev = { s.dev with cycle := s.dev.cycle + 1, evs := t.dev.evs, host := t.dev.host, out := t.dev.out }

/-- The rule of every W1C register (R402): writing 1 clears a flag, writing 0 leaves it, a set of the same cycle wins, each set counts
once, a clear changes no counter, and no other register moves. -/
def Obligations.W1cSetWins : Prop :=
  ∀ (e : EvId) (mask : Word) (hw : List EvHit) (s : State), (barFull s.dev = true ∨ (barOpen s.dev = true ∧ e = .chHost)) →
    ∃ t, exec (.w1cClear e mask hw) s = .next t ∧ EventOnly s t ∧ (∀ f, f ≠ e → getEv t.dev f = getEv s.dev f) ∧
      ∀ j, j < 32 →
        let n := (hw.filter fun h => decide (h.bit < evBits e) && decide (h.bit = j)).length
        (getEv t.dev e).flags.getLsbD j = (decide (0 < n) || ((getEv s.dev e).flags.getLsbD j && ! mask.getLsbD j)) ∧
        mget (getEv t.dev e).cnt j 0 = if n = 0 then mget (getEv s.dev e).cnt j 0 else (mget (getEv s.dev e).cnt j 0 + n) % 2 ^ 32

/-- CV_ACT_CAP is taken between 10 and 100 and reads back so (R51); CV_AUDIT_CTL.rate_log2 between 8 and 16 (R133); CV_CAL_CTL.trim_mode
takes effect at once where no steps run, and waits for the bell, with mode_pending, where they do (R66, R74). -/
def Obligations.CvRegisterWritesComplete : Prop :=
  ∀ (v : Word) (s : State), barFull s.dev = true →
    (∃ t, exec (.cvActCapWrite v) s = .next t ∧ (regRead t.nv t.dev 0x1000040).toNat = (if v.toNat % 128 < 10 then 10 else if 100 < v.toNat % 128 then 100 else v.toNat % 128) ∧
      t = { s with dev := { s.dev with cycle := s.dev.cycle + 1, mkt := { s.dev.mkt with actCap := t.dev.mkt.actCap } } }) ∧
    (∃ t, exec (.cvAuditCtlWrite v) s = .next t ∧ (regRead t.nv t.dev 0x1000100).toNat % 32 = (if v.toNat % 32 < 8 then 8 else if 16 < v.toNat % 32 then 16 else v.toNat % 32) ∧
      t = { s with dev := { s.dev with cycle := s.dev.cycle + 1, mkt := { s.dev.mkt with auditRate := t.dev.mkt.auditRate } } }) ∧
    (∃ t, exec (.trimModeWrite v) s = .next t ∧ (regRead t.nv t.dev 0x1000000).getLsbD 0 = v.getLsbD 0 ∧
      (regRead t.nv t.dev 0x1000000).getLsbD 1 = steps s.dev.state ∧ (steps s.dev.state = false → t.dev.mkt.trimMode = v.getLsbD 0) ∧
      (steps s.dev.state = true → t.dev.mkt.trimMode = s.dev.mkt.trimMode) ∧
      t = { s with dev := { s.dev with cycle := s.dev.cycle + 1, mkt := { s.dev.mkt with trimMode := t.dev.mkt.trimMode, trimNext := t.dev.mkt.trimNext } } })

/-- CH_IRQ_MASK keeps bits 13-0, and a set flag whose bit becomes 1 sends vector 2 at once, or with the interval's end (R419, R420); the end
of that interval sends what is due; a ring's coalesce time sends its vector (R421). -/
def Obligations.InterruptCommandsComplete : Prop :=
  ∀ (v : Word) (i : Nat) (s : State),
    (barFull s.dev = true → ∃ t, exec (.chIrqMaskWrite v) s = .next t ∧ HostOnly s t ∧ t.dev.host.irqMask = v &&& 0x3FFF ∧
      (summary s.dev &&& (v &&& 0x3FFF) &&& ~~~s.dev.host.irqMask ≠ 0 →
        (s.dev.host.vec2Open = true → t.dev.host.vec2Due = true) ∧
        (s.dev.host.vec2Open = false → t.dev.host.vec2Open = true ∧ (s.dev.host.msixUnmasked.getLsbD 2 = true → t.dev.out = s.dev.out ++ [.msix 2]) ∧
          (s.dev.host.msixUnmasked.getLsbD 2 = false → t.dev.host.msixPending.getLsbD 2 = true)))) ∧
    (s.dev.host.vec2Open = true → ∃ t, exec .vector2IntervalEnd s = .next t ∧ HostOnly s t ∧ t.dev.host.vec2Due = false ∧
      (s.dev.host.vec2Due = false → t.dev.host.vec2Open = false) ∧
      (s.dev.host.vec2Due = true → t.dev.host.vec2Open = true ∧ (s.dev.host.msixUnmasked.getLsbD 2 = true → t.dev.out = s.dev.out ++ [.msix 2]))) ∧
    ((getRing s.dev i).irqEn = true → 0 < (getRing s.dev i).posted → (getRing s.dev i).time ≠ 0 →
      ∃ t, exec (.coalesceTimeout i) s = .next t ∧ HostOnly s t ∧ (getRing t.dev i).posted = 0 ∧
        (s.dev.host.msixUnmasked.getLsbD (ringVector i (getRing s.dev i)) = true → t.dev.out = s.dev.out ++ [.msix (ringVector i (getRing s.dev i))]))

/-- The check units (R267, R268, R273): a port unit that is not active takes its control fields and its value, within the CRC's width; an
active one only its enable; a porter unit takes the channel, and a value where that channel's record is faulted or aborted. -/
def Obligations.CheckUnitWritesComplete : Prop :=
  ∀ (u : Nat) (v : Word) (w : W64) (s : State), barFull s.dev = true →
    (u < 12 → ∃ t, exec (.epChkCtlWrite u v) s = .next t ∧ SameStore s t ∧ t.dev = { s.dev with cycle := s.dev.cycle + 1, eth := { s.dev.eth with chks := t.dev.eth.chks } } ∧
      (getChk t.dev u).enable = v.getLsbD 0 ∧
      ((getChk s.dev u).active = false → (getChk t.dev u).crc = bits v.toNat 2 1 ∧ (getChk t.dev u).flow = bits v.toNat 19 4) ∧
      ((getChk s.dev u).active = true → (getChk t.dev u).crc = (getChk s.dev u).crc ∧ (getChk t.dev u).flow = (getChk s.dev u).flow)) ∧
    (12 ≤ u → u < 268 → ∃ t, exec (.epChkCtlWrite u v) s = .next t ∧ getChk t.dev u = { getChk s.dev u with channel := bits v.toNat 23 20 } ∧
      SameStore s t ∧ t.dev = { s.dev with cycle := s.dev.cycle + 1, eth := { s.dev.eth with chks := t.dev.eth.chks } }) ∧
    (u < 12 → (getChk s.dev u).active = false → ∃ t, exec (.epChkValueWrite u w) s = .next t ∧
      (getChk t.dev u).value.toNat = w.toNat % 2 ^ crcWidth (getChk s.dev u).crc % 2 ^ 64 ∧
      SameStore s t ∧ t.dev = { s.dev with cycle := s.dev.cycle + 1, eth := { s.dev.eth with chks := t.dev.eth.chks } }) ∧
    (12 ≤ u → u < 268 → ((chkChan s.dev u).state = .faulted ∨ (chkChan s.dev u).state = .aborted) → ∃ t, exec (.epChkValueWrite u w) s = .next t ∧
      (chkChan t.dev u).check.toNat = w.toNat % 2 ^ crcWidth (((chkChan s.dev u).d.map (·.crcCode)).getD 0) % 2 ^ 64 ∧
      SameStore s t ∧ t.dev = { s.dev with cycle := s.dev.cycle + 1, dram := { s.dev.dram with chans := t.dev.dram.chans } })

/-- BAR0 accesses (R400): a 4-byte write of CH_FAULT_READ takes its value (R393); a narrow or unaligned write sets bad_access and does
nothing else; a read of the low word of a 64-bit read-only register latches its high word, which the next 4-byte read of the high word
returns whatever the register holds by then. -/
def Obligations.RegisterAccessComplete : Prop :=
  ∀ (off size : Nat) (v : W64) (s : State),
    (barFull s.dev = true → ∃ t, exec (.registerWrite 0x400C 4 v) s = .next t ∧ SameStore s t ∧
      t.dev = { s.dev with cycle := s.dev.cycle + 1, faults := { s.dev.faults with readSeq := v.toNat % 2 ^ 32 } } ∧
      (regRead t.nv t.dev 0x400C).toNat = v.toNat % 2 ^ 32) ∧
    (barOpen s.dev = true → ¬ (size = 4 ∧ off % 4 = 0) → ¬ (size = 8 ∧ off % 8 = 0) →
      ∃ t, exec (.registerWrite off size v) s = .next t ∧ EventSeen .chHost 3 s t ∧ EventOnly s t) ∧
    (∀ x, barFull s.dev = true → off % 8 = 0 → reg64 s.dev off = some x → ∃ t, exec (.lowWordRead off) s = .next t ∧ HostOnly s t ∧
      t.dev.out = s.dev.out ++ [.regRead off (BitVec.ofNat 32 x)] ∧
      ∀ s' : State, s'.dev.host.latches = t.dev.host.latches → barFull s'.dev = true → (reg64 s'.dev off).isSome = true →
        ∃ u, exec (.lowWordRead (off + 4)) s' = .next u ∧ u.dev.out = s'.dev.out ++ [.regRead (off + 4) (BitVec.ofNat 32 (x / 2 ^ 32))])

/-- A staging write stores its bytes at the staging bytes they name, but for those of a range that a command is reading, which keep what
they hold and set staging_busy; no other byte of DRAM changes (R398, R399). -/
def Obligations.StagingWriteComplete : Prop :=
  ∀ (off : Nat) (bytes : List Byte) (s : State), barOpen s.dev = true → off + bytes.length ≤ 0x10000000 →
    ∃ t, exec (.stagingWrite off bytes) s = .next t ∧ t.nv = s.nv ∧ t.pending = s.pending ∧
      (∀ i, ∀ h : i < bytes.length, lockedByte (lockedRanges s.dev) (off + i) = false → memRead t.mem (stagingBase + off + i) = bytes[i]) ∧
      (∀ i, i < bytes.length → lockedByte (lockedRanges s.dev) (off + i) = true →
        memRead t.mem (stagingBase + off + i) = memRead s.mem (stagingBase + off + i) ∧ EventSeen .chHost 4 s t) ∧
      (∀ a, a < stagingBase + off ∨ stagingBase + off + bytes.length ≤ a → memRead t.mem a = memRead s.mem a)

/-- CH_STATE is a snapshot of the device state, of whether firmware runs on the clerks, and of the state before the most recent change;
every other bit reads 0; it resets to 0 and no write
changes it. -/
def Obligations.ChStateReadsTheState : Prop :=
  (∀ s : State, barOpen s.dev = true → ∃ t, exec (.lowWordRead 0x10) s = .next t ∧ HostOnly s t ∧
    ∃ w : Word, t.dev.out = s.dev.out ++ [.regRead 0x10 w] ∧ bits w.toNat 3 0 = stateCode s.dev.state ∧ w.getLsbD 4 = fwRuns s.dev ∧ bits w.toNat 7 5 = 0 ∧
      bits w.toNat 11 8 = stateCode s.dev.previous ∧ bits w.toNat 31 12 = 0) ∧
    stateCode State.reset.dev.state = 0 ∧ fwRuns State.reset.dev = false ∧ stateCode State.reset.dev.previous = 0 ∧
    (∀ (s : State) (v : W64), ∃ t, exec (.registerWrite 0x10 4 v) s = .next t ∧ t.dev.state = s.dev.state ∧ t.dev.previous = s.dev.previous ∧ t.dev.sec = s.dev.sec)

/-- CH_COVER[w] reads, in bit j, whether stall 32w + j is covered by its cover stall, for w = 0-59; it resets to 0 and no write changes it. -/
def Obligations.ChCoverReadsTheCover : Prop :=
  ∀ (w j : Nat), w < 60 → j < 32 →
    (∀ s : State, barFull s.dev = true → (regRead s.nv s.dev (0x4100 + 4 * w)).getLsbD j = (s.dev.net.covered.contains (32 * w + j) && (coverOf s.dev (32 * w + j)).isSome)) ∧
    State.reset.dev.net.covered.contains (32 * w + j) = false ∧
    (∀ (s : State) (v : W64), ∃ t, exec (.registerWrite (0x4100 + 4 * w) 4 v) s = .next t ∧ t.dev.net = s.dev.net)

/-! ### The sideband (R422-R424) -/

/-- A private write of an address sets the pointer; data goes to WB_ALERT_CTL alone, and every other write sets i3c_ignored (R422, R470). A
private read answers whole words from the pointer, which moves past them. -/
def Obligations.SidebandTransfersComplete : Prop :=
  ∀ (a : W16) (b : List Byte) (n : Nat) (s : State), s.dev.state ≠ .cold →
    (∃ t, exec (.i3cPrivateWrite a []) s = .next t ∧ SameStore s t ∧ t.dev = { s.dev with cycle := s.dev.cycle + 1, side := { s.dev.side with ptr := a } }) ∧
    (b.length = 4 → ∃ t, exec (.i3cPrivateWrite 0x1064 b) s = .next t ∧ SameStore s t ∧ t.dev.wb.alertMask.toNat = leAt b 0 1 ∧ t.dev.side.ptr = 0x1064) ∧
    (b ≠ [] → a ≠ 0x1064 → ∃ t, exec (.i3cPrivateWrite a b) s = .next t ∧ EventSeen .chHost 5 s t ∧ SameStore s t ∧ t.dev.wb = s.dev.wb ∧ t.dev.side.ptr = a) ∧
    (∃ t ws, exec (.i3cPrivateRead n) s = .next t ∧ SameStore s t ∧ t.dev.out = s.dev.out ++ [.i3cRead s.dev.side.ptr.toNat ws] ∧
      ws.length = (min n s.dev.side.mrl.toNat + 3) / 4 ∧ t.dev.side.ptr = s.dev.side.ptr + BitVec.ofNat 16 (4 * ws.length) ∧
      (∀ k, ∀ h : k < ws.length, ws[k] = sideRead s.nv s.dev ((s.dev.side.ptr.toNat + 4 * k) % 65536)) ∧
      t.dev = { s.dev with cycle := s.dev.cycle + 1, out := t.dev.out, side := { s.dev.side with ptr := t.dev.side.ptr } })

/-- The common commands (R422): addresses are assigned and reset, in-band interrupts enabled and disabled, lengths set, the read length at
most 64; the four that return a value answer in the length of the I3C standard (PRESUMED, log 35) and change nothing else. -/
def Obligations.SidebandCommonCommandsComplete : Prop :=
  ∀ (a st : BitVec 7) (b : Byte) (len : W16) (s : State), s.dev.state ≠ .cold →
    (s.dev.side.dynAddr = none → ∃ t, exec (.entdaa a true) s = .next t ∧ SameStore s t ∧ t.dev = { s.dev with cycle := s.dev.cycle + 1, side := { s.dev.side with dynAddr := some a } }) ∧
    (s.dev.side.dynAddr = none → st.toNat = 0x50 + s.dev.pwr.slot → ∃ t, exec (.setdasa st a) s = .next t ∧ SameStore s t ∧
      t.dev = { s.dev with cycle := s.dev.cycle + 1, side := { s.dev.side with dynAddr := some a } }) ∧
    (∃ t, exec .rstdaa s = .next t ∧ SameStore s t ∧ t.dev = { s.dev with cycle := s.dev.cycle + 1, side := { s.dev.side with dynAddr := none } }) ∧
    (b.getLsbD 0 = true → ∃ t, exec (.enec b) s = .next t ∧ SameStore s t ∧ t.dev.side = { s.dev.side with ibiOn := true }) ∧
    (b.getLsbD 0 = true → ∃ t, exec (.disec b) s = .next t ∧ SameStore s t ∧ t.dev = { s.dev with cycle := s.dev.cycle + 1, side := { s.dev.side with ibiOn := false } }) ∧
    (∃ t, exec (.setmwl len) s = .next t ∧ SameStore s t ∧ t.dev = { s.dev with cycle := s.dev.cycle + 1, side := { s.dev.side with mwl := len } }) ∧
    (∃ t, exec (.setmrl len) s = .next t ∧ SameStore s t ∧ t.dev.side.mrl.toNat = min len.toNat 64) ∧
    (∀ i n, (i, n) ∈ [(Instr.getpid, 6), (.getbcr, 1), (.getdcr, 1), (.getstatus, 2)] → ∃ t l, exec i s = .next t ∧ SameStore s t ∧ l.length = n ∧
      t.dev.out = s.dev.out ++ [.i3cAnswer l] ∧ t.dev = { s.dev with cycle := s.dev.cycle + 1, out := t.dev.out, freeIx := t.dev.freeIx }) ∧
    (∀ x r, s.dev.side.ibis = x :: r → ∃ t, exec .inBandInterruptTaken s = .next t ∧ SameStore s t ∧ t.dev.side = { s.dev.side with ibis := r } ∧
      t.dev.out = s.dev.out ++ (if s.dev.side.ibiOn then (r.take 1).map Out.ibi else []))

/-! ### Supply, reset, clocks, heat, the weighbridge (section 16) -/

/-- The rails start once, not after a trip (R448, R451, R466); a PERST# deassertion takes effect at once, or when the last rail is good, and
samples the straps (R19, R451). -/
def Obligations.SupplyUpCompletes : Prop :=
  ∀ (a b : Nat) (s : State),
    (railsUp s.dev.pwr = false → s.dev.pwr.tripped = false → ∃ t, exec .inputPowerRise s = .next t ∧
      t = { s with dev := { s.dev with cycle := s.dev.cycle + 1, pwr := { s.dev.pwr with sequencing := true } } }) ∧
    (railsUp s.dev.pwr = true ∨ s.dev.pwr.tripped = true → ∃ t, exec .inputPowerRise s = .next t ∧ Nothing s t) ∧
    (s.dev.pwr.sequencing = true → ∃ t, exec .railsInRegulation s = .next t ∧ t = { s with dev := { s.dev with cycle := s.dev.cycle + 1, pwr := t.dev.pwr } } ∧
      t.dev.pwr.railsGood = true ∧ t.dev.pwr.sequencing = false ∧ (s.dev.pwr.perstWaits = none → t.dev.pwr.outOfReset = s.dev.pwr.outOfReset) ∧
      (s.dev.pwr.perstWaits = some (a, b) → t.dev.pwr.outOfReset = true ∧ t.dev.pwr.tray = a % 64 ∧ t.dev.pwr.slot = b % 8)) ∧
    (s.dev.pwr.perst = true → ∃ t, exec (.perstDeassert a b) s = .next t ∧ t = { s with dev := { s.dev with cycle := s.dev.cycle + 1, pwr := t.dev.pwr } } ∧
      t.dev.pwr.perst = false ∧
      (s.dev.pwr.railsGood = true → t.dev.pwr.outOfReset = true ∧ t.dev.pwr.tray = a % 64 ∧ t.dev.pwr.slot = b % 8) ∧
      (s.dev.pwr.railsGood = false → t.dev.pwr.outOfReset = s.dev.pwr.outOfReset ∧ t.dev.pwr.perstWaits = some (a, b)))

/-- What each reset and each loss of supply leaves of the pins and the supply: the rails stand through PERST# and a function reset alone; a
trip stays until the input has been below 20 V; only the die diodes assert THERMTRIP#; only a function reset keeps the straps (R19, R397, R448,
R452, R466, R482). -/
def Obligations.ResetsAndTripsComplete : Prop :=
  ∀ s : State, s.dev.pwr.outOfReset = true → s.dev.pwr.railsGood = true →
    (∃ t, exec .undervoltageLockout s = .next t ∧ t.dev.state = .cold ∧ t.dev.pwr.railsGood = false ∧ t.dev.pwr.tripped = s.dev.pwr.tripped) ∧
    (∃ t, exec .inputBelow20v s = .next t ∧ t.dev.state = .cold ∧ t.dev.pwr.railsGood = false ∧ t.dev.pwr.tripped = false ∧ t.dev.pwr.thermtrip = false) ∧
    (∀ c ∈ [Instr.inputOverCurrentTrip, .inputOverVoltageTrip, .railOverCurrentTrip], ∃ t, exec c s = .next t ∧ t.dev.state = .cold ∧
      t.dev.pwr.railsGood = false ∧ t.dev.pwr.tripped = true ∧ t.dev.pwr.thermtrip = s.dev.pwr.thermtrip) ∧
    (∃ t, exec .dieOverTemperatureTrip s = .next t ∧ t.dev.state = .cold ∧ t.dev.pwr.railsGood = false ∧ t.dev.pwr.tripped = true ∧ t.dev.pwr.thermtrip = true) ∧
    (∃ t, exec .perstAssert s = .next t ∧ t.dev.state = .cold ∧ t.dev.pwr.railsGood = true ∧ t.dev.pwr.perst = true ∧ t.dev.pwr.outOfReset = false ∧
      t.dev.pwr.tray = 0 ∧ t.dev.pwr.slot = 0) ∧
    (∃ t, exec .functionReset s = .next t ∧ t.dev.state = .cold ∧ t.dev.pwr.railsGood = true ∧ t.dev.pwr.outOfReset = true ∧
      t.dev.pwr.tray = s.dev.pwr.tray ∧ t.dev.pwr.slot = s.dev.pwr.slot)

/-- Input low and recovered (R449), the module reference lost, with the FAULT of every running domain, and restored (R455), island clocks
stopped, restarted and moved towards their targets without passing them (R14, R454). -/
def Obligations.InputAndClockEventsComplete : Prop :=
  ∀ (i khz : Nat) (s : State),
    (s.dev.pwr.inputLow = false → s.dev.pwr.outOfReset = true → ∃ t, exec .inputLow s = .next t ∧ SameStore s t ∧ EventSeen .wb 2 s t ∧
      t.dev.pwr = { s.dev.pwr with inputLow := true }) ∧
    (s.dev.pwr.inputLow = true → ∃ t, exec .inputRecovered s = .next t ∧ SameStore s t ∧ t.dev.pwr = { s.dev.pwr with inputLow := false }) ∧
    (s.dev.pwr.refLost = false → s.dev.pwr.outOfReset = true → ∃ t, exec .referenceLost s = .next t ∧ SameStore s t ∧ EventSeen .wb 8 s t ∧
      t.dev.pwr = { s.dev.pwr with refLost := true } ∧ ∀ k ∈ runningDoms s.dev, (getDom t.dev k).faultRaised = true) ∧
    (∃ t, exec .referenceRestored s = .next t ∧ t = { s with dev := { s.dev with cycle := s.dev.cycle + 1, pwr := { s.dev.pwr with refLost := false } } }) ∧
    (isIsland i = true → s.dev.pwr.railsGood = true → ∃ t, exec (.islandClockStop i) s = .next t ∧ islandStopped t.dev i = true ∧
      (∀ j, j ≠ i → islandStopped t.dev j = islandStopped s.dev j) ∧ t = { s with dev := { s.dev with cycle := s.dev.cycle + 1, pwr := { s.dev.pwr with stopped := t.dev.pwr.stopped } } }) ∧
    (∃ t, exec (.islandClockRestart i) s = .next t ∧ islandStopped t.dev i = false ∧ (∀ j, j ≠ i → islandStopped t.dev j = islandStopped s.dev j) ∧
      t = { s with dev := { s.dev with cycle := s.dev.cycle + 1, pwr := { s.dev.pwr with stopped := t.dev.pwr.stopped } } }) ∧
    (isIsland i = true → islandStopped s.dev i = false → s.dev.pwr.refLost = false → s.dev.pwr.railsGood = true → ∃ t, exec (.islandClockAdjust i khz) s = .next t ∧
      min (islandKhz s.dev i) (islandTarget s.dev i) ≤ islandKhz t.dev i ∧ islandKhz t.dev i ≤ max (islandKhz s.dev i) (islandTarget s.dev i) ∧
      (min (islandKhz s.dev i) (islandTarget s.dev i) ≤ khz → khz ≤ max (islandKhz s.dev i) (islandTarget s.dev i) → islandKhz t.dev i = khz) ∧
      (∀ j, j ≠ i → islandKhz t.dev j = islandKhz s.dev j) ∧ t = { s with dev := { s.dev with cycle := s.dev.cycle + 1, pwr := { s.dev.pwr with khz := t.dev.pwr.khz } } })

/-- The thermal evaluation (R457-R459): outside the over-temperature hold the level rises at once to the highest level reached, falls by one,
and only 2 K below the present level's entry, and stays at 2 or above while a stack is at 95 °C; at 105 °C of die or stack the hold starts, at
level 5, with FAULT in every running domain. A sensor conversion replaces its sensor's reading alone (R456). -/
def Obligations.ThermalCommandsComplete : Prop :=
  ∀ (temps : List Nat) (i code : Nat) (s : State),
    (i < 64 → s.dev.pwr.railsGood = true → ∃ t, exec (.sensorConversion i code) s = .next t ∧ SameStore s t ∧ mget t.dev.therm.sensors i 0 = code % 4096 ∧
      (∀ j, j ≠ i → mget t.dev.therm.sensors j 0 = mget s.dev.therm.sensors j 0) ∧
      t.dev = { s.dev with cycle := s.dev.cycle + 1, therm := { s.dev.therm with sensors := t.dev.therm.sensors } }) ∧
    (s.dev.pwr.outOfReset = true → ∃ t, exec (.thermalEvaluation temps) s = .next t ∧ SameStore s t ∧
      (∀ h, h < 16 → mget t.dev.therm.stackMap h 0 = min 255 ((temps[h]?).getD 0)) ∧
      (s.dev.therm.overTemp = false → (dieTemp s.dev).1 < 1160 → hbmMax t.dev < 105 →
        let reached := levelReached (dieTemp s.dev).1
        let cur := s.dev.therm.level
        let own := if cur ≤ reached then reached else if (dieTemp s.dev).1 + 16 ≤ levelEntry cur then cur - 1 else cur
        t.dev.therm.overTemp = false ∧ t.dev.therm.level = (if 95 ≤ hbmMax t.dev then max own 2 else own) ∧
        (cur < t.dev.therm.level → EventSeen .wb 4 s t)) ∧
      (s.dev.therm.overTemp = false → 1160 ≤ (dieTemp s.dev).1 ∨ 105 ≤ hbmMax t.dev →
        t.dev.therm.overTemp = true ∧ t.dev.therm.level = 5 ∧ EventSeen .wb 6 s t ∧ ∀ k ∈ runningDoms s.dev, (getDom t.dev k).faultRaised = true))

/-- The weighbridge (R460-R467, R471, R472): an edge starts a burst, or is counted as an overlap; the codes of a burst become readable together at
its end; an edge window ends; 10 ms without an edge make telemetry stale, which limits the cap to 40; the alert's hold ends; a
write of WB_ALERT_CTL takes its mask (R470). -/
def Obligations.WeighbridgeCommandsComplete : Prop :=
  ∀ (a b : List Nat) (v : Word) (s : State),
    (barOpen s.dev = true → ∃ t, exec (.wbAlertCtlWrite v) s = .next t ∧ SameStore s t ∧ t.dev.wb.alertMask = v.setWidth 8) ∧
    (s.dev.pwr.outOfReset = true → s.dev.wb.burst = false → ∃ t, exec .sampleEdge s = .next t ∧
      t = { s with dev := { s.dev with cycle := s.dev.cycle + 1, wb := { s.dev.wb with burst := true, windowEdges := s.dev.wb.windowEdges + 1 } } }) ∧
    (s.dev.pwr.outOfReset = true → s.dev.wb.burst = true → ∃ t, exec .sampleEdge s = .next t ∧ SameStore s t ∧ EventSeen .wb 7 s t ∧
      t.dev.wb = { s.dev.wb with windowEdges := s.dev.wb.windowEdges + 1, overlaps := min 255 (s.dev.wb.overlaps + 1) }) ∧
    (s.dev.wb.burst = true → ∃ t, exec (.burstEnd a b) s = .next t ∧ SameStore s t ∧ t.dev.wb.burst = false ∧ t.dev.wb.burstNo = (s.dev.wb.burstNo + 1) % 65536 ∧
      (∀ k, k < 24 → mget t.dev.wb.codesA k 0 = ((a[k]?).getD 0) % 65536 ∧ mget t.dev.wb.codesB k 0 = ((b[k]?).getD 0) % 65536) ∧
      (s.dev.wb.implausible = false → s.dev.wb.badRun < 15 → t.dev.wb.fresh = true)) ∧
    (∃ t, exec .sampleWindowEnd s = .next t ∧
      t = { s with dev := { s.dev with cycle := s.dev.cycle + 1, wb := { s.dev.wb with edges := min 4095 s.dev.wb.windowEdges, windowEdges := 0 } } }) ∧
    (s.dev.wb.fresh = true → ∃ t, exec .telemetryStaleTimeout s = .next t ∧ SameStore s t ∧ t.dev.wb.fresh = false ∧ EventSeen .wb 1 s t ∧ effCap t.dev ≤ 40) ∧
    (s.dev.wb.alertHold = true → ∃ t, exec .alertHoldEnd s = .next t ∧
      t = { s with dev := { s.dev with cycle := s.dev.cycle + 1, wb := { s.dev.wb with alert := false, alertHold := false } } })

/-! ### Start-up and firmware (section 15) -/

/-- Power-up (R164, R425, R426): each of training, self-check and identity derivation is recorded; with the last one AWAIT_FW; a stack that
fails, or a failed check, gives FAULTED without firmware. -/
def Obligations.BootStepsComplete : Prop :=
  ∀ (res : List HbmTrain) (ok : Bool) (s : State), s.dev.state = .cold → s.dev.pwr.outOfReset = true →
    (s.dev.sec.hbmDone = false → (∀ h, h < 16 → (res[h]?).getD .failed ≠ .failed) → ∃ t, exec (.hbmTrainingEnd res) s = .next t ∧ SameStore s t ∧
      t.dev.sec = { s.dev.sec with hbmDone := true, hbmOk := true } ∧ (∀ h, h < 16 → mget t.dev.dram.stackMap h {} = hbmStackOf ((res[h]?).getD .failed)) ∧
      t.dev.state = (if s.dev.sec.romDone && s.dev.sec.romOk && s.dev.sec.idDone then .awaitFw else .cold)) ∧
    (s.dev.sec.hbmDone = false → (∃ h, h < 16 ∧ (res[h]?).getD .failed = .failed) → ∃ t, exec (.hbmTrainingEnd res) s = .next t ∧ SameStore s t ∧
      t.dev.state = .faulted ∧ t.dev.sec.hbmOk = false) ∧
    (s.dev.sec.romDone = false → ∃ t, exec (.romSelfCheckEnd ok) s = .next t ∧ SameStore s t ∧ t.dev.sec.fuseRead = true ∧ t.dev.sec.romDone = true ∧
      t.dev.sec.romOk = (ok && floorValid s.nv.fuses) ∧
      t.dev.state = (if ok && floorValid s.nv.fuses then (if s.dev.sec.hbmDone && s.dev.sec.hbmOk && s.dev.sec.idDone then .awaitFw else .cold) else .faulted)) ∧
    (∃ t, exec .identityDerivationEnd s = .next t ∧ SameStore s t ∧ t.dev.sec = { s.dev.sec with idDone := true } ∧
      t.dev.state = (if s.dev.sec.romDone && s.dev.sec.romOk && s.dev.sec.hbmDone && s.dev.sec.hbmOk then .awaitFw else .cold))

/-- Firmware (R430-R436): FW_LOAD and FW_ACTIVATE_AT wait for their verification; an image that passes every check of R432 runs (FW_LOAD), or
is armed (FW_ACTIVATE_AT in SERVING and DRAINING); the first check that fails gives the completion's status; the clerks start in AWAIT_PLAN; an
armed activation can be cancelled; a handover ends. -/
def Obligations.FirmwareCommandsComplete : Prop :=
  ∀ (c : Cmd) (j : FwJob) (s : State),
    (Accepted 0x10 c s → ∃ t, exec (.fwLoad c) s = .next t ∧ InProgress c t ∧ SameStore s t ∧
      t.dev.sec = { s.dev.sec with fwJobs := s.dev.sec.fwJobs ++ [{ ring := c.ring, off := param c.params 8 4, len := param c.params 12 4, activate := none }] }) ∧
    (Accepted 0x11 c s → s.dev.sec.armed = none → s.dev.sec.windowOpen = false → ∃ t, exec (.fwActivateAt c) s = .next t ∧ InProgress c t ∧ SameStore s t ∧
      t.dev.sec = { s.dev.sec with fwJobs := s.dev.sec.fwJobs ++ [{ ring := c.ring, off := param c.params 8 4, len := param c.params 12 4, activate := some { domain := param c.params 24 1, step := param c.params 16 8, window := param c.params 26 2 } }] }) ∧
    (s.dev.sec.fwJobs = [j] → j.activate = none → s.dev.state = .awaitFw → fwCheck s.dev s.nv s.mem j true = none →
      ∃ t, exec (.firmwareVerificationEnd true) s = .next t ∧ SameStore s t ∧ JobAnswered j.ring .ok 0 s t ∧
        t.dev.sec = { s.dev.sec with fwJobs := [], running := some (fwImage (staged s.mem j.off j.len)), starting := true }) ∧
    (∀ a, s.dev.sec.fwJobs = [j] → j.activate = some a → s.dev.sec.armed = none → s.dev.sec.windowOpen = false → (s.dev.state = .serving ∨ s.dev.state = .draining) →
      fwCheck s.dev s.nv s.mem j true = none → ∃ t, exec (.firmwareVerificationEnd true) s = .next t ∧ SameStore s t ∧ JobAnswered j.ring .ok 0 s t ∧
        EventSeen .sc 1 s t ∧ t.dev.sec = { s.dev.sec with fwJobs := [], armed := some a, pend := some (fwImage (staged s.mem j.off j.len)) }) ∧
    (∀ n st, s.dev.sec.fwJobs = [j] → s.dev.sec.armed = none → s.dev.sec.windowOpen = false → fwCheck s.dev s.nv s.mem j true = some (n, st) →
      ∃ t, exec (.firmwareVerificationEnd true) s = .next t ∧ SameStore s t ∧ JobAnswered j.ring st 0 s t ∧ EventSeen .sc 0 s t ∧
        t.dev.sec = { s.dev.sec with fwJobs := [], lastFail := n, lastFailStatus := statusCode st }) ∧
    (s.dev.sec.starting = true → s.dev.state = .awaitFw → ∃ t, exec .clerksStart s = .next t ∧ SameStore s t ∧ t.dev.state = .awaitPlan ∧
      t.dev.sec = { s.dev.sec with starting := false }) ∧
    (Accepted 0x12 c s → s.dev.sec.armed ≠ none → ∃ t, exec (.fwActivateCancel c) s = .next t ∧ Answered c .ok 0 s t ∧ SameStore s t ∧
      t.dev.sec = { s.dev.sec with armed := none, pend := none }) ∧
    (s.dev.sec.switching = true → ∃ t, exec .clerkHandover s = .next t ∧ SameStore s t ∧ t.dev.sec = { s.dev.sec with switching := false })

/-- The confirmation window (R437, R438): a confirmation ends it, forgets the previous image and, where the image commits its security version,
blows every floor step up to it; its expiry, or a trap within it, brings the previous image back; a trap outside it raises FAULT in every running
domain. -/
def Obligations.ConfirmationWindowCompletes : Prop :=
  ∀ (i : FwImage) (s : State),
    (s.dev.sec.windowOpen = true → s.dev.sec.switching = false → s.dev.sec.running = some i → ∃ t, exec (.fwConfirm []) s = .next t ∧ EventSeen .sc 3 s t ∧
      t.mem = s.mem ∧ t.nv.cells = s.nv.cells ∧ t.dev.sec = { s.dev.sec with windowOpen := false, previous := none } ∧
      (bitOf i.flags.toNat 1 = true → i.svn ≤ 64 → ∀ k, floorOf s.nv.fuses < k → k ≤ i.svn → (floorBits t.nv.fuses).getLsbD (k - 1) = true) ∧
      (bitOf i.flags.toNat 1 = false → t.nv.fuses.floorA = s.nv.fuses.floorA ∧ t.nv.fuses.floorB = s.nv.fuses.floorB)) ∧
    (∀ c ∈ [Instr.confirmationWindowExpiry, .clerkTrap], s.dev.sec.windowOpen = true → fwRuns s.dev = true → ∃ t, exec c s = .next t ∧ SameStore s t ∧
      EventSeen .sc 4 s t ∧
      t.dev.sec = { s.dev.sec with running := s.dev.sec.previous, previous := none, windowOpen := false, switching := false, fellBack := true }) ∧
    (fwRuns s.dev = true → s.dev.sec.windowOpen = false → runningDoms s.dev ≠ [] → ∃ t, exec .clerkTrap s = .next t ∧ SameStore s t ∧
      ∀ k ∈ runningDoms s.dev, (getDom t.dev k).faultRaised = true)

/-- Fleet patterns (R389): PATTERN_LOAD waits for its verification; a well-formed set that verifies and is not older takes effect at the next
bell in SERVING and at once elsewhere, and the completion carries its serial. -/
def Obligations.PatternCommandsComplete : Prop :=
  ∀ (c : Cmd) (ring off len : Nat) (p : PatSet) (s : State),
    (Accepted 0x13 c s → ∃ t, exec (.patternLoad c) s = .next t ∧ InProgress c t ∧ SameStore s t ∧
      t.dev.sec = { s.dev.sec with patJobs := s.dev.sec.patJobs ++ [(c.ring, param c.params 8 4, param c.params 12 4)] }) ∧
    (s.dev.sec.patJobs = [(ring, off, len)] → 0x0F000000 ≤ off → off + len ≤ 0x10000000 → len ≤ 0x400000 → patParse (staged s.mem off len) = some p →
      patSerial s.dev ≤ p.serial → ∃ t, exec (.patternSetVerified true) s = .next t ∧ SameStore s t ∧ JobAnswered ring .ok p.serial s t ∧
        (s.dev.state = .serving → t.dev.mkt = { s.dev.mkt with patsNext := some p }) ∧
        (s.dev.state ≠ .serving → t.dev.mkt = { s.dev.mkt with pats := some p, patsNext := none }))

/-! ### Plan and policy epochs (sections 5, 8) -/

/-- PLAN_LOAD discards the plan in force and validates; slices keep their trims, and cells stay as they are where no operation on them runs (R201, R414); during a
validation it is BUSY (R415), and in FAULTED without the module reference it is turned away with STATE (R455; log 110). A plan that passes is in force, its entries read
from the staged image; one that fails leaves HELD with its check, section and item, which are the completion's result, and AUTH for a certificate or signature, BAD_ARG for any
other check (R202); DRAM is then initialised, and the device enters STOCKING (R173). -/
def Obligations.PlanCommandsComplete : Prop :=
  ∀ (c : Cmd) (doc : PlanDoc) (cert sig : Bool) (s : State), let img := stagedPlan s.dev s.mem; let full := readTables img doc
    let found := planCheck img s.dev.host.stagedEnd s.nv.fuses (sha3 (deviceIdKey s.nv)) full cert sig
    (Accepted 0x20 c s → s.dev.plan.validating = false → (s.dev.state ≠ .faulted ∨ s.dev.pwr.refLost = false) → ∃ t, exec (.planLoad c) s = .next t ∧ InProgress c t ∧
      t.mem = s.mem ∧ t.pending = s.pending ∧ t.nv.fuses = s.nv.fuses ∧ (inProgress s.dev = [] → t.nv = s.nv) ∧
      t.dev.state = .awaitPlan ∧ t.dev.plan.plan = none ∧ t.dev.plan.validating = true ∧ t.dev.doms = [] ∧ t.dev.stock.parts = [] ∧
      t.dev.srv.tickets = [] ∧ t.dev.faults.log = [] ∧ t.dev.mkt.slices = s.dev.mkt.slices) ∧
    (Accepted 0x20 c s → s.dev.plan.validating = true → ∃ t, exec (.planLoad c) s = .next t ∧ Answered c .busy 0 s t ∧ HostOnly s t) ∧
    (Accepted 0x20 c s → s.dev.plan.validating = false → s.dev.state = .faulted → s.dev.pwr.refLost = true →
      ∃ t, exec (.planLoad c) s = .next t ∧ Answered c .state 0 s t ∧ HostOnly s t) ∧
    (s.dev.plan.validating = true → found = none →
      ∃ t, exec (.planValidationEnd doc cert sig) s = .next t ∧ SameStore s t ∧ JobAnswered s.dev.plan.ring .ok 0 s t ∧ theDoc t.dev = some full ∧
        t.dev.plan.validating = false ∧ t.dev.plan.rejected = false ∧ t.dev.state = s.dev.state ∧ t.dev.mkt.actCap = max 10 (min 100 full.initCap) ∧
        t.dev.dram.kvLow = full.initKvLow) ∧
    (∀ chk sect item, s.dev.plan.validating = true → found = some (chk, sect, item) →
      ∃ t, exec (.planValidationEnd doc cert sig) s = .next t ∧ SameStore s t ∧ t.dev.state = .held ∧ theDoc t.dev = theDoc s.dev ∧
        t.dev.plan.rejected = true ∧ t.dev.plan.check = chk ∧ t.dev.plan.sect = sect ∧ t.dev.plan.item = item ∧ t.dev.plan.validating = false ∧
        ((∀ j, (getRing s.dev s.dev.plan.ring).job = some j → j.opcode = 0x20) →
          JobAnswered s.dev.plan.ring (if chk = 0x04 ∨ chk = 0x05 then .auth else .badArg) (chk + sect * 256 + item % 2 ^ 32 * 2 ^ 32) s t)) ∧
    (∀ p, theDoc s.dev = some p → s.dev.state = .awaitPlan → s.dev.plan.validating = false → ∃ t, exec .dramInitEnd s = .next t ∧ t.nv = s.nv ∧
      t.dev.state = .stocking ∧ t.dev.dram.free = (kvPool p).2 ∧
      (∀ a, a < stagingBase → (∀ r ∈ p.tables, a < r.1 ∨ r.1 + r.2.length ≤ a) → memRead t.mem a = 0))

/-- EPOCH_SET with a later epoch and a floor table without a reserved code arms the epoch, with the floors of the table, 2 bits for each stall and ordinal, for the next bell and
changes nothing else (R121); a number not greater, a table that does not lie in the staging area and a reserved code complete with BAD_ARG; while a ticket is pinned to an epoch before the present
one it is BUSY (R122). -/
def Obligations.EpochSetCompletes : Prop :=
  ∀ (c : Cmd) (s : State), let b := staged s.mem (param c.params 12 4) 61440; let bad := param c.params 8 4 ≤ s.dev.epochs.cur ∨ 0x10000000 < param c.params 12 4 + 61440 ∨ b.any floorBad = true
    let pinnedOld := s.dev.epochs.pins.any fun e => decide (e.1 < s.dev.epochs.cur) && decide (0 < e.2)
    Accepted 0x21 c s →
    (¬ bad → pinnedOld = false →
      ∃ t f, exec (.epochSet c) s = .next t ∧ Answered c .ok 0 s t ∧ SameStore s t ∧
        t.dev = { s.dev with cycle := s.dev.cycle + 1, host := t.dev.host, out := t.dev.out, epochs := { s.dev.epochs with next := some (param c.params 8 4, f) } } ∧
        ∀ i, i < 245760 → mget f i 0 = bits ((b[i / 4]?).getD 0).toNat (2 * (i % 4) + 1) (2 * (i % 4))) ∧
    (bad → ∃ t, exec (.epochSet c) s = .next t ∧ Answered c .badArg 0 s t ∧ HostOnly s t) ∧
    (¬ bad → pinnedOld = true → ∃ t, exec (.epochSet c) s = .next t ∧ Answered c .busy 0 s t ∧ HostOnly s t)

/-! ### Serving commands (section 11, R415) -/

/-- SERVE_START enters SERVING; the root of a machine-wide domain that has every child's readiness fires the first bell with it, for the step that it proposes, at level 0
(R211, R414), and a device that is no root does nothing else that its completion shows;
SERVE_DRAIN and SERVE_STOP take effect at the next bell, or at once where no domain runs; SERVE_STOP is BUSY while a ticket is admitted (R349,
R414, R415; that a device without a running domain changes its state at once is the model's reading, log 44). -/
def Obligations.ServeStateCommandsComplete : Prop :=
  ∀ (c : Cmd) (s : State),
    (Accepted 0x22 c s → (∀ e ∈ planDomains s.dev, e.machine = true → parentOf s.dev e.num ≠ none) →
      ∃ t, exec (.serveStart c) s = .next t ∧ t.dev.state = .serving ∧ Answered c .ok 0 s t) ∧
    (∀ e, Accepted 0x22 c s → planDomains s.dev = [e] → e.machine = true → e.parent = none → e.children = [] → (getDom s.dev e.num).running = false →
      (getDom s.dev e.num).faultRaised = false → ∃ t, exec (.serveStart c) s = .next t ∧
        (getDom t.dev e.num).belled = true ∧ (getDom t.dev e.num).step = readyStep s.dev e.num ∧ (getDom t.dev e.num).level = 0 ∧ let r := getRing s.dev c.ring
        postedBy t = postedBy s ++ [.completion c.ring (cplAddr r) (cplEntry c.cid c.opcode .ok .serving r.phase 0 ((r.head + 1) % ringSize r))]) ∧
    (Accepted 0x23 c s → runningDoms s.dev ≠ [] → ∃ t, exec (.serveDrain c) s = .next t ∧ Answered c .ok 0 s t ∧ SameStore s t ∧
      t.dev = { s.dev with cycle := s.dev.cycle + 1, host := t.dev.host, out := t.dev.out, srv := { s.dev.srv with drainNext := true } }) ∧
    (Accepted 0x23 c s → runningDoms s.dev = [] → ∃ t, exec (.serveDrain c) s = .next t ∧ Answered c .ok 0 s t ∧ SameStore s t ∧ t.dev.state = .draining) ∧
    (Accepted 0x24 c s → countState s.dev admitted = 0 → runningDoms s.dev ≠ [] → ∃ t, exec (.serveStop c) s = .next t ∧ Answered c .ok 0 s t ∧ SameStore s t ∧
      t.dev = { s.dev with cycle := s.dev.cycle + 1, host := t.dev.host, out := t.dev.out, srv := { s.dev.srv with stopNext := true } }) ∧
    (Accepted 0x24 c s → countState s.dev admitted = 0 → runningDoms s.dev = [] → ∃ t, exec (.serveStop c) s = .next t ∧ Answered c .ok 0 s t ∧ SameStore s t ∧
      t.dev.state = .ready) ∧
    (Accepted 0x24 c s → 0 < countState s.dev admitted → ∃ t, exec (.serveStop c) s = .next t ∧ Answered c .busy 0 s t ∧ HostOnly s t)

/-- CUSTOMER_SET, ADAPTER_LOAD, ADAPTER_REVOKE and PREFIX_FLUSH wait for the next bell, or for the adapter's body, and change nothing before
(R336, R337, R348). -/
def Obligations.CustomerAndAdapterCommandsComplete : Prop :=
  ∀ (c : Cmd) (s : State),
    (Accepted 0x40 c s → bitOf (param c.params 10 1) 4 = true ∨ param c.params 12 2 < (serve s.dev).queues.length →
      ∃ t x, exec (.customerSet c) s = .next t ∧ Answered c .ok 0 s t ∧ SameStore s t ∧
        t.dev = { s.dev with cycle := s.dev.cycle + 1, host := t.dev.host, out := t.dev.out, srv := { s.dev.srv with custSets := s.dev.srv.custSets ++ [x] } } ∧
        x.customer = param c.params 8 2 ∧ x.enable = bitOf (param c.params 10 1) 0 ∧ x.queue = param c.params 12 2 ∧ x.q = param c.params 16 4 ∧
        x.burst = param c.params 20 4 ∧ x.key.toNat = param c.params 24 16) ∧
    (Accepted 0x41 c s → param c.params 14 1 ≤ 1 → param c.params 8 4 ≠ 0xFFFFFFFF → mfind s.dev.srv.adapters (param c.params 8 4) = none →
      (∀ e ∈ s.dev.srv.adapterSets, e.1 ≠ param c.params 8 4) → (∀ a ∈ s.dev.srv.adLoads, a.index ≠ param c.params 8 4) → 0 < param c.params 28 8 →
      param c.params 20 8 + param c.params 28 8 ≤ ((theDoc s.dev).map fun p => (regionOf p .adapter).size).getD 0 →
      (∀ r ∈ adapterRanges s.dev, param c.params 20 8 + param c.params 28 8 ≤ r.1 ∨ r.2 ≤ param c.params 20 8) →
      sourceUp s.dev (param c.params 14 1) (param c.params 16 4) = true →
      ∃ t, exec (.adapterLoad c) s = .next t ∧ Answered c .ok 0 s t ∧ SameStore s t ∧
        t.dev.srv = { s.dev.srv with adLoads := s.dev.srv.adLoads ++ [{ index := param c.params 8 4, customer := param c.params 12 2, srcKind := param c.params 14 1, src := param c.params 16 4, offset := param c.params 20 8, length := param c.params 28 8, rx := [] }] }) ∧
    (Accepted 0x42 c s → (mfind s.dev.srv.adapters (param c.params 8 4)).isSome = true → adapterPinned s.dev (param c.params 8 4) = false →
      ∃ t, exec (.adapterRevoke c) s = .next t ∧ Answered c .ok 0 s t ∧ SameStore s t ∧ t.dev.srv = { s.dev.srv with revokes := s.dev.srv.revokes ++ [param c.params 8 4] }) ∧
    (Accepted 0x45 c s → ∃ t, exec (.prefixFlush c) s = .next t ∧ Answered c .ok 0 s t ∧ SameStore s t ∧
      t.dev.srv = { s.dev.srv with flushes := s.dev.srv.flushes ++ [if bitOf (param c.params 10 1) 0 then none else some (param c.params 8 2)] })

/-- TICKET_ABORT joins the cancels of the next bell (R345, R347), TICKET_PREEMPT its pre-emptions (R341); a handle that names no live ticket is
STALE; the retention of an ended ticket's handle frees its index, whose generation stays (R315). -/
def Obligations.TicketCommandsComplete : Prop :=
  ∀ (c : Cmd) (k : Nat) (s : State),
    (Accepted 0x43 c s → liveHandle s.dev (param c.params 8 4) ≠ none → ∃ t, exec (.ticketAbort c) s = .next t ∧ Answered c .ok 0 s t ∧ SameStore s t ∧
      t.dev.srv = { s.dev.srv with ends := s.dev.srv.ends ++ [(param c.params 8 4, 0, 0, true)] }) ∧
    (Accepted 0x44 c s → liveHandle s.dev (param c.params 8 4) = some k → inLane (getTicket s.dev k) = true → ∃ t, exec (.ticketPreempt c) s = .next t ∧
      Answered c .ok 0 s t ∧ SameStore s t ∧ k ∈ t.dev.srv.preempts ∧ t.dev.srv = { s.dev.srv with preempts := t.dev.srv.preempts }) ∧
    (Accepted 0x43 c s → liveHandle s.dev (param c.params 8 4) = none → ∃ t, exec (.ticketAbort c) s = .next t ∧ Answered c .stale 0 s t ∧ HostOnly s t) ∧
    ((getTicket s.dev k).state = .ended → ∃ t, exec (.handleRetentionEnd k) s = .next t ∧ SameStore s t ∧ (getTicket t.dev k).state = .free ∧
      (getTicket t.dev k).gen = (getTicket s.dev k).gen ∧ ∀ j, j ≠ k → getTicket t.dev j = getTicket s.dev j)

/-! ### Stock commands (section 10) -/

/-- STOCK_LOAD and SHELF_WRITE wait for steps 1-3 of R290: the restock is recorded, nothing is erased (R288, R289, R299, R303). -/
def Obligations.RestockCommandsComplete : Prop :=
  ∀ (c : Cmd) (s : State), let p := param c.params 8 1; let x := getPart s.dev p; let gen := param c.params 12 4; let n := (chunkDefs s.dev p).length
    let off := param c.params 20 4; let pl := placeEntries n (staged s.mem off (8 * n))
    (Accepted 0x30 c s → isStockPart s.dev p = true → param c.params 10 1 ≤ 1 → gen ≠ 0 → x.restock = none → x.refresh = none →
      sourceUp s.dev (param c.params 10 1) (param c.params 16 4) = true → param c.params 9 1 = 0 → off + 8 * n ≤ 0x10000000 →
      placeFits s.dev s.nv p (chunkDefs s.dev p) pl = true → x.sideState = 0 →
      ∃ t r, exec (.stockLoad c) s = .next t ∧ InProgress c t ∧ SameStore s t ∧ getPart t.dev p = { x with restock := some r } ∧ r.gen = gen ∧
        r.inPlace = false ∧ r.place = pl ∧ r.verified = false ∧ r.ring = c.ring ∧ r.stamp = param c.params 24 4) ∧
    (Accepted 0x30 c s → isStockPart s.dev p = true → param c.params 10 1 ≤ 1 → gen ≠ 0 → x.restock = none → x.refresh = none →
      sourceUp s.dev (param c.params 10 1) (param c.params 16 4) = true → param c.params 9 1 = 1 → x.live = gen → x.gone = false → genComplete s.dev p gen = false →
      (∀ e ∈ x.liveMap, isShelf e.2.1 = false) → pinned s.dev p gen = 0 → recentlyPinned s.dev p gen = false → (∀ e ∈ x.liveMap, planeCount s.dev s.nv (physArr s.dev e.2.1) e.2.2 < 30000) →
      ∃ t r, exec (.stockLoad c) s = .next t ∧ InProgress c t ∧ SameStore s t ∧ getPart t.dev p = { x with restock := some r } ∧ r.gen = gen ∧
        r.inPlace = true ∧ r.verified = false ∧ r.ring = c.ring) ∧
    (∀ e, Accepted 0x37 c s → param c.params 8 1 ≤ 1 → (theDoc s.dev).bind (·.shelf) = some e → (getPart s.dev 16).restock = none →
      sourceUp s.dev (param c.params 8 1) (param c.params 12 4) = true → shelfWorn s.nv s.dev = false →
      ∃ t r, exec (.shelfWrite c) s = .next t ∧ InProgress c t ∧ SameStore s t ∧ getPart t.dev 16 = { getPart s.dev 16 with restock := some r } ∧ r.gen = e.gen ∧
        r.total = 1024 ∧ r.verified = false)

/-- A crate's header that passes steps 1-3 of R290 starts the restock of a new side generation and completes its command; a header that does not fit the partition ends it with
BAD_ARG, one whose signature does not verify with AUTH and ST_EVENT.auth, nothing created (R288, R290). -/
def Obligations.RestockHeaderCompletes : Prop :=
  ∀ (p : Nat) (h : List Byte) (leaves : List Digest) (r : Restock) (s : State),
    (getPart s.dev p).restock = some r → r.verified = false → r.halted = false → p < 16 → r.inPlace = false →
    (headerOk s.dev p r.gen h = true → genAllowed s.dev p (getPart s.dev p) r = true → (((theDoc s.dev).map (·.pubKeys)).getD []).contains (digestAt h 64) = true →
      (∀ q, knownRoot s.dev p (getPart s.dev p) r = some q → q = digestAt h 32) → leaves.length = (chunkDefs s.dev p).length →
      merkleRoot leaves = digestAt h 32 → ∃ t, exec (.restockHeaderVerified p h leaves true true) s = .next t ∧ SameStore s t ∧ JobAnswered r.ring .ok 0 s t ∧
        (getPart t.dev p).side = r.gen ∧ (getPart t.dev p).sideState = 1 ∧ (getPart t.dev p).sideRoot = digestAt h 32 ∧ (getPart t.dev p).live = (getPart s.dev p).live ∧
        (getPart t.dev p).restock.any (·.verified) = true) ∧
    (headerOk s.dev p r.gen h = false → ∃ t, exec (.restockHeaderVerified p h leaves true true) s = .next t ∧ SameStore s t ∧ JobAnswered r.ring .badArg 0 s t ∧
      getPart t.dev p = { getPart s.dev p with restock := none }) ∧
    (headerOk s.dev p r.gen h = true → genAllowed s.dev p (getPart s.dev p) r = true → ∃ t, exec (.restockHeaderVerified p h leaves false true) s = .next t ∧ SameStore s t ∧
      JobAnswered r.ring .auth 0 s t ∧ EventSeen .st 2 s t ∧ getPart t.dev p = { getPart s.dev p with restock := none })

/-- STOCK_FLIP is armed, or takes effect at once in READY with step 0: a switch makes the side generation live and drains the old one, a stop
stops admissions; its cancel disarms it (R296, R297). STOCK_RELEASE frees a draining generation that nothing pins (R298). -/
def Obligations.FlipAndReleaseCommandsComplete : Prop :=
  ∀ (c : Cmd) (e : PartEntry) (s : State), let p := param c.params 8 1; let x := getPart s.dev p; let gen := param c.params 12 4; let act := param c.params 9 1
    let at_ := param c.params 16 8
    (Accepted 0x31 c s → partOf s.dev p = some e → act ≤ 1 → (act = 0 → genComplete s.dev p gen = true) → x.armed = none →
      (at_ = 0 ∨ (getDom s.dev e.domain).step < at_) → ¬ (s.dev.state = .ready ∧ at_ = 0) →
      ∃ t, exec (.stockFlip c) s = .next t ∧ Answered c .ok 0 s t ∧ SameStore s t ∧ getPart t.dev p = { x with armed := some (gen, act, at_) }) ∧
    (Accepted 0x31 c s → partOf s.dev p = some e → act = 1 → x.armed = none → s.dev.state = .ready → at_ = 0 →
      ∃ t, exec (.stockFlip c) s = .next t ∧ Answered c .ok 0 s t ∧ SameStore s t ∧ EventSeen .st 4 s t ∧ getPart t.dev p = { x with stopped := true }) ∧
    (Accepted 0x31 c s → partOf s.dev p = some e → act = 0 → x.armed = none → s.dev.state = .ready → at_ = 0 → x.side = gen → genComplete s.dev p gen = true →
      x.gone = false → ∃ t, exec (.stockFlip c) s = .next t ∧ Answered c .ok 0 s t ∧ SameStore s t ∧ EventSeen .st 4 s t ∧
        (getPart t.dev p).live = gen ∧ (getPart t.dev p).liveMap = x.sideMap ∧ (getPart t.dev p).side = x.live ∧ (getPart t.dev p).sideState = 3) ∧
    (Accepted 0x32 c s → isStockPart s.dev p = true → x.armed ≠ none → ∃ t, exec (.stockFlipCancel c) s = .next t ∧ Answered c .ok 0 s t ∧ SameStore s t ∧
      getPart t.dev p = { x with armed := none }) ∧
    (Accepted 0x33 c s → partOf s.dev p = some e → gen ≠ 0 → x.side = gen → 2 ≤ x.sideState → pinned s.dev p gen = 0 → x.armed = none →
      ∃ t, exec (.stockRelease c) s = .next t ∧ Answered c .ok 0 s t ∧ SameStore s t ∧
        (s.dev.state = .ready → (getPart t.dev p).side = 0 ∧ (getPart t.dev p).sideState = 0 ∧ (getPart t.dev p).sideMap = []) ∧
        (s.dev.state = .serving → (getDom s.dev e.domain).running = false → (getPart t.dev p).side = 0 ∧ (getPart t.dev p).sideState = 0 ∧ (getPart t.dev p).sideMap = []) ∧
        (s.dev.state = .draining ∨ s.dev.state = .serving ∧ (getDom s.dev e.domain).running = true → getPart t.dev p = { x with release := true }) ∧
        (getPart t.dev p).live = x.live)

/-- STOCK_ABORT ends a restock that has begun and frees its side generation (R292); STOCKTAKE starts where none runs (R293); STOCK_REFRESH of
planes that fit is recorded, and its maps move at the bell after it completes (R305). -/
def Obligations.AbortStocktakeAndRefreshComplete : Prop :=
  ∀ (c : Cmd) (r : Restock) (s : State), let p := param c.params 8 1; let x := getPart s.dev p
    (Accepted 0x34 c s → isStockPart s.dev p = true → x.restock = some r → r.verified = true → x.side = r.gen → x.sideState = 1 →
      ∃ t, exec (.stockAbort c) s = .next t ∧ Answered c .ok 0 s t ∧ SameStore s t ∧ (getPart t.dev p).restock = none ∧ (getPart t.dev p).side = 0 ∧
        (getPart t.dev p).sideState = 0 ∧ (getPart t.dev p).live = x.live ∧ (getPart t.dev p).liveMap = x.liveMap) ∧
    (Accepted 0x34 c s → isStockPart s.dev p = true → x.restock = none → ∃ t, exec (.stockAbort c) s = .next t ∧ Answered c .ok 0 s t ∧ HostOnly s t) ∧
    (Accepted 0x35 c s → s.dev.stock.takeRunning = false → (∃ q, q < 16 ∧ bitOf (param c.params 8 2) q = true ∧ isStockPart s.dev q = true ∧ (getPart s.dev q).liveMap ≠ []) →
      ∃ t, exec (.stocktake c) s = .next t ∧ Answered c .ok 0 s t ∧ SameStore s t ∧ t.dev.stock.takeRunning = true ∧
        ∀ q, q < 16 → bitOf (param c.params 8 2) q = true → isStockPart s.dev q = true → ∀ e ∈ (getPart s.dev q).liveMap, (physArr s.dev e.2.1, e.2.2) ∈ t.dev.stock.take) ∧
    (Accepted 0x35 c s → s.dev.stock.takeRunning = true → ∃ t, exec (.stocktake c) s = .next t ∧ Answered c .busy 0 s t ∧ HostOnly s t) ∧
    (Accepted 0x36 c s → isStockPart s.dev p = true → param c.params 12 2 ≤ param c.params 14 2 → x.restock = none → x.refresh = none →
      let ds := (chunkDefs s.dev p).filter fun k => x.liveMap.any fun e => decide (e.1.1 = k.chunk) && decide (param c.params 12 2 ≤ e.2.1) && decide (e.2.1 ≤ param c.params 14 2)
      let off := param c.params 16 4
      off + 8 * ds.length ≤ 0x10000000 → placeFits s.dev s.nv p ds (placeEntries ds.length (staged s.mem off (8 * ds.length))) = true →
      ∃ t f, exec (.stockRefresh c) s = .next t ∧ Answered c .ok 0 s t ∧ SameStore s t ∧ getPart t.dev p = { x with refresh := some f } ∧
        f.first = param c.params 12 2 ∧ f.left = f.moves.map (·.1))

/-! ### Porters and DRAM (section 7) -/

/-- A unit of a running transfer without a check unit, in its turn and within the window of 16, whose destination is DRAM: a copy stores the source's bytes in order, a gather
those of its elements, `stride` apart, a fill its pattern, at the destination's addresses and nowhere else, and units_done passes the unit (R183-R187). A unit of which a source line is lost
stores nothing, and the transfer ends faulted, cause 1 (R167, R187). -/
def Obligations.PorterUnitStoresItsBytes : Prop :=
  ∀ (p ch u : Nat) (x : Desc) (s : State), let c := getChan s.dev p ch
    c.d = some x → c.state = .running → u = c.unitsDone → u < unitsOut c → c.early.contains u = false → addrError s.dev x c u = false → x.check = false →
    x.dstSpace = 0 → ((x.op = 0 ∨ x.op = 1) ∧ x.srcSpace = 0 ∨ x.op = 3) →
    (unitLost s.dev x c u = false → ∃ t, exec (.porterUnitComplete p ch { ix := u }) s = .next t ∧ t.nv = s.nv ∧ t.pending = s.pending ∧ u < (getChan t.dev p ch).unitsDone ∧
      (∀ o ∈ unitOffs c u, memRead t.mem (x.dst + o) = if x.op = 3 then (x.expect >>> (8 * (o % 8))).setWidth 8
        else if x.op = 0 then dramRead s.dev s.mem (x.src + o) else dramRead s.dev s.mem (x.src + o / max 1 c.bytes * x.stride + o % max 1 c.bytes)) ∧
      (∀ a, a ∉ (unitOffs c u).map (x.dst + ·) → memRead t.mem a = memRead s.mem a)) ∧
    (unitLost s.dev x c u = true → ∃ t, exec (.porterUnitComplete p ch { ix := u }) s = .next t ∧ SameStore s t ∧ (getChan t.dev p ch).state = .faulted ∧
      (getChan t.dev p ch).cause = 1 ∧ (getChan t.dev p ch).unitsDone = c.unitsDone)

/-- PORTER_RESUME runs a faulted or aborted out-of-slot transfer on from its completed units; PORTER_DISCARD ends it (what its
destination holds past them is a free value, log 8); on any other record both complete with BAD_ARG and change nothing (R189). -/
def Obligations.PorterCommandsComplete : Prop :=
  ∀ (c : Cmd) (s : State), let p := param c.params 8 1; let ch := param c.params 9 1; let x := getChan s.dev p ch
    let open_ := ch < 16 ∧ (x.state = .faulted ∨ x.state = .aborted) ∧ x.d.map (·.inSlot) = some false
    (Accepted 0x50 c s → open_ → ∃ t, exec (.porterResume c) s = .next t ∧ Answered c .ok 0 s t ∧ SameStore s t ∧
      getChan t.dev p ch = { x with state := .running, cause := 0, early := [], rx := [], stop := none }) ∧
    (Accepted 0x51 c s → open_ → ∃ t, exec (.porterDiscard c) s = .next t ∧ Answered c .ok 0 s t ∧ t.nv = s.nv ∧ t.pending = s.pending ∧ (getChan t.dev p ch).state = .discarded) ∧
    (Accepted 0x50 c s → ¬ open_ → ∃ t, exec (.porterResume c) s = .next t ∧ Answered c .badArg 0 s t ∧ HostOnly s t) ∧
    (Accepted 0x51 c s → ¬ open_ → ∃ t, exec (.porterDiscard c) s = .next t ∧ Answered c .badArg 0 s t ∧ HostOnly s t)

/-- The page allocator (R175-R180): a reservation fits or changes nothing; a page is popped against its ticket's reservation, pushed back, shared,
evicted, or freed with its ticket. -/
def Obligations.PageRequestsComplete : Prop :=
  ∀ (k n pg key : Nat) (r : List Nat) (s : State), s.dev.plan.plan ≠ none →
    (s.dev.dram.reserved + n ≤ s.dev.dram.free → ∃ t, exec (.pageAllocationRequest (.reserve k n)) s = .next t ∧ SameStore s t ∧
      t.dev.dram.reserved = s.dev.dram.reserved + n ∧ (getTicket t.dev k).kvReserved = (getTicket s.dev k).kvReserved + n ∧ t.dev.dram.free = s.dev.dram.free) ∧
    (s.dev.dram.free < s.dev.dram.reserved + n → ∃ t, exec (.pageAllocationRequest (.reserve k n)) s = .next t ∧ Nothing s t) ∧
    (∃ t, exec (.pageAllocationRequest (.release k)) s = .next t ∧ SameStore s t ∧ (getTicket t.dev k).kvReserved = 0 ∧
      t.dev.dram.reserved = s.dev.dram.reserved - (getTicket s.dev k).kvReserved) ∧
    (0 < (getTicket s.dev k).kvReserved → s.dev.dram.pushed = pg :: r → ∃ t, exec (.pageAllocationRequest (.pop k false)) s = .next t ∧ SameStore s t ∧
      t.dev.dram.pushed = r ∧ t.dev.dram.free = s.dev.dram.free - 1 ∧ t.dev.dram.reserved = s.dev.dram.reserved - 1 ∧
      (getTicket t.dev k).kvReserved = (getTicket s.dev k).kvReserved - 1 ∧ (getTicket t.dev k).kvPages = (getTicket s.dev k).kvPages + 1) ∧
    (inPool s.dev pg = true → (getFrame s.dev pg).refs = 0 → (getFrame s.dev pg).indexed = false → (getFrame s.dev pg).retired = false →
      pg ∉ s.dev.dram.pushed → pg < s.dev.dram.kvBase + s.dev.dram.fresh → ∃ t, exec (.pageAllocationRequest (.push pg)) s = .next t ∧ SameStore s t ∧
        t.dev.dram.pushed = s.dev.dram.pushed ++ [pg] ∧ t.dev.dram.free = s.dev.dram.free + 1) ∧
    (inPool s.dev pg = true → (getFrame s.dev pg).retired = false → key < 8192 * 8192 → (mget s.dev.dram.dirs ((k * 8192 * 8192 + key) / 8192) {}).valid = true →
      (getTicket s.dev k).dirPpn ≠ 0 → (mget s.dev.dram.maps (k * 8192 * 8192 + key) {}).valid = false →
      ∃ t, exec (.pageAllocationRequest (.share k pg key)) s = .next t ∧ SameStore s t ∧
        getMap t.dev (k * 8192 * 8192 + key) = { valid := true, shared := true, ppn := pg } ∧ (getFrame t.dev pg).refs = (getFrame s.dev pg).refs + 1) ∧
    (ticketIdle s.dev k = true → ∃ t, exec (.pageAllocationRequest (.evict k n)) s = .next t ∧ SameStore s t ∧
      ∀ q, q / 8192 / 8192 = k → q / 8192 % 8192 ≠ 8191 → n ≤ q % 8192 → (getMap t.dev q).valid = false) ∧
    (ticketIdle s.dev k = true → ∃ t, exec (.pageAllocationRequest (.endTicket k)) s = .next t ∧ SameStore s t ∧ (getTicket t.dev k).kvReserved = 0 ∧
      ∀ q, q / 8192 / 8192 = k → (getMap t.dev q).valid = false)

/-- A walk ends (R176, R181): a valid entry is cached; reading an invalid one, or writing a shared one, is a page fault of the transfer. The
invalidation of a ticket's translations is complete (R179). Transfers of firmware that wait may take a free channel with it (R182). -/
def Obligations.TranslationEventsComplete : Prop :=
  ∀ (p ch kva k : Nat) (wr : Bool) (s : State), let x := getChan s.dev p ch; let e := getMap s.dev (kvaKey x.ticket kva)
    (x.state = .running → chanUsesKv x wr = true → e.valid = true → (wr = true → e.shared = false) → ∃ t, exec (.translationWalkEnd p ch kva wr) s = .next t ∧
      SameStore s t ∧ (p, kvaKey x.ticket kva) ∈ t.dev.dram.tlb ∧ getChan t.dev p ch = x ∧ (s.dev.dram.fwQueue = [] → t.dev.dram.chans = s.dev.dram.chans) ∧
      t.dev = { s.dev with cycle := s.dev.cycle + 1, dram := { s.dev.dram with tlb := t.dev.dram.tlb, chans := t.dev.dram.chans, fwQueue := t.dev.dram.fwQueue } }) ∧
    (x.state = .running → chanUsesKv x wr = true → (e.valid = true ∧ wr = true ∧ e.shared = true ∨ e.valid = false ∧ wr = false) →
      ∃ t, exec (.translationWalkEnd p ch kva wr) s = .next t ∧ SameStore s t ∧ EventSeen .pt 3 s t ∧ (getChan t.dev p ch).state = .faulted ∧
        (getChan t.dev p ch).cause = 2) ∧
    (∃ t, exec (.pageInvalidationComplete k) s = .next t ∧ SameStore s t ∧ mget t.dev.dram.invalidating k [] = [] ∧
      ∀ q ∈ t.dev.dram.tlb, q.2 / 8192 / 8192 = k → (getMap s.dev q.2).valid = true)

/-- DRAM errors: a scrub read that corrects a bit sets hbm_corrected, one that finds none changes nothing (R166, R169); a re-read that recovers sets
hbm_uncorrectable; one that does not sets hbm_lost, writes a record, marks the line as lost and tells the requester by a note (R148, R167). None changes a byte of
DRAM below the staging area, and an address outside DRAM changes nothing at all (R170). -/
def Obligations.DramErrorEventsComplete : Prop :=
  ∀ (a p ch : Nat) (s : State), s.dev.pwr.outOfReset = true →
    (a < dramTop → ∃ t, exec (.hbmScrub a true) s = .next t ∧ EventSeen .pt 0 s t ∧ EventOnly s t) ∧
    (∃ t, exec (.hbmScrub a false) s = .next t ∧ Nothing s t) ∧
    (a < dramTop → p < 256 → ch < 16 → ∃ t, exec (.hbmReread a p ch true) s = .next t ∧ EventSeen .pt 1 s t ∧ EventOnly s t) ∧
    (a < dramTop → p < 256 → ch < 16 → ∃ t, exec (.hbmReread a p ch false) s = .next t ∧ EventSeen .pt 2 s t ∧ t.nv = s.nv ∧ t.pending = s.pending ∧
      Out.note (errorNote (stackAt a) p ch) (noteFlits (errorNote (stackAt a) p ch)) ∈ t.dev.out ∧ s.dev.faults.head < t.dev.faults.head ∧
      (a < stagingBase → a / 64 ∈ t.dev.dram.lost ∧ t.mem = s.mem) ∧ ∀ b, b < stagingBase → memRead t.mem b = memRead s.mem b) ∧
    (dramTop ≤ a → ∀ c ∈ [Instr.hbmScrub a true, .hbmReread a p ch true, .hbmReread a p ch false], ∃ t, exec c s = .next t ∧ Nothing s t)

/-! ### Calibration and activity grants (sections 2 and 3) -/

/-- A slice delivers floor((L v + 63) / 126), held within 0 to L (R54). A round of initial calibration gives each measured array of its stalls its trims and its first margin,
the smallest of its samples (R59, R67, R68). A window starts, goes through its phases, the confirmation repeated once and the slice failed after that (R57-R60, R69, R70), with the new trims in force
at its end (R65); at the end of a window the margin is the smallest of the array's last 69 (R61), a margin below the rung's threshold steps L down at once (R62), too few samples
leave the margin as it was (R60); an idle array's sample counts in the margin phase (R60). A grant comes from the stall's share, else from the floating pool in the order of request, else
the request waits (R37); a verify-read yields to an MVM (R40). -/
def Obligations.CalibrationAndGrantsComplete : Prop :=
  ∀ (a o g n : Nat) (f : CalFig) (refs : List RefSample) (lives : List LiveSample) (r : LiveSample) (k : GrantFor) (s : State), let x := getArr s.dev a
    let h := (min 127 x.winMin :: x.hist).take 69; let ls := if servesStock s.dev a then lives else []; let m0 := minOf 127 (f.samples.map refMarginOf); let z := getArr s.dev f.array
    let runs := inInitialCal s.dev = false ∧ convOn s.dev (stallOf a) = true; let slice := fun (t : State) => mget t.dev.mkt.slices (a * 69 + x.window) {}
    let y := if x.grant.isSome then endGrant a s.dev else s.dev
    (∀ l ∈ [63, 47, 31, 15], ∀ (q : Nat) (e : Int), sliceCount l q e = min (l : Int) (max 0 ((8064 * (q : Int) + l * e + 4032) / 8064))) ∧
    (s.dev.state = .stocking → s.dev.mkt.initDone = false → s.dev.mkt.calRound < 3 → stallOf f.array / 480 = s.dev.mkt.calRound → f.array < 30720 → z.retired = false →
      convOn s.dev (stallOf f.array) = true → ∃ t, exec (.initialCalRoundEnd [f]) s = .next t ∧ SameStore s t ∧ t.dev.mkt.calRound = s.dev.mkt.calRound + 1 ∧
        getArr t.dev f.array = { z with initMargin := m0, refMargin := m0, calibrated := true, background := false, hist := [], window := 0, phase := .idle, rotations := 0, qualified := 0, low := false, stopped := false } ∧
        (∀ i, ∀ hi : i < f.trims.length, i < 69 → (mget t.dev.mkt.slices (f.array * 69 + i) {}).offset = trimCode f.trims[i].1 ∧ (mget t.dev.mkt.slices (f.array * 69 + i) {}).gain = f.trims[i].2 % 64) ∧
        ∀ b, b ≠ f.array → getArr t.dev b = getArr s.dev b) ∧
    (runs → x.calibrated = true → x.retired = false → x.phase = .idle →
      ∃ t, exec (.calWindowStart a) s = .next t ∧ SameStore s t ∧ (getArr t.dev a).phase = .reference ∧ (getArr t.dev a).window = x.window ∧
        (x.window = 0 → (getArr t.dev a).retries = 0) ∧ (x.window ≠ 0 → (getArr t.dev a).retries = x.retries) ∧ ∀ b, b ≠ a → getArr t.dev b = getArr s.dev b) ∧
    (runs → x.phase = .reference → ∃ t, exec (.calPhaseEnd a (.reference o g n)) s = .next t ∧ SameStore s t ∧
      getArr t.dev a = { x with newOffset := trimCode o, newGain := g % 64, refCount := x.refCount + n, phase := .margin }) ∧
    (runs → x.phase = .margin → ∃ t, exec (.calPhaseEnd a (.margin refs lives)) s = .next t ∧ SameStore s t ∧
      getArr t.dev a = { x with winMin := minOf (minOf x.winMin (refs.map refMarginOf)) (ls.map liveMarginOf), refCount := x.refCount + (refs.map (·.times)).sum, phase := .confirm, winZero := x.winZero || ls.any shadowDiffers } ∧
      (x.winZero = false → ls.any shadowDiffers = true → EventSeen .cv 3 s t)) ∧
    (runs → x.phase = .confirm → refs.all refOk = true → ∃ t, exec (.calPhaseEnd a (.confirm refs)) s = .next t ∧ SameStore s t ∧ (getArr t.dev a).phase = .closing ∧
      (4096 ≤ x.refCount → s.dev.mkt.trimMode = false → (slice t).offset = x.newOffset ∧ (slice t).gain = x.newGain) ∧
      (x.refCount < 4096 → x.winZero = false → t.dev.mkt.slices = s.dev.mkt.slices)) ∧
    (runs → x.phase = .confirm → refs.all refOk = false → x.repeated = false → ∃ t, exec (.calPhaseEnd a (.confirm refs)) s = .next t ∧ SameStore s t ∧
      getArr t.dev a = { x with winMin := 127, phase := .reference, refCount := 0, repeated := true }) ∧
    (runs → x.phase = .confirm → refs.all refOk = false → x.repeated = true → ∃ t, exec (.calPhaseEnd a (.confirm refs)) s = .next t ∧ SameStore s t ∧
      EventSeen .cv 7 s t ∧ (slice t).failed = true ∧ (slice t).offset = (slice s).offset ∧ (getArr t.dev a).phase = .closing ∧ (servesStock s.dev a = true → (getArr t.dev a).margin = 0)) ∧
    (runs → x.phase = .closing → x.refCount < 4096 → x.winZero = false → x.window < 68 → ∃ t, exec (.calWindowEnd a 0 n) s = .next t ∧ SameStore s t ∧
      EventSeen .cv 6 s t ∧ getArr t.dev a = { x with phase := .idle, window := x.window + 1, skipped := true }) ∧
    (runs → x.phase = .closing → 4096 ≤ x.refCount → x.winZero = false → x.window < 68 → servesStock s.dev a = true → 3 ≤ minMargin h →
      ∃ t, exec (.calWindowEnd a 0 n) s = .next t ∧ SameStore s t ∧ (getArr t.dev a).margin = minMargin h ∧ (getArr t.dev a).hist = h ∧
        (getArr t.dev a).window = x.window + 1 ∧ (rungOf (minMargin h) ≤ x.lStep → (getArr t.dev a).lStep = x.lStep) ∧
        (x.lStep < rungOf (minMargin h) → (getArr t.dev a).lStep = rungOf (minMargin h) ∧ EventSeen .cv 0 s t)) ∧
    (runs → x.grant = none → x.phase = .margin → servesStock s.dev a = true → ∃ t, exec (.calibrationOnlySample a r) s = .next t ∧ SameStore s t ∧
      getArr t.dev a = { x with winMin := min x.winMin (liveMarginOf r), winZero := x.winZero || shadowDiffers r } ∧ (x.winZero = false → shadowDiffers r = true → EventSeen .cv 3 s t)) ∧
    (grantable x k = true → s.dev.therm.overTemp = false → inInitialCal s.dev = false → waitsFor s.mem s.dev a k = true →
      let share := decide (shareUsed y (stallOf a) < stallShare y (stallOf a)); let pool := decide (poolUsed y < poolSize y) && poolTurn s.mem y a k
      ((share || pool) = true → ∃ t, exec (.activityGrant a k) s = .next t ∧ SameStore s t ∧ getArr t.dev a = { x with grant := some k, pooled := ! share } ∧
        ∀ b, b ≠ a → getArr t.dev b = getArr s.dev b) ∧
      ((share || pool) = false → ∃ t, exec (.activityGrant a k) s = .next t ∧ SameStore s t ∧ (a, k) ∈ t.dev.mkt.requests ∧
        t.dev = { y with cycle := s.dev.cycle + 1, mkt := { y.mkt with requests := t.dev.mkt.requests } }))

/-! ### Scripts (sections 4 and 5) -/

/-- The sequencer issues the next word of a stall's script in order, takes a slot with SLOT and leaves it with DONE, and passes over the words of a
masked slot but for its SENDs, whose mask carts go (R103-R105); a corrected error of the store is a flag, an uncorrectable one a flag and a record (R102); SLOT writes its context line (R106); the last
DONE word and an empty issue list raise the stall's done (R103, R219). -/
def Obligations.ScriptIssueAndDoneComplete : Prop :=
  ∀ (i : Nat) (w : W64) (e : Issued) (s : State), let x := getStall s.dev i; let op := (swOf w).op; let own := (ownWords s.dev i).length
    (stallActive s.dev i = true → (allWords s.dev i)[x.pc]? = some w →
      let next : Issued := { pos := x.pc, word := w, slot := x.curSlot, cover := decide (own ≤ x.pc), held := false, mask := false, owed := [] }
      (op ≠ 8 → op ≠ 9 → x.masked.contains x.curSlot = false → unitRoom x (swOf w) = true →
        (∃ t, exec (.scriptWordIssue { stall := i, e := .clean }) s = .next t ∧ StallsOnly s t ∧ t.dev.mkt.store = s.dev.mkt.store ∧
          getStall t.dev i = { x with pc := x.pc + 1, issued := x.issued ++ [next] }) ∧
        ∃ t, exec (.scriptWordIssue { stall := i, e := .corrected }) s = .next t ∧ SameStore s t ∧ EventSeen .cvDp 3 s t ∧
          getStall t.dev i = { x with pc := x.pc + 1, issued := x.issued ++ [next] }) ∧
      (op = 8 → ∃ t, exec (.scriptWordIssue { stall := i, e := .clean }) s = .next t ∧ StallsOnly s t ∧ t.dev.mkt.store = s.dev.mkt.store ∧ (getStall t.dev i).curSlot = (swOf w).sel ∧
        (getStall t.dev i).pc = x.pc + 1 ∧ (getStall t.dev i).issued = x.issued ++ [{ next with slot := (swOf w).sel }] ∧
        ((slotUse s.dev i (swOf w).sel).isSome = true → (getStall t.dev i).masked = x.masked) ∧
        ((slotUse s.dev i (swOf w).sel).isSome = false → (getStall t.dev i).masked.contains (swOf w).sel = true)) ∧
      (op = 9 → ∃ t, exec (.scriptWordIssue { stall := i, e := .clean }) s = .next t ∧ StallsOnly s t ∧ (getStall t.dev i).curSlot = 0xFFFF ∧ (getStall t.dev i).pc = x.pc + 1 ∧
        (getStall t.dev i).issued = x.issued ++ [next]) ∧
      (op ≠ 5 → op ≠ 8 → op ≠ 9 → x.masked.contains x.curSlot = true → ∃ t, exec (.scriptWordIssue { stall := i, e := .clean }) s = .next t ∧ StallsOnly s t ∧
        t.dev.mkt.store = s.dev.mkt.store ∧ getStall t.dev i = { x with pc := x.pc + 1 }) ∧
      (op = 5 → x.masked.contains x.curSlot = true → unitRoom x (swOf w) = true → ∃ t, exec (.scriptWordIssue { stall := i, e := .clean }) s = .next t ∧ StallsOnly s t ∧
        t.dev.mkt.store = s.dev.mkt.store ∧ getStall t.dev i = { x with pc := x.pc + 1, issued := x.issued ++ [{ next with mask := true }] }) ∧
      (∃ t, exec (.scriptWordIssue { stall := i, e := .lost }) s = .next t ∧ SameStore s t ∧ EventSeen .cvDp 4 s t ∧ s.dev.faults.head < t.dev.faults.head)) ∧
    (unitWord s.dev i (fun y => decide (y.op = 8)) = some e → isMasked s.dev i e.slot = false → ∃ t, exec (.slot i) s = .next t ∧ StallsOnly s t ∧ WordGone i e.pos s t ∧
      LinesSet i (swOf e.word).a [contextLine s.dev i e.slot] s t) ∧
    (unitWord s.dev i (fun y => decide (y.op = 9)) = some e → ∃ t, exec (.doneWord i) s = .next t ∧ StallsOnly s t ∧ WordGone i e.pos s t ∧ t.dev.mkt.store = s.dev.mkt.store ∧
      (getStall t.dev i).doneIssued = (decide (e.pos + 1 = (allWords s.dev i).length) || x.doneIssued)) ∧
    (stallActive s.dev i = true → x.doneIssued = true → x.done = false → x.issued = [] → ∃ t, exec (.stallDone i) s = .next t ∧ SameStore s t ∧
      getStall t.dev i = { x with done := true } ∧ (∀ k, domOfStall s.dev i = some k → (getDom t.dev k).workTick = s.dev.tick ∧
        ∀ y, stepEntry s.dev k = some y → overReserve y x = true → EventSeen .blStep 4 s t ∧ (getDom t.dev k).reserveUsed = true))

/-- COMBINE adds its terms in list order (R86, R87), VEC runs its kernel (R91; an addition writes the lane-wise sums), RQ writes the block that
its rule makes of 512 values, and counts it in the step's ledger (R88, R116-R124). A first failed residue check is a flag and a record, and the word runs again (R92, R378). -/
def Obligations.UnitWordsComplete : Prop :=
  ∀ (i : Nat) (w : Issued) (s : State), isMasked s.dev i w.slot = false → let x := swOf w.word; let ok : WordRun := { fails := 0, e := .clean }
    (∀ c, unitWord s.dev i (fun y => decide (y.op = 2)) = some w → combineOf s.dev i x.a = some c →
      let v := combineVal s.dev i x c (slotAdapter s.dev i w.slot).isSome
      (∃ t, exec (.combine i ok) s = .next t ∧ StallsOnly s t ∧ WordGone i w.pos s t ∧ LinesSet i x.b (f32Lines v) s t) ∧
      (∃ t, exec (.combine i { fails := 1, e := .clean }) s = .next t ∧ SameStore s t ∧ WordGone i w.pos s t ∧ LinesSet i x.b (f32Lines v) s t ∧ EventSeen .cvDp 2 s t ∧
        t.dev.faults.head = s.dev.faults.head + 1) ∧
      (∀ l1 l2, c.terms.take x.sel = [l1, l2] → x.flags = 0 → v = List.zipWith fadd (getF32 s.dev i l1 c.n) (getF32 s.dev i l2 c.n))) ∧
    (∀ p q n dst, unitWord s.dev i (fun y => decide (y.op = 3)) = some w → kernelOf s.dev i x.sel = [.add p q n dst] →
      let v := f32Lines (List.zipWith fadd (getF32 s.dev i (x.a + p) n) (getF32 s.dev i (x.b + q) n))
      ∃ t, exec (.vec i ok false) s = .next t ∧ StallsOnly s t ∧ WordGone i w.pos s t ∧ LinesSet i (x.c + dst) v s t) ∧
    (unitWord s.dev i (fun y => decide (y.op = 3)) = some w → ∃ t, exec (.vec i ok false) s = .next t ∧ SameStore s t ∧ WordGone i w.pos s t ∧
      t.dev.mkt.store = (runKernel s.mem (vecCtx s.dev i w) (kernelOf s.dev i x.sel) s.dev).mkt.store) ∧
    (unitWord s.dev i (fun y => decide (y.op = 4)) = some w → let b := rqBlock s.dev i w ((getStall s.dev i).blocks + 1)
      ∃ t, exec (.rq i ok) s = .next t ∧ SameStore s t ∧ WordGone i w.pos s t ∧ LinesSet i x.b (blockOut b.1) s t ∧
        (getStall t.dev i).blocks = (getStall s.dev i).blocks + 1 ∧
        (getStall t.dev i).led = (getStall s.dev i).led ++ [(wordOwner s.dev i w * 128 + rqOrdinal s.dev i w, w.slot, ledgerOf b.1 b.2)] ∧
        (0 < b.1.nSat → EventSeen .cvQuant 0 s t) ∧ (b.1.wide = true → EventSeen .cvQuant 1 s t))

/-- A SEND puts its carts on the net, one for all destinations of its route that R380 has not rewritten and one for each other, against an end-to-end credit of each queue, and waits for
their return (R137, R139, R147); without a credit it waits and changes nothing. A RECV takes the oldest cart of its queue and slot into its lines, a mask cart masks the slot (R105, R115). A PORT
starts its descriptor on the lowest free channel of the stall's porter (R182, R185, R186). -/
def Obligations.SendRecvAndPortComplete : Prop :=
  ∀ (i : Nat) (w : Issued) (s : State), let x := swOf w.word
    (∀ r, unitWord s.dev i (fun y => decide (y.op = 5)) = some w → routeAt s.dev i x.sel = some r → let ts := sendDests s.dev w r; let c := sendCart s.dev i w r
      c.src = i ∧ c.dest = r.dest ∧ c.queue = r.queue ∧ c.mode = r.mode ∧ c.slot = w.slot ∧ c.step = stallStep s.dev i % 2 ^ 32 ∧
      (ts.all (hasCredit s.dev) = true → ∃ t, exec (.send { stall := i, e := .clean }) s = .next t ∧ SameStore s t ∧ t.dev.mkt.store = s.dev.mkt.store ∧
        t.dev.net.flights.length = s.dev.net.flights.length + (outgoing c ts).length ∧
        (∀ q ∈ outgoing c ts, ∃ n, let y := { q.1 with seq := n }; Out.cart y (cartFlits y) ∈ t.dev.out ∧
          ∃ f ∈ t.dev.net.flights, f.load = .cart y (q.2.map fun z => { y with dest := z.1, queue := z.2 }) ∧ f.left = 1 + y.flits.length ∧ f.path = []) ∧
        (∀ q, outgoing c ts = [q] → let y := { q.1 with seq := nextSeq s.dev q.1 % 2 ^ 32 }
          t.dev.out = s.dev.out ++ [.cart y (cartFlits y)] ∧ nextSeq t.dev q.1 = nextSeq s.dev q.1 + 1 ∧
          t.dev.net.flights = s.dev.net.flights ++ [{ id := s.dev.net.nextFlight, load := .cart y (q.2.map fun z => { y with dest := z.1, queue := z.2 }), left := 1 + y.flits.length, path := [] }]) ∧
        getStall t.dev i = { getStall s.dev i with issued := (getStall s.dev i).issued.map fun e => if e.pos = w.pos then { w with owed := ts.map owedKey, sent := sentBy s.dev c ts, resend := [] } else e } ∧
        (∀ q, ts = [q] → creditsUsed t.dev i q = creditsUsed s.dev i q + 1)) ∧
      (ts.all (hasCredit s.dev) = false → ∃ t, exec (.send { stall := i, e := .clean }) s = .next t ∧ Nothing s t)) ∧
    (unitWord s.dev i (fun y => decide (y.op = 6)) = some w → isMasked s.dev i w.slot = false →
      let mine := fun (e : Nat × Cart) => decide (e.1 = recvQueue w) && decide (e.2.slot = w.slot)
      (∀ e, (getStall s.dev i).inq.find? mine = some e → e.2.typ ≠ 5 → e.2.typ ≠ 7 →
        ∃ t, exec (.recv i) s = .next t ∧ StallsOnly s t ∧ WordGone i w.pos s t ∧ LinesSet i x.a (e.2.flits.take x.b) s t ∧
          (getStall t.dev i).inq = dropFirst mine (getStall s.dev i).inq) ∧
      (∀ e, (getStall s.dev i).inq.find? mine = some e → e.2.typ = 5 → expertQueue s.dev i (recvQueue w) = none →
        ∃ t, exec (.recv i) s = .next t ∧ SameStore s t ∧ WordGone i w.pos s t ∧ isMasked t.dev i w.slot = true ∧ t.dev.mkt.store = s.dev.mkt.store) ∧
      ((getStall s.dev i).inq.find? mine = none → ∃ t, exec (.recv i) s = .next t ∧ Nothing s t)) ∧
    (∀ c ch, unitWord s.dev i (fun y => decide (y.op = 7)) = some w → isMasked s.dev i w.slot = false → descOf s.dev (i / 8) x.sel = some c →
      freeChan s.dev (i / 8) = some ch → replyFree s.dev (i / 8) = true → ∃ t, exec (.port { stall := i, e := .clean }) s = .next t ∧ SameStore s t ∧
        (getChan t.dev (i / 8) ch).state = .running ∧ (getChan t.dev (i / 8) ch).d = some c ∧ (getChan t.dev (i / 8) ch).desc = c.idx ∧ (getChan t.dev (i / 8) ch).unitsDone = 0 ∧
        (getChan t.dev (i / 8) ch).line = x.a ∧ (getChan t.dev (i / 8) ch).stall = i ∧
        (∀ q b, b < 16 → (q, b) ≠ (i / 8, ch) → getChan t.dev q b = getChan s.dev q b) ∧
        (getStall t.dev i).issued = (getStall s.dev i).issued.map (fun e => if e.pos = w.pos then { w with owed := [chanKey ch] } else e))

/-! ### Plane MVMs and what a failed check starts (sections 4, 5, 13) -/

/-- A plane MVM without an error gives the exact sums of its block and its plane's weights, scaled to FP32, its till holds them with their S, and its array's grant goes
back (R79-R85, R108); a failed seal is a record and a retry at the same L (R83, R373). A guest's sums go back to its owner as a cart of the net, and the owner's word waits
for that cart (R377). -/
def Obligations.MvmsComplete : Prop :=
  ∀ (i k a p : Nat) (w : Issued) (b : Block) (s : State), stallOf a = i → convOn s.dev i = true → (getArr s.dev a).esc = none → (getArr s.dev a).suspect = false →
    (getArr s.dev a).stopped = false →
    (unitWord s.dev i (fun y => decide (y.op = 1) && decide (bits y.sel 10 7 = k)) = some w → wordPlane s.dev i w = some (a, p) → wordBlock s.dev i w = some b →
      skipsPlane s.mem s.dev i w = false → (getArr s.dev a).grant = some .mvm → slotQuery s.dev i w.slot = none →
      let j := jobOf s.dev s.nv i w a p b; let rows := jobRows s.dev s.nv j; let x := swOf w.word; let ps := partialSums j.fmt b.xs rows
      let out := f32Lines (List.zipWith (fun v c => scaleOut v c b.exp) ps (getBf16 s.dev i x.c (outsOf j.fmt)))
      (SealGood j rows → isMasked s.dev i w.slot = false → b.mark = false →
        ∃ t, exec (.mvm i k noFault) s = .next t ∧ SameStore s t ∧ WordGone i w.pos s t ∧ LinesSet i x.b out s t ∧ (getArr t.dev a).grant = none ∧
          aget (getStall t.dev i).tills x.b { exp := 0, sums := [], s := 0 } = { exp := b.exp, sums := ps, s := ((sealDot j.seed j.off ps) % 2 ^ 32).toNat } ∧
          t.dev.faults = s.dev.faults) ∧
      (¬ SealGood j rows → ∃ t e, exec (.mvm i k noFault) s = .next t ∧ SameStore s t ∧ EventSeen .cvDp 0 s t ∧ t.dev.faults.head = s.dev.faults.head + 1 ∧
        (getArr t.dev a).esc = some e ∧ e.stage = 1 ∧ e.kind = 1 ∧ e.stall = i ∧ e.word = w.pos ∧ e.l = (getArr s.dev a).lStep ∧ t.dev.mkt.store = s.dev.mkt.store)) ∧
    (∀ owner pos c rest, s.dev.net.fenced.contains i = false → islandStopped s.dev i = false → (getStall s.dev i).guests = (owner, pos, c) :: rest →
      (getStall s.dev owner).issued.find? (fun e => decide (e.pos = pos)) = some w → wordPlane s.dev owner w = some (a, p) →
      readBlock (setLines s.dev 1920 0 c.flits) 1920 0 = some b → (getArr s.dev a).grant = some .guest → w.pos = pos →
      let j := jobOf s.dev s.nv owner w a p b; let rows := jobRows s.dev s.nv j
      SealGood j rows → ∃ t y, exec (.guestMvm i noFault) s = .next t ∧ SameStore s t ∧ y.dest = owner ∧ y.src = i ∧ y.typ = 1 ∧ y.queue = c.queue ∧
        y.flits = sumLines (partialSums j.fmt b.xs rows) ∧ Out.cart y (cartFlits y) ∈ t.dev.out ∧
        t.dev.net.flights = s.dev.net.flights ++ [{ id := s.dev.net.nextFlight, load := .cart y [y], left := 1 + y.flits.length, path := [] }] ∧
        (getStall t.dev owner).issued = (getStall s.dev owner).issued.map (fun e => if e.pos = pos then { e with owed := [guestKey i y.seq] } else e) ∧
        (getArr t.dev a).grant = none ∧ (getStall t.dev i).guests = (getStall s.dev i).guests.filter (fun g => ! (decide (g.1 = owner) && decide (g.2.1 = pos))))

/-- A retry that matches, at the L of the MVM that failed, is a record and a flag, counts against its array, and the word completes; one that fails goes on to the audit path
(R63, R373). A reading of the audit path that passes its seal completes the word, and makes the array suspect where the audit path was reached by a
failure (R374, R375). -/
def Obligations.EscalationCompletes : Prop :=
  ∀ (a h : Nat) (e : Esc) (j : MvmJob) (s : State), let x := getArr s.dev a; let rows := jobRead s.dev s.nv j []
    arithOn s.dev (stallOf a) = true → convOn s.dev (stallOf a) = true → x.esc = some e → e.pat = none → e.guest = false → escJob s.dev s.nv a e = some (j, h) →
    (e.stage = 1 → SealGood j rows → x.retries + 1 ≠ 8 → ∃ t, exec (.escalationRetryEnd a noFault) s = .next t ∧ SameStore s t ∧ EventSeen .chFault 0 s t ∧
      (getArr t.dev a).esc = none ∧ (getArr t.dev a).retries = x.retries + 1 ∧ (getArr t.dev a).grant = none ∧ WordGone e.stall e.word s t ∧
      t.dev.faults.head = s.dev.faults.head + 1) ∧
    (e.stage = 1 → ¬ SealGood j rows → ∃ t, exec (.escalationRetryEnd a noFault) s = .next t ∧ SameStore s t ∧ EventSeen .cvDp 0 s t ∧
      getArr t.dev a = { x with grant := none, pooled := false, esc := some { e with stage := 2, prior := t.dev.faults.head } } ∧
      (getStall t.dev e.stall).issued = (getStall s.dev e.stall).issued ∧ t.dev.faults.head = s.dev.faults.head + 1) ∧
    (e.stage = 2 ∨ e.stage = 3 → x.grant = some .verifyRead → SealGood j rows → ∃ t, exec (.auditPathEnd a []) s = .next t ∧ SameStore s t ∧ EventSeen .chFault 1 s t ∧
      (getArr t.dev a).esc = none ∧ WordGone e.stall e.word s t ∧ (e.kind ≠ 0 → (getArr t.dev a).suspect = true) ∧ (e.kind = 0 → (getArr t.dev a).suspect = x.suspect)) ∧
    (e.stage = 2 → x.grant = some .verifyRead → ¬ SealGood j rows → ∃ t, exec (.auditPathEnd a []) s = .next t ∧ SameStore s t ∧
      getArr t.dev a = { x with grant := none, pooled := false, esc := some { e with stage := 3 } } ∧ t.dev.faults = s.dev.faults)

/-- The oldest pending sample of a stall is computed and counted (R128-R130). A pattern test without an error counts its array's test and leaves no
record; a datapath pattern that fails once is a flag and a record (R388-R390). -/
def Obligations.AuditsAndPatternTestsComplete : Prop :=
  ∀ (i a n : Nat) (q : Audit) (blk : Block) (rest : List Audit) (ps : PatSet) (s : State), let x := getArr s.dev a
    ((getStall s.dev i).audits = q :: rest → (getArr s.dev q.array).grant = some .verifyRead → unitWord s.dev i (fun y => decide (y.op = 3)) = none →
      s.dev.net.fenced.contains i = false → arithOn s.dev i = true → convOn s.dev i = true → blockOf s.dev q.lines = some blk →
      ∃ t, exec (.auditSample { stall := i, e := .clean }) s = .next t ∧ SameStore s t ∧ (getStall t.dev i).audits = rest ∧
        t.dev.mkt.auditSamples = (s.dev.mkt.auditSamples + 1) % 2 ^ 32 ∧ (getArr t.dev q.array).grant = none ∧
        (4096 < auditWorst (planeFormat s.dev q.array q.plane) blk q.sums (readPlane s.nv.cells (getArr s.dev q.array).remaps [] q.array q.plane) → EventSeen .cvQuant 3 s t)) ∧
    (x.grant = some .pattern → arithOn s.dev (stallOf a) = true → convOn s.dev (stallOf a) = true → s.dev.mkt.pats = some ps → patKind ps 0 ≠ [] → stockedPlanes s.dev a ≠ [] → isShelf a = false → x.esc = none →
      (∀ j l, patJob s.dev s.nv a (((stockedPlanes s.dev a)[x.patTests % (stockedPlanes s.dev a).length]?).getD 0) (x.patTests % (patKind ps 0).length) = some (j, l) →
        SealGood j (jobRows s.dev s.nv j)) →
      ∃ t, exec (.patternTest a noFault) s = .next t ∧ SameStore s t ∧ (getArr t.dev a).patTests = x.patTests + 1 ∧ (getArr t.dev a).grant = none ∧
        (getArr t.dev a).esc = none ∧ t.dev.faults = s.dev.faults) ∧
    (∀ y, s.dev.mkt.pats = some ps → (patKind ps 1)[n]? = some y → i < 1920 → s.dev.mkt.patData = true → arithOn s.dev i = true → s.dev.net.fenced.contains i = false →
      unitWord s.dev i (fun z => decide (z.op = 3) || decide (z.op = 4)) = none →
      (∃ t, exec (.datapathPatternRun i n 0) s = .next t ∧ Nothing s t) ∧
      (∃ t, exec (.datapathPatternRun i n 1) s = .next t ∧ SameStore s t ∧ EventSeen .chFault 7 s t ∧ t.dev.faults.head = s.dev.faults.head + 1 ∧ t.dev.mkt = s.dev.mkt))

/-- A replay ordered without a fence starts its domain's scripts again from word 0, with a flag (R221, R223); a recovery past its time, a
stopped island and a router without credits are flags, and fence their stall or raise FAULT (R155, R378, R379). -/
def Obligations.RecoveryEventsComplete : Prop :=
  ∀ (k i : Nat) (s : State),
    ((getDom s.dev k).faultRaised = false → (getDom s.dev k).replaying = true → (∀ r ∈ s.dev.net.recoveries, r.domain ≠ k) →
      mwf ({} : Stall) none s.dev.mkt.stalls = true → ∃ t, exec (.replayQuiesced k) s = .next t ∧ SameStore s t ∧ EventSeen .blStep 0 s t ∧
        (getDom t.dev k).replaying = false ∧ (getDom t.dev k).replayed = true ∧ (getDom t.dev k).halted = false ∧ (getDom t.dev k).step = (getDom s.dev k).step ∧
        ∀ j ∈ membersOf s.dev k, (getStall t.dev j).pc = 0 ∧ (getStall t.dev j).issued = [] ∧ (getStall t.dev j).done = false) ∧
    ((∃ r ∈ s.dev.net.recoveries, r.domain = k) → (getDom s.dev k).running = true → ∃ t, exec (.recoveryTimeout k) s = .next t ∧ SameStore s t ∧
      EventSeen .chFault 5 s t ∧ (getDom t.dev k).faultRaised = true ∧ t.dev.faults.head = s.dev.faults.head + 1) ∧
    (i < 1920 → islandStopped s.dev i = true → s.dev.wb.supplyOk = true → s.dev.net.fenced.contains i = false → ∃ t, exec (.islandStopTimeout i) s = .next t ∧ SameStore s t ∧
      EventSeen .chFault 3 s t ∧ t.dev.net.fenced = s.dev.net.fenced ++ [i]) ∧
    (i < 1920 → s.dev.net.routerFail.contains i = false → s.dev.plan.plan ≠ none → ∃ t, exec (.creditTimeout i) s = .next t ∧ SameStore s t ∧ EventSeen .chNet 4 s t ∧
      t.dev.net.routerFail = s.dev.net.routerFail ++ [i] ∧ t.dev.net.fenced.contains i = true)

/-! ### Carts and notes (section 6) -/

/-- A cart that has come to a stall, the next of its pair, goes to its queue, and its credit goes back as a note; at a fenced stall it is answered with FENCED; a corrected flit is a
flag, an uncorrectable one a flag and a record; a cart that has not come does nothing but let the nets move on (R137-R141, R148, R153, R156). A credit note returns a credit, and with
its last completes a SEND; FENCED holds the word whose cart it names, to go again to that stall alone (R139, R154); an error report ends its transfer, an order starts one or waits for a
channel (R148, R182, R187); an error of a note is a flag, and a record where it cannot be corrected; a bad header is a flag (R156, R157); a completion note changes nothing of the block
but the net that it leaves (R183). -/
def Obligations.CartsAndNotesComplete : Prop :=
  ∀ (c : Cart) (n : Note) (w : Issued) (s : State), s.dev.plan.plan ≠ none →
    let d := settleNets s.dev; let b := n.body.toNat; let p := b % 256; let ch := b / 256 % 16; let q := bits b 11 0; let k := owedKey (n.src, q)
    let here := endpointOn s.dev n.dest = true ∧ noteHeadOk n = true ∧ 1 ≤ notesHere d n
    let launched := fun (m : Note) (fs : List Flight) => fs ++ [({ id := s.dev.net.nextFlight, load := .note m, left := m.len + 1, path := [] } : Flight)]
    (cartHeadOk c = true → endpointOn s.dev c.dest = true → c.dest < 1920 →
      (cartHere d c = true → s.dev.net.fenced.contains c.dest = false → staleCart s.dev c = false → stepCart c.typ = true → c.queue ≠ 4095 → let z := coverDest s.dev c.dest c.queue
        (∃ t, exec (.cartReceive c .clean) s = .next t ∧ SameStore s t ∧ t.dev.out = s.dev.out ++ [.note (creditOf c) (noteFlits (creditOf c))] ∧
          (getStall t.dev z.1).inq = (getStall s.dev z.1).inq ++ [(z.2, c)] ∧ t.dev.net.flights = launched (creditOf c) (takeCart c d).net.flights) ∧
        (∃ t, exec (.cartReceive c .corrected) s = .next t ∧ EventSeen .chNet 0 s t ∧ (getStall t.dev z.1).inq = (getStall s.dev z.1).inq ++ [(z.2, c)])) ∧
      (cartHere d c = true → s.dev.net.fenced.contains c.dest = true → ∃ t, exec (.cartReceive c .clean) s = .next t ∧ SameStore s t ∧
        t.dev = { s.dev with cycle := s.dev.cycle + 1, out := s.dev.out ++ [.note (fencedOf c) (noteFlits (fencedOf c))], net := { (takeCart c d).net with flights := launched (fencedOf c) (takeCart c d).net.flights, nextFlight := s.dev.net.nextFlight + 1 } }) ∧
      (cartHere d c = true → ∃ t, exec (.cartReceive c .doubleData) s = .next t ∧ SameStore s t ∧ EventSeen .chNet 1 s t ∧ t.dev.faults.head = s.dev.faults.head + 1) ∧
      (cartHere d c = false → ∃ t, exec (.cartReceive c .clean) s = .next t ∧ t = { s with dev := { d with cycle := s.dev.cycle + 1 } })) ∧
    (endpointOn s.dev n.dest = true → noteHeadOk n = true → n.typ = 2 → bits b 16 12 = 1 → 1 ≤ notesHere d (creditUnit n) → s.dev.net.waiting = [] →
      ∃ t, exec (.creditNote { note := n, e := .clean }) s = .next t ∧ SameStore s t ∧
        creditsUsed t.dev n.dest (n.src, q) = creditsUsed s.dev n.dest (n.src, q) - 1 ∧ t.dev.net.flights = (takeNote (creditUnit n) d).net.flights ∧
        (sendWaiting s.dev n.dest (n.src, q) = some w → w.owed = [k] → w.resend = [] → WordGone n.dest w.pos s t) ∧
        (sendWaiting s.dev n.dest (n.src, q) = some w → (removeFirst k w.owed ≠ [] ∨ w.resend ≠ []) → (getStall t.dev n.dest).issued =
          (getStall s.dev n.dest).issued.map (fun e => if e.pos = w.pos then { w with owed := removeFirst k w.owed } else e))) ∧
    (here → n.typ = 3 → n.dest < 1920 → fencedWord s.dev n = some w → ∃ t, exec (.fencedNote { note := n, e := .clean }) s = .next t ∧ SameStore s t ∧
      EventSeen .chNet 2 s t ∧ t.dev.net.heldSends.contains (n.dest, w.pos) = true ∧ creditsUsed t.dev n.dest (n.src, q) = creditsUsed s.dev n.dest (n.src, q) - 1 ∧
      (getStall t.dev n.dest).issued = (getStall s.dev n.dest).issued.map (fun e => if e.pos = w.pos then { w with held := true, owed := removeFirst k w.owed, resend := if (swOf w.word).op = 5 then w.resend ++ [n.src] else [] } else e)) ∧
    (here → n.typ = 1 → ∃ t, exec (.completionNote { note := n, e := .clean }) s = .next t ∧ t = { s with dev := { takeNote n d with cycle := s.dev.cycle + 1 } }) ∧
    (here → n.typ = 4 → (getChan s.dev p ch).state = .running → (getChan s.dev p ch).d.map (·.inSlot) = some false →
      ∃ t, exec (.errorReportNote { note := n, e := .clean }) s = .next t ∧ SameStore s t ∧ EventSeen .pt 5 s t ∧ (getChan t.dev p ch).state = .faulted ∧ (getChan t.dev p ch).cause = 1) ∧
    (∀ x po, endpointOn s.dev n.dest = true → noteHeadOk n = true → n.typ = 5 → porterAt n.dest = some po → s.dev.dram.fwQueue = [] → descOf s.dev po (bits b 10 0) = some x →
      (∀ f, freeChan s.dev po = some f → ∃ t, exec (.countingHouseOrder { note := n, e := .clean }) s = .next t ∧ SameStore s t ∧ (getChan t.dev po f).state = .running ∧
        (getChan t.dev po f).d = some x ∧ t.dev.dram.fwQueue = []) ∧
      (freeChan s.dev po = none → ∃ t, exec (.countingHouseOrder { note := n, e := .clean }) s = .next t ∧ SameStore s t ∧ t.dev.dram.chans = s.dev.dram.chans ∧
        t.dev.dram.fwQueue = [(po, bits b 10 0, if bits b 31 11 = 0x1FFFFF then 0xFFFFFFFF else bits b 31 11)])) ∧
    (here → ∀ x ∈ [(Instr.fencedNote { note := n, e := .doubleData }, 3), (.completionNote { note := n, e := .doubleData }, 1), (.errorReportNote { note := n, e := .doubleData }, 4)],
      n.typ = x.2 → ∃ t, exec x.1 s = .next t ∧ SameStore s t ∧ EventSeen .chNet 1 s t ∧ t.dev.faults.head = s.dev.faults.head + 1) ∧
    (here → n.typ = 1 → ∃ t, exec (.completionNote { note := n, e := .corrected }) s = .next t ∧ EventSeen .chNet 0 s t) ∧
    (endpointOn s.dev n.dest = true → noteHeadOk n = false → ∀ e, ∀ i ∈ [Instr.creditNote { note := n, e := e }, .fencedNote { note := n, e := e }, .completionNote { note := n, e := e },
      .errorReportNote { note := n, e := e }, .countingHouseOrder { note := n, e := e }], ∃ t, exec i s = .next t ∧ SameStore s t ∧ EventSeen .chNet 5 s t)

/-! ### Programming (section 2) -/

/-- The steps of R41: each erase pulse, after the last of which every cell of the plane is OFF, and none while the generation in a mode-1 restock's planes is pinned (R44); the tag, with the
count and the remaps; the rows one after another, each with its image; the compare, with one more program of the rows that fail; the plane hash in the tag. Each changes the
cells of its own plane alone. -/
def Obligations.ProgrammingStepsComplete : Prop :=
  ∀ (a pl r n : Nat) (q : Prog) (s : State), q.plane < 64 →
    (activeProg s.dev a isErase = some q → q.phase = .erase n → (n = 0 → planeCount s.dev s.nv a q.plane < 30000) →
      (erasePinned s.dev q = false → ∃ t, exec (.erasePulseEnd a) s = .next t ∧ t.mem = s.mem ∧ t.nv.fuses = s.nv.fuses ∧
        progAt t.dev a = some { q with phase := if n + 1 < 32 then .erase (n + 1) else .tag, count := if n = 0 then planeCount s.dev s.nv a q.plane + 1 else q.count } ∧
        (31 ≤ n → ∀ y, y < 512 → getRow t.nv.cells a q.plane y = 0) ∧
        (∀ b p y, p < 64 → y < 512 → (b, p) ≠ (a, q.plane) → getRow t.nv.cells b p y = getRow s.nv.cells b p y)) ∧
      (erasePinned s.dev q = true → ∃ t, exec (.erasePulseEnd a) s = .next t ∧ Nothing s t)) ∧
    (activeProg s.dev a isRow = some q → q.phase = .tag → ∃ t, exec (.rowProgramEnd a) s = .next t ∧ t.mem = s.mem ∧
      progAt t.dev a = some { q with phase := .row 0 } ∧ (getArr t.dev a).progCount = max (getArr s.dev a).progCount q.count ∧
      t.nv = { s.nv with cells := orTagBytes (orTagBytes s.nv.cells a q.plane 0 (tagOf q)) a q.plane 48 (remapBytes (getArr s.dev a).remaps), cut := lremove s.nv.cut (cutKey q) }) ∧
    (activeProg s.dev a isRow = some q → q.phase = .row r → r < 512 → ∃ t, exec (.rowProgramEnd a) s = .next t ∧ t.mem = s.mem ∧ t.nv.fuses = s.nv.fuses ∧
      (q.again = false → progAt t.dev a = some { q with phase := if r + 1 < 512 then .row (r + 1) else .compare }) ∧
      (q.again = true → progAt t.dev a = some { q with phase := (q.todo.find? (fun y => decide (r < y))).elim .compare .row }) ∧
      getRow t.nv.cells a q.plane r = (getRow s.nv.cells a q.plane r ||| physicalRow (getArr s.dev a).remaps (((q.rows[r]?).getD 0) &&& imageMask) |||
        (if q.again then tagCells q (getArr s.dev a).remaps r else 0)) ∧
      (∀ b p y, p < 64 → y < 512 → (b, p, y) ≠ (a, q.plane, r) → getRow t.nv.cells b p y = getRow s.nv.cells b p y)) ∧
    ((getArr s.dev a).grant = some .verifyRead → convOn s.dev (stallOf a) = true → compares s.dev a pl = some q → s.dev.net.recoveries = [] →
      let bad := failRows q (getArr s.dev a).remaps (readPlane s.nv.cells (getArr s.dev a).remaps [] a pl)
      (bad = [] → ∃ t, exec (.verifyReadEnd a pl (.rows [])) s = .next t ∧ t.mem = s.mem ∧ progAt t.dev a = some { q with phase := .hash } ∧ (getArr t.dev a).grant = none) ∧
      (∀ y l, bad = y :: l → q.again = false → ∃ t, exec (.verifyReadEnd a pl (.rows [])) s = .next t ∧ t.mem = s.mem ∧
        progAt t.dev a = some { q with again := true, todo := bad, phase := .row y } ∧ (getArr t.dev a).grant = none)) ∧
    (∀ k c o, activeProg s.dev a isHash = some q → s.dev.net.recoveries = [] → mwf ({} : Arr) none s.dev.mkt.arrays = true → isStock s.dev a = true →
      q.why = .restock k c o → (∃ y ∈ s.dev.stock.progs, isRestockProg k y = true ∧ y.chunk = c ∧ (y.array, y.plane) ≠ (a, q.plane)) →
      ∃ t, exec (.planeHashWrite a) s = .next t ∧ t.mem = s.mem ∧ t.pending = s.pending ∧
        t.nv = { s.nv with cells := orTagBytes s.nv.cells a q.plane 64 (digestBytes (planeHash q.rows)) } ∧
        t.dev = { s.dev with cycle := s.dev.cycle + 1, stock := { s.dev.stock with progs := s.dev.stock.progs.filter fun y => ! (decide (y.array = a) && decide (y.plane = q.plane)) }, mkt := { s.dev.mkt with arrays := t.dev.mkt.arrays } } ∧
        ∀ b, b ≠ a → getArr t.dev b = getArr s.dev b)

/-! ### Links and flows (section 9) -/

/-- Sub-ports, while their ring block has its clock: a role-1 link probes, a role-2 link is UP at once; a probe's part 0 is answered with parts 1-3, the others are gathered; a probe
that passes the checks of R239 brings the sub-port UP with the link's key, one that fails holds it down with its reason; the timers, the loss of a
link, frames that do not conform, flow control and LLDP (R233, R234, R237-R240, R442, R443). Every frame sent has its end-to-end CRC (R244), and probes are express (R260). -/
def Obligations.SubPortCommandsComplete : Prop :=
  ∀ (n m pz : Nat) (pre : Bool) (r : Rx) (s : State), let x := getSub s.dev n m; let sent := fun (f : Tx) => f.typ = 8 ∧ f.port = n ∧ f.sub = m ∧ f.wire.crc = txCrc f ∧ f.wire.express = true
    (ringOn s.dev n = true → (x.state = .training → subRole s.dev n m = 1 → ∃ t f, exec (.linkTrained n m true) s = .next t ∧ SameStore s t ∧ (getSub t.dev n m).state = .probing ∧
      t.dev.out = s.dev.out ++ [.frame f] ∧ sent f ∧ f.aux = 0 ∧ f.payload = part0 s.dev s.nv n m s.dev.freeIx ∧ (getSub t.dev n m).nonce = s.dev.freeIx) ∧
    (x.state = .training → subRole s.dev n m = 2 → ∃ t, exec (.linkTrained n m true) s = .next t ∧ SameStore s t ∧ (getSub t.dev n m).state = .up ∧ t.dev.out = s.dev.out) ∧
    (r.port = n → r.sub = m → (x.state = .probing ∨ x.state = .heldDown ∨ x.state = .up) → r.crc = rxCrc r → r.typ = 8 → r.cls = 0 → subRole s.dev n m ≠ 2 →
      (r.aux.toNat % 256 ≠ 0 → ∃ t, exec (.probe r) s = .next t ∧ SameStore s t ∧ t.dev.out = s.dev.out ∧
        getSub t.dev n m = if x.state = .up then x else { x with parts := aset x.parts (r.aux.toNat % 256) r.payload }) ∧
      (r.aux.toNat % 256 = 0 → ∃ t f1 f2 f3, exec (.probe r) s = .next t ∧ SameStore s t ∧ t.dev.out = s.dev.out ++ [.frame f1, .frame f2, .frame f3] ∧
        f1.aux = 1 ∧ f2.aux = 2 ∧ f3.aux = 3 ∧ sent f1 ∧ sent f2 ∧ sent f3 ∧ f3.payload = kemCipher s.dev.freeIx (peerKey r.payload))) ∧
    (∀ e, subRole s.dev n m = 1 → (∀ k, k < 4 → ∃ q ∈ x.parts, q.1 = k) → portEntry s.dev n m = some e →
      (x.state = .probing ∨ x.state = .heldDown → probeFault s.dev e (aget x.parts 0 []) true = none → ∃ t, exec (.probeVerified n m true) s = .next t ∧ SameStore s t ∧
        (getSub t.dev n m).state = .up ∧ (getSub t.dev n m).session = some (linkKey s.dev s.nv n m)) ∧
      (∀ y, probeFault s.dev e (aget x.parts 0 []) true = some y →
        (x.state = .probing → ∃ t, exec (.probeVerified n m true) s = .next t ∧ SameStore s t ∧
          (getSub t.dev n m).state = .heldDown ∧ (getSub t.dev n m).session = none ∧ mget t.dev.eth.reasons n 0 = y ∧ EventSeen .ep 1 s t) ∧
        (x.state = .heldDown → ∃ t, exec (.probeVerified n m true) s = .next t ∧ SameStore s t ∧ getSub t.dev n m = { x with parts := [] } ∧ t.dev.eth.reasons = s.dev.eth.reasons))) ∧
    (x.state = .probing → ∃ t, exec (.probeTimeout n m) s = .next t ∧ SameStore s t ∧ (getSub t.dev n m).state = .heldDown ∧ mget t.dev.eth.reasons n 0 = 5 ∧ EventSeen .ep 1 s t) ∧
    (x.state = .heldDown → ∃ t f, exec (.heldDownProbeResend n m) s = .next t ∧ SameStore s t ∧ getSub t.dev n m = { x with nonce := s.dev.freeIx } ∧
      t.dev.out = s.dev.out ++ [.frame f] ∧ sent f ∧ f.aux = 0) ∧
    (x.state = .up → ∃ t, exec (.frameDrop n m .badFcs) s = .next t ∧ SameStore s t ∧ mget t.dev.eth.cnts (n * 16 + 8) 0 = (mget s.dev.eth.cnts (n * 16 + 8) 0 + 1) % 2 ^ 16 ∧
      (∀ y, y ≠ n * 16 + 8 → mget t.dev.eth.cnts y 0 = mget s.dev.eth.cnts y 0) ∧
      t.dev = { s.dev with cycle := s.dev.cycle + 1, eth := { s.dev.eth with cnts := t.dev.eth.cnts } }) ∧
    (x.state = .heldDown → ∀ c ∈ [Instr.frameDrop n m .notUp, .pfcFrame n m pz, .lldpFrame n m pre], ∃ t, exec c s = .next t ∧ SameStore s t ∧
      mget t.dev.eth.cnts (n * 16 + 7) 0 = (mget s.dev.eth.cnts (n * 16 + 7) 0 + 1) % 2 ^ 16 ∧ mget t.dev.eth.cnts (n * 16 + 1) 0 = (mget s.dev.eth.cnts (n * 16 + 1) 0 + 1) % 2 ^ 32 ∧
      t.dev = { s.dev with cycle := s.dev.cycle + 1, eth := { s.dev.eth with cnts := t.dev.eth.cnts } }) ∧
    (x.state = .up → x.txq = [] → ∃ t, exec (.pfcFrame n m pz) s = .next t ∧ SameStore s t ∧ t.dev.out = s.dev.out ∧
      getSub t.dev n m = { x with paused := pz &&& ((portEntry s.dev n m).map (·.flags.toNat / 2 % 8)).getD 0 }) ∧
    (x.state = .up ∨ x.state = .probing → ∃ t, exec (.lldpFrame n m pre) s = .next t ∧ SameStore s t ∧ t.dev.out = s.dev.out ∧ getSub t.dev n m = { x with partner := pre })) ∧
    (x.state ≠ .down → ∃ t, exec (.linkLoss n m) s = .next t ∧ SameStore s t ∧ (getSub t.dev n m).state = .training ∧ (getSub t.dev n m).session = none ∧ EventSeen .ep 0 s t)

/-- A whole message on a step flow or a bulk flow (R249, R254-R259): DATA becomes carts, at once in the step that it names, against a credit of their queue or behind those that wait for
one, or held for its bell; CONTRIB the scaled sums of its records where its seal matches, else a record and a flag; a unit's bytes go to the transfer that waits for them; a
request for a replay orders one (R139, R185, R220). -/
def Obligations.FlowMessagesComplete : Prop :=
  ∀ (f st : Nat) (e : FlowEntry) (r : Rx) (s : State), OnFlow f r s → WholeMessage f r s → s.dev.state ≠ .faulted → let k := (getFlow s.dev f).domain
    (flowEntry s.dev f = some e → fullStep s.dev k r.step = some st → (st, r.aux.toNat / 2 ^ 32) ∉ (getFlow s.dev f).accepted →
      (∀ c, (c, r.typ, r.cart) = (Instr.dataFrame r, 1, r.cart) ∨ (c, r.typ, r.cart) = (Instr.contrib r, 2, r.cart) →
        ∀ ls ct, Arrives r.typ r s → (r.typ = 1 → ls = linesOf 64 r.payload ∧ ct = r.cart) →
          (r.typ = 2 → ct = 1 ∧ ∃ rs, contribOk s.dev r.payload = some rs ∧ ls = contribLines s.dev rs) →
          let made := fun (q : Cart) => q.typ = ct ∧ q.flits = ls ∧ q.src = 2048 + e.port ∧ q.slot = bits r.aux.toNat 31 16 ∧ q.step = st % 2 ^ 32; let z := coverDest s.dev e.dest e.queue
          ((getDom s.dev k).running = false → ∃ t q, exec c s = .next t ∧ SameStore s t ∧ Taken f r t ∧ t.dev.net.held = s.dev.net.held ++ [(k, st, q)] ∧
            q.dest = e.dest ∧ q.queue = e.queue ∧ made q) ∧
          ((getDom s.dev k).running = true → (getDom s.dev k).belled = true → (getDom s.dev k).step = st → routeAt s.dev (2048 + e.port) e.route = none →
            (hasCredit s.dev z = true → (∀ y ∈ s.dev.net.waiting, y.src ≠ 2048 + e.port) → ∃ t y q, exec c s = .next t ∧ SameStore s t ∧ Taken f r t ∧
              t.dev.net.flights = s.dev.net.flights ++ [{ id := s.dev.net.nextFlight, load := .cart y [q], left := 1 + y.flits.length, path := [] }] ∧
              Out.cart y (cartFlits y) ∈ t.dev.out ∧ (q.dest, q.queue) = z ∧ made q ∧ creditsUsed t.dev (2048 + e.port) z = creditsUsed s.dev (2048 + e.port) z + 1) ∧
            (hasCredit s.dev z = false → ∃ t q, exec c s = .next t ∧ SameStore s t ∧ Taken f r t ∧ t.dev.net.waiting = s.dev.net.waiting ++ [q] ∧
              t.dev.net.flights = s.dev.net.flights ∧ q.dest = e.dest ∧ q.queue = e.queue ∧ made q))) ∧
      (Arrives 2 r s → contribOk s.dev r.payload = none → (getDom s.dev k).running = false ∨ (getDom s.dev k).belled = true ∧ (getDom s.dev k).step = st →
        ∃ t, exec (.contrib r) s = .next t ∧ SameStore s t ∧ EventSeen .ep 6 s t ∧ t.dev.faults.head = s.dev.faults.head + 1 ∧ t.dev.net = s.dev.net)) ∧
    (∀ c, Arrives 3 r s → fetchFor s.dev f = none → restockFor s.dev f = none → adapterFor s.dev f = none → chanFor s.dev f = some c →
      ∃ t, exec (.unitFrame r) s = .next t ∧ SameStore s t ∧ Taken f r t ∧ let x := getChan s.dev (c / 16) (c % 16)
        getChan t.dev (c / 16) (c % 16) = { x with rx := aset x.rx (r.aux.toNat / 4096) r.payload }) ∧
    (Arrives 11 r s → (getDom s.dev k).running = true → (getDom s.dev k).step = r.aux.toNat → (getDom s.dev k).faultRaised = false → (getDom s.dev k).replaying = false →
      (getDom s.dev k).replayed = false → ∃ t, exec (.replayReq r) s = .next t ∧ SameStore s t ∧ EventSeen .blStep 2 s t ∧
        getDom t.dev k = { getDom s.dev k with replaying := true, halted := true, post := (getDom s.dev k).done })

/-- A whole SERVICE message at the front device (R312, R326, R345, R361, R368): an order that passes its checks takes the lowest free ticket and
waits for the bell, one that fails is answered with END and leaves no ticket; a cancel of a live ticket joins the bell's ends, any other is answered;
a query that passes joins its customer's queue; a mask write in its owner's set is taken, any other answered. -/
def Obligations.ServiceMessagesComplete : Prop :=
  ∀ (f : Nat) (r : Rx) (s : State), Arrives 12 r s → OnFlow f r s → WholeMessage f r s → isFront s.dev = true → r.payload.length ≤ 4194304 →
    let b := r.payload; let op := r.aux.toNat / 2 ^ 56; let fl := flowHandle s.dev f
    (op = 1 → 64 ≤ b.length → let o := orderOf b; let n := lowestFree s.dev
      (orderCheck b o s.dev = none → ∃ t, exec (.order r) s = .next t ∧ SameStore s t ∧ Taken f r t ∧ t.dev.srv.arrivals = s.dev.srv.arrivals ++ [n] ∧
        getTicket t.dev n = orderTicket fl o s.dev (getTicket s.dev n).gen ∧ (∀ j, j ≠ n → getTicket t.dev j = getTicket s.dev j) ∧ t.dev.srv.answers = s.dev.srv.answers) ∧
      (∀ y, orderCheck b o s.dev = some y → ∃ t a, exec (.order r) s = .next t ∧ SameStore s t ∧ Taken f r t ∧ EventSeen .tg 0 s t ∧
        t.dev.srv.answers = s.dev.srv.answers ++ [a] ∧ a.op = 0x83 ∧ a.flow = fl ∧ t.dev.srv.arrivals = s.dev.srv.arrivals ∧ t.dev.srv.tickets = s.dev.srv.tickets)) ∧
    (op = 2 → let h := beAt b 4 4; let req := beAt b 0 4
      (∀ k, ticketOf s.dev h = some k → liveT (getTicket s.dev k) = true → ∃ t, exec (.cancel r) s = .next t ∧ SameStore s t ∧ Taken f r t ∧
        t.dev.srv = { s.dev.srv with ends := s.dev.srv.ends ++ [(h, req, fl, false)] }) ∧
      (ticketOf s.dev h = none → ∃ t a, exec (.cancel r) s = .next t ∧ SameStore s t ∧ Taken f r t ∧ t.dev.srv = { s.dev.srv with answers := s.dev.srv.answers ++ [a] } ∧
        a.op = 0x84 ∧ a.flow = fl)) ∧
    (∀ c, op = 0x40 → let u := getCust s.dev (beAt b 4 2); let q := mget s.dev.srv.catQueues u.queue []
      s.dev.state = .serving → catFront s.dev = true → 32 ≤ b.length → catOf s.dev (beAt b 8 1) = some c → queryOk b c = true → u.enable = true → c.queryCost ≤ u.burst →
      waitWithin s.dev (queriesAhead s.dev (prioOf s.dev u.queue)) (8 * (serve s.dev).waitCapUs) = true → q.length < depthOf s.dev u.queue →
      ∃ t x, exec (.query r) s = .next t ∧ SameStore s t ∧ Taken f r t ∧ mget t.dev.srv.catQueues u.queue [] = q ++ [x] ∧ x.request = beAt b 0 4 ∧
        x.customer = beAt b 4 2 ∧ x.k = beAt b 10 2 ∧ x.set = beAt b 12 2 ∧ x.elems = queryElems b) ∧
    (op = 0x41 → (maskStatus b s.dev = 0 → ∃ t x, exec (.maskWrite r) s = .next t ∧ SameStore s t ∧ Taken f r t ∧
        t.dev.srv = { s.dev.srv with masks := s.dev.srv.masks ++ [x] } ∧ x.request = beAt b 0 4 ∧ x.set = beAt b 6 2 ∧ x.firstId = beAt b 8 8 ∧ x.bits = bitsLsb (b.drop 20)) ∧
      (maskStatus b s.dev ≠ 0 → ∃ t a, exec (.maskWrite r) s = .next t ∧ SameStore s t ∧ Taken f r t ∧ t.dev.srv = { s.dev.srv with answers := s.dev.srv.answers ++ [a] } ∧
        a.op = 0x61 ∧ a.flow = fl))

/-- Flows: an acknowledgement settles what it names, an echo of congestion halves a bulk or service flow's rate, to its floor; OPEN gives an unused index a new handle and is answered, an
index in use or in quarantine takes none; OPEN_ACK gives the peer's; CLOSE retires the flow (R247, R248, R250, R253). The timers: the acknowledgement sent, a frame sent again, the path
switched at the fourth timeout where the other is UP, FAULT when both paths have failed, the end of quarantine, the rate's rise (R250-R253). A frame goes out where its sub-port's state
passes it and its class is not paused (R233, R237). -/
def Obligations.FlowCommandsComplete : Prop :=
  ∀ (f psn : Nat) (r : Rx) (s : State), let x := getFlow s.dev f
    let goes := fun (a : Tx) (t : State) => a.wire.crc = txCrc a ∧ (txPasses s.dev a = true → pausedFor s.dev a = false → t.dev.out = s.dev.out ++ [.frame a])
    (Arrives 4 r s → OnFlow f r s → r.flags.getLsbD 0 = true → ∃ t, exec (.ackFrame r) s = .next t ∧ SameStore s t ∧
      (getFlow t.dev f).unacked = x.unacked.filter (fun u => ! (decide (u.t.psn < r.ack) || sackHas r.ack r.aux u.t.psn))) ∧
    (Arrives 4 r s → f < 49152 → hIndex r.handle.toNat = f → x.inUse = true → x.gen = hGen r.handle.toNat → x.cls = r.cls → 2 ≤ x.cls → r.flags.getLsbD 1 = true →
      ∃ t, exec (.ackFrame r) s = .next t ∧ SameStore s t ∧ (getFlow t.dev f).rate = max (x.rate / 2) (floorRate s.dev f)) ∧
    (Arrives 5 r s → f = hIndex r.handle.toNat → f < 49152 →
      (hGen r.handle.toNat = 0 → x.quarantine = false → x.opened = false → let g := if x.inUse then x.gen else nextGen x.gen
        ∃ t a, exec (.openFrame r) s = .next t ∧ SameStore s t ∧ (getFlow t.dev f).inUse = true ∧ (getFlow t.dev f).opened = true ∧ (getFlow t.dev f).gen = g ∧
          (getFlow t.dev f).peer = r.aux.setWidth 32 ∧ (x.inUse = false → (getFlow t.dev f).cls = (flowEntry s.dev f).elim r.cls (·.cls)) ∧ a.typ = 6 ∧ a.handle = r.aux.setWidth 32 ∧
          a.aux = BitVec.ofNat 64 (handleOf f g) ∧ goes a t) ∧
      (hGen r.handle.toNat ≠ 0 ∨ x.quarantine = true ∨ x.opened = true → ∃ t, exec (.openFrame r) s = .next t ∧ SameStore s t ∧ t.dev.eth.flows = s.dev.eth.flows ∧
        t.dev.out = s.dev.out ∧ t.dev.eth.staleDrops = (s.dev.eth.staleDrops + 1) % 2 ^ 32)) ∧
    (Arrives 6 r s → OnFlow f r s → r.flags.getLsbD 0 = false → x.opened = false → ∃ t, exec (.openAck r) s = .next t ∧ SameStore s t ∧
      getFlow t.dev f = { x with opened := true, peer := r.aux.setWidth 32 }) ∧
    (Arrives 7 r s → OnFlow f r s → r.flags.getLsbD 0 = false → ∃ t, exec (.closeFrame r) s = .next t ∧ SameStore s t ∧
      getFlow t.dev f = { gen := x.gen, quarantine := true }) ∧
    (x.opened = true → 0 < x.sinceAck → ∃ t a, exec (.ackTimer f) s = .next t ∧ SameStore s t ∧ getFlow t.dev f = { x with sinceAck := 0, ceEcho := false } ∧ a.typ = 4 ∧
      a.ack = x.rxNext ∧ a.handle = x.peer ∧ goes a t) ∧
    (∀ u, x.opened = true → x.unacked.find? (fun v => decide (v.t.psn = psn)) = some u → ¬ (x.badHome = true ∧ x.badAlt = true) → u.timeouts < 3 →
      ∃ t a, exec (.retransmitTimeout f psn) s = .next t ∧ SameStore s t ∧
        (getFlow t.dev f).unacked = x.unacked.map (fun v => if v.t.psn = psn then { v with timeouts := v.timeouts + 1 } else v) ∧
        a.psn = psn ∧ a.payload = u.t.payload ∧ a.alive = u.t.alive ∧ a.flags.getLsbD 3 = true ∧ (a.port, a.sub) = flowPath s.dev f ∧ goes a t) ∧
    (∀ u, x.inUse = true → x.opened = true → x.cls = 1 → x.unacked.find? (fun v => decide (v.t.psn = psn)) = some u → x.onAlt = false → x.badHome = false → x.badAlt = false →
      3 ≤ u.timeouts →
      (subUp s.dev (otherPath s.dev f) = true → ∃ t, exec (.retransmitTimeout f psn) s = .next t ∧ SameStore s t ∧ EventSeen .ep 2 s t ∧ (getFlow t.dev f).onAlt = true ∧
        (getFlow t.dev f).badHome = true ∧ (getFlow t.dev f).unacked.map (·.t) = x.unacked.map (·.t)) ∧
      (subUp s.dev (otherPath s.dev f) = false → ∃ t, exec (.retransmitTimeout f psn) s = .next t ∧ SameStore s t ∧ getFlow t.dev f = { x with badHome := true, badAlt := true } ∧
        t.dev.out = s.dev.out)) ∧
    (x.inUse = true → x.cls = 1 → x.badHome = true → x.badAlt = true → x.failed = false → (getDom s.dev x.domain).running = true →
      ∃ t, exec (.flowFailTimeout f) s = .next t ∧ SameStore s t ∧ EventSeen .ep 3 s t ∧ getFlow t.dev f = { x with failed := true } ∧
        (getDom t.dev x.domain).faultRaised = true) ∧
    (x.quarantine = true → ∃ t, exec (.quarantineEnd f) s = .next t ∧ SameStore s t ∧ (getFlow t.dev f).quarantine = false ∧
      (flowEntry s.dev f = none → getFlow t.dev f = { gen := x.gen })) ∧
    (x.inUse = true → 2 ≤ x.cls → ∃ t, exec (.rateLimitRise f) s = .next t ∧ SameStore s t ∧ getFlow t.dev f = { x with rate := min 1600000000000 (x.rate + 80000000000) } ∧
      ∀ j, j ≠ f → getFlow t.dev j = getFlow s.dev j)

/-! ### Steps and bells (section 8) -/

/-- The pace point ends the hold (R208); the device's done rises once its stalls are done, and goes up the tree (R150, R151, R209), or is withheld by a
parity error (R152); a local domain's bell starts the next step at the level of the vector (R150, R218); a child's done is kept, a parent's bell
starts its step, with the FAULT flag the device is FAULTED (R210, R214, R262); the resends (R209, R263); the schedule of the next step, once its flows can take it (R325). The tree
works while the router columns of the domain's stalls have their clocks (R14). -/
def Obligations.BellCommandsComplete : Prop :=
  ∀ (k p : Nat) (r : Rx) (s : State), let x := getDom s.dev k; let clocks := (membersOf s.dev k).all (columnOn s.dev) = true
    let up := fun (q : Nat) => (((theDoc s.dev).map fun y => bellPaths y q).getD []).filter fun e => decide ((getSub s.dev e.port e.sub).state = .up)
    (x.running = true → atPace s.dev k = true → ∃ t, exec (.pacePoint k) s = .next t ∧ SameStore s t ∧ getDom t.dev k = { x with paced := true } ∧
      t.dev = { s.dev with cycle := s.dev.cycle + 1, doms := t.dev.doms }) ∧
    (x.running = true → x.done = false → x.paced = true → workDone s.dev k = true → clocks →
      (isMachine s.dev k = false → ∃ t, exec (.deviceDone k false) s = .next t ∧ t.mem = s.mem ∧ (getDom t.dev k).done = true ∧ (getDom t.dev k).step = x.step) ∧
      (isMachine s.dev k = true → parentOf s.dev k = some p → (∀ c ∈ childrenOf s.dev k, ∃ e ∈ x.kids, e.1 = c) →
        ∃ t, exec (.deviceDone k false) s = .next t ∧ t.mem = s.mem ∧ (getDom t.dev k).done = true ∧ (getDom t.dev k).sentUp = true ∧ (getDom t.dev k).step = x.step) ∧
      (∃ t, exec (.deviceDone k true) s = .next t ∧ t.mem = s.mem ∧ EventSeen .bl 1 s t ∧ (getDom t.dev k).faultRaised = true ∧ (getDom t.dev k).done = false)) ∧
    ((domEntry s.dev k).isSome = true → isMachine s.dev k = false → clocks →
      (x.running = true → x.done = true → atPeriod s.dev k = true → x.snapshot.contains (8 * k) = false → ∃ t, exec (.localBell k) s = .next t ∧
        (getDom t.dev k).step = x.step + 1 ∧ (getDom t.dev k).level = levelOf k x.snapshot ∧ (getDom t.dev k).done = false) ∧
      (x.running = false → isReady s.dev k = true → ∃ t, exec (.localBell k) s = .next t ∧ (getDom t.dev k).step = proposal s.dev k ∧ (getDom t.dev k).level = 0)) ∧
    (Arrives 9 r s → r.payload.length = 96 → leAt r.payload 0 1 = k → leAt r.payload 8 1 = 0 → isMachine s.dev k = true → (childrenOf s.dev k).contains (beAt r.payload 2 2) = true →
      x.running = true → x.done = false → r.aux.toNat = x.step → (∀ e ∈ x.kids, e.1 ≠ beAt r.payload 2 2) → ∃ t, exec (.bellUp r) s = .next t ∧ t.mem = s.mem ∧
        getDom t.dev k = { x with kids := x.kids ++ [(beAt r.payload 2 2, beAt r.payload 4 4, flagsOf r.payload)] }) ∧
    (Arrives 10 r s → r.payload.length = 96 → leAt r.payload 0 1 = k → leAt r.payload 8 1 = 0 → isMachine s.dev k = true → parentOf s.dev k = some p →
      steps s.dev.state = true → x.running = true → x.done = true → r.aux.toNat = x.step + 1 →
      ((flagsOf r.payload).contains (8 * k) = false → ∃ t, exec (.bellDown r) s = .next t ∧ (getDom t.dev k).step = x.step + 1 ∧
        (getDom t.dev k).level = min 5 (leAt r.payload 1 1) ∧ (getDom t.dev k).done = false) ∧
      ((flagsOf r.payload).contains (8 * k) = true → ∃ t, exec (.bellDown r) s = .next t ∧ t.mem = s.mem ∧ t.dev.state = .faulted ∧ EventSeen .bl 2 s t)) ∧
    (x.running = true → x.sentUp = true → parentOf s.dev k = some p → ∃ (t : State) (fs : List Tx), exec (.bellResend k) s = .next t ∧ SameStore s t ∧ t.dev.out = s.dev.out ++ fs.map Out.frame ∧
      fs.length = (up p).length ∧ (∀ f ∈ fs, f.typ = 9 ∧ f.aux = BitVec.ofNat 64 x.step ∧ f.wire.crc = txCrc f ∧ f.wire.express = true) ∧ getDom t.dev k = { x with sentFlags := treeFlags s.dev k }) ∧
    (isReady s.dev k = true → x.readySent ≠ none → parentOf s.dev k = some p → ∃ (t : State) (fs : List Tx), exec (.readinessResend k) s = .next t ∧ SameStore s t ∧
      t.dev.out = s.dev.out ++ fs.map Out.frame ∧ fs.length = (up p).length ∧ (∀ f ∈ fs, f.typ = 9 ∧ f.aux = BitVec.ofNat 64 (readyStep s.dev k)) ∧
      getDom t.dev k = { x with readySent := some (readyStep s.dev k) }) ∧
    (isFront s.dev = true → frontDom s.dev = k → x.running = true → x.halted = false → x.done = false → s.dev.srv.schedSent = false → recordsIn s.dev = true →
      let n := scheduleFrames (scheduleNext x.step s.dev)
      (flowsReady s.dev n = true → ∃ t, exec (.scheduleSend k) s = .next t ∧ SameStore s t ∧ t.dev.srv.schedSent = true ∧ t.dev.srv.outRecs = [] ∧ (getDom t.dev k).step = x.step) ∧
      (flowsReady s.dev n = false → ∃ t, exec (.scheduleSend k) s = .next t ∧ Nothing s t))
end

