-- ==== Sys2Proof/Laws/Maps.lean ====
section
/-! SUPPORT. Sparse maps and DRAM: a read after a write, and the canonical form that every operation keeps. -/
namespace Sys2Proof.Machine
variable {α : Type}

@[simp] theorem mfind_mdel_same (m : SMap α) (k : Nat) : mfind (mdel m k) k = none := by
  induction m with
  | nil => rfl
  | cons e r ih => by_cases h : e.1 = k <;> simp [mdel, mfind, h, ih]

@[simp] theorem mfind_mdel_ne (m : SMap α) {k j : Nat} (h : j ≠ k) : mfind (mdel m k) j = mfind m j := by
  induction m with
  | nil => rfl
  | cons e r ih =>
    by_cases h1 : e.1 = k
    · subst h1; simp [mdel, mfind, ih, Ne.symm h]
    · by_cases h2 : e.1 = j <;> simp_all [mdel, mfind]

@[simp] theorem mfind_mput_same (m : SMap α) (k : Nat) (x : α) : mfind (mput m k x) k = some x := by
  induction m with
  | nil => simp [mput, mfind]
  | cons e r ih =>
    by_cases h : e.1 = k
    · simp [mput, mfind, h]
    · by_cases h2 : k < e.1 <;> simp [mput, mfind, h, h2, ih]

@[simp] theorem mfind_mput_ne (m : SMap α) {k j : Nat} (x : α) (h : j ≠ k) : mfind (mput m k x) j = mfind m j := by
  induction m with
  | nil => simp [mput, mfind, Ne.symm h]
  | cons e r ih =>
    by_cases h1 : e.1 = k
    · subst h1; simp [mput, mfind, Ne.symm h]
    · by_cases h2 : k < e.1
      · simp [mput, mfind, h1, h2, Ne.symm h]
      · have h4 : mput (e :: r) k x = e :: mput r k x := by simp [mput, h1, h2]
        rw [h4]; by_cases h3 : e.1 = j <;> simp [mfind, h3, ih]

variable [DecidableEq α]

@[simp] theorem mget_mset_same (m : SMap α) (k : Nat) (d x : α) : mget (mset m k d x) k d = x := by
  unfold mset; split <;> simp_all [mget]

@[simp] theorem mget_mset_ne (m : SMap α) {k j : Nat} (d x : α) (h : j ≠ k) : mget (mset m k d x) j d = mget m j d := by
  unfold mset; split <;> simp [mget, h]

/-- A weaker lower bound keeps the form. -/
theorem mwf_weaken (d : α) {lo lo' : Option Nat} {m : SMap α} (h : mwf d lo m = true)
    (hl : ∀ a, lo' = some a → ∃ b, lo = some b ∧ a ≤ b) : mwf d lo' m = true := by
  cases m with
  | nil => rfl
  | cons e r =>
    cases lo' with
    | none => cases lo <;> simp_all [mwf]
    | some a => obtain ⟨b, rfl, hb⟩ := hl a rfl; simp_all [mwf]; omega

theorem mwf_mdel (d : α) (k : Nat) {lo : Option Nat} {m : SMap α} (h : mwf d lo m = true) : mwf d lo (mdel m k) = true := by
  induction m generalizing lo with
  | nil => rfl
  | cons e r ih =>
    have h2 : mwf d (some e.1) r = true := by simp_all [mwf]
    by_cases hk : e.1 = k
    · simp only [mdel, hk, if_true]
      refine ih (mwf_weaken d h2 fun a ha => ⟨e.1, rfl, ?_⟩)
      subst ha; simp [mwf] at h; omega
    · have := ih h2
      cases lo <;> simp_all [mdel, mwf]

theorem mwf_mput (d : α) (k : Nat) (x : α) (hx : x ≠ d) {lo : Option Nat} {m : SMap α} (h : mwf d lo m = true)
    (hlo : ∀ b, lo = some b → b < k) : mwf d lo (mput m k x) = true := by
  induction m generalizing lo with
  | nil => cases lo <;> simp_all [mput, mwf]
  | cons e r ih =>
    have h2 : mwf d (some e.1) r = true := by simp_all [mwf]
    by_cases hk : e.1 = k
    · subst hk; cases lo <;> simp_all [mput, mwf]
    · by_cases hl : k < e.1
      · cases lo <;> simp_all [mput, mwf]
      · have h3 := ih h2 (fun b hb => by cases hb; omega)
        have h4 : mput (e :: r) k x = e :: mput r k x := by simp [mput, hk, hl]
        rw [h4]; cases lo <;> simp_all [mwf]

/-- Every write keeps the canonical form. -/
theorem mwf_mset (d : α) (k : Nat) (x : α) {m : SMap α} (h : mwf d none m = true) : mwf d none (mset m k d x) = true := by
  unfold mset; split
  · exact mwf_mdel d k h
  · exact mwf_mput d k x ‹_› h (fun _ hb => by cases hb)

/-- So does dropping the entries that a test picks. -/
theorem mwf_filter (d : α) (p : Nat × α → Bool) {lo : Option Nat} {m : SMap α} (h : mwf d lo m = true) : mwf d lo (m.filter p) = true := by
  induction m generalizing lo with
  | nil => rfl
  | cons e r ih =>
    have h2 : mwf d (some e.1) r = true := by simp_all [mwf]
    by_cases hp : p e = true
    · have := ih h2; cases lo <;> simp_all [mwf]
    · rw [List.filter_cons_of_neg hp]
      exact ih (mwf_weaken d h2 fun a ha => ⟨e.1, rfl, by subst ha; simp [mwf] at h; omega⟩)

/-! ### DRAM -/

@[simp] theorem memRead_memWrite_same (m : List Host.Cell) (a : Nat) (b : Byte) (h : a < dramTop) : memRead (memWrite m a b) a = b := by
  simp [memRead, memWrite, h]

@[simp] theorem memRead_memWrite_ne (m : List Host.Cell) {a j : Nat} (b : Byte) (h : j ≠ a) : memRead (memWrite m a b) j = memRead m j := by
  unfold memWrite memRead; split <;> simp [h]

theorem memWf_memWrite {m : List Host.Cell} (a : Nat) (b : Byte) (h : memWf m) : memWf (memWrite m a b) := by
  unfold memWrite; split
  · exact mwf_mset 0 a b h
  · exact h

theorem memWf_memWrites {m : List Host.Cell} (a : Nat) (l : List Byte) (h : memWf m) : memWf (memWrites m a l) := by
  induction l generalizing m a with
  | nil => exact h
  | cons b r ih => exact ih (a + 1) (memWf_memWrite a b h)

/-- A run of bytes changes nothing outside it. -/
theorem memRead_memWrites_out (m : List Host.Cell) (a : Nat) (l : List Byte) {j : Nat} (h : j < a ∨ a + l.length ≤ j) :
    memRead (memWrites m a l) j = memRead m j := by
  induction l generalizing m a with
  | nil => rfl
  | cons b r ih =>
    simp only [List.length_cons] at h
    rw [memWrites, ih _ _ (by omega)]
    exact memRead_memWrite_ne m b (by omega)

end Sys2Proof.Machine
end

