-- ==== Sys2Proof/Laws/Bytes.lean ====
section
/-! SUPPORT. Byte strings: what a layout gives back, what unlisted memory reads, a list stored as cells; and the seal of a block of zeros. -/
namespace Sys2Proof.Machine

@[simp] theorem leBytes_length (n v : Nat) : (leBytes n v).length = n := by
  induction n generalizing v with
  | zero => rfl
  | succ n ih => simp [leBytes, ih]

theorem leNat_leBytes (n v : Nat) : leNat (leBytes n v) = v % 256 ^ n := by
  induction n generalizing v with
  | zero => simp [leBytes, leNat, Nat.mod_one]
  | succ n ih =>
    have h : v % (256 * 256 ^ n) = v % 256 + 256 * (v / 256 % 256 ^ n) := Nat.mod_mul
    rw [leBytes, leNat, ih, BitVec.toNat_ofNat, show 256 ^ (n + 1) = 256 * 256 ^ n from Nat.pow_succ', h]

/-- The middle of three strings, at its place. -/
theorem sub_mid (p l q : List Byte) {off n : Nat} (hp : p.length = off) (hl : l.length = n) : sub (p ++ (l ++ q)) off n = l := by
  subst hp; subst hl; simp [sub]

theorem leAt_mid (p q : List Byte) (v : Nat) {off n : Nat} (hp : p.length = off) : leAt (p ++ (leBytes n v ++ q)) off n = v % 256 ^ n := by
  rw [leAt, sub_mid p _ q hp (leBytes_length n v), leNat_leBytes]

theorem digestAt_mid (p q : List Byte) (x : Digest) {off : Nat} (hp : p.length = off) : digestAt (p ++ (digestBytes x ++ q)) off = x := by
  rw [digestAt, digestBytes, leAt_mid p q _ hp, Nat.mod_eq_of_lt (by have := x.isLt; omega)]; simp

theorem memReads_nil (a n : Nat) : memReads [] a n = List.replicate n 0 := by
  induction n generalizing a with
  | zero => rfl
  | succ n ih => simp [memReads, ih, List.replicate_succ, memRead, mget, mfind]

theorem staged_nil (off n : Nat) : staged [] off n = List.replicate n 0 := memReads_nil _ _

/-- A byte string as cells from an address on: its zeros are not listed. -/
def cellsAt (base : Nat) : List Byte → List Host.Cell
  | [] => []
  | b :: r => if b = 0 then cellsAt (base + 1) r else (base, b) :: cellsAt (base + 1) r

theorem mfind_cellsAt_lt (l : List Byte) {base a : Nat} (h : a < base) : mfind (cellsAt base l) a = none := by
  induction l generalizing base with
  | nil => rfl
  | cons b r ih =>
    simp only [cellsAt]
    split
    · exact ih (by omega)
    · rw [mfind, if_neg (by omega)]; exact ih (by omega)

theorem memReads_skip (e : Host.Cell) (m : List Host.Cell) (n : Nat) {a : Nat} (h : e.1 < a) : memReads (e :: m) a n = memReads m a n := by
  induction n generalizing a with
  | zero => rfl
  | succ n ih =>
    obtain ⟨x, v⟩ := e
    simp only [memReads, ih (Nat.lt_succ_of_lt h), memRead, mget, mfind, if_neg (Nat.ne_of_lt h)]

/-- The bytes come back as they were stored. -/
theorem memReads_cellsAt (l : List Byte) (base : Nat) : memReads (cellsAt base l) base l.length = l := by
  induction l generalizing base with
  | nil => rfl
  | cons b r ih =>
    simp only [cellsAt, List.length_cons, memReads]
    split
    · rename_i h
      rw [ih, memRead, mget, mfind_cellsAt_lt r (Nat.lt_succ_self base)]; simp [h]
    · rw [memReads_skip _ _ _ (Nat.lt_succ_self base), ih]
      simp [memRead, mget, mfind]

theorem foldl_sealC_zero (seed : W64) (off n k : Nat) (a : Int) :
    ((List.replicate n (0 : Int)).zipIdx k).foldl (fun (b : Int) (e : Int × Nat) => b + (sealC seed off e.2 : Nat) * e.1) a = a := by
  induction n generalizing k a with
  | zero => rfl
  | succ n ih => simp [List.replicate_succ, List.zipIdx_cons, ih]

/-- D of sums of which all but the first are 0. -/
theorem sealDot_single (seed : W64) (off n : Nat) (v : Int) : sealDot seed off (v :: List.replicate n 0) = (sealC seed off 0 : Nat) * v := by
  simp [sealDot, List.zipIdx_cons, foldl_sealC_zero]

theorem sealDot_zero (seed : W64) (off n : Nat) : sealDot seed off (List.replicate n 0) = 0 := foldl_sealC_zero seed off n 0 0

theorem zip_filter_zero (n : Nat) (rows : List CellRow) : ((List.replicate n (0 : Int)).zip rows).filter (fun e => decide (e.1 ≠ 0)) = [] := by
  rw [List.filter_eq_nil_iff]
  intro e he
  simp [List.eq_of_mem_replicate (List.of_mem_zip he).1]

/-- A block of zeros passes its seal on every plane. -/
theorem seal_zero (fmt n : Nat) (seed : W64) (off : Nat) (rows : List CellRow) :
    sealSum (List.replicate n 0) rows = sealDot seed off (partialSums fmt (List.replicate n 0) rows) := by
  have h : partialSums fmt (List.replicate n 0) rows = List.replicate (outsOf fmt) 0 := by
    simp only [partialSums, zip_filter_zero, List.foldl_nil]
    exact List.ext_getElem (by simp) (by simp)
  rw [h, sealDot_zero, sealSum, zip_filter_zero]; rfl

end Sys2Proof.Machine
end

