-- ==== Sys2Proof/Laws/State.lean ====
section
/-! SUPPORT. What each named update of the device leaves and what it sets: one lemma per field. -/
namespace Sys2Proof.Machine


/-! setDom -/

@[simp] theorem setDom_state (d : Dev) (k : Nat) (x : Dom) : (setDom d k x).state = d.state := rfl
@[simp] theorem setDom_previous (d : Dev) (k : Nat) (x : Dom) : (setDom d k x).previous = d.previous := rfl
@[simp] theorem setDom_tick (d : Dev) (k : Nat) (x : Dom) : (setDom d k x).tick = d.tick := rfl
@[simp] theorem setDom_cycle (d : Dev) (k : Nat) (x : Dom) : (setDom d k x).cycle = d.cycle := rfl
@[simp] theorem setDom_freeIx (d : Dev) (k : Nat) (x : Dom) : (setDom d k x).freeIx = d.freeIx := rfl
@[simp] theorem setDom_out (d : Dev) (k : Nat) (x : Dom) : (setDom d k x).out = d.out := rfl
@[simp] theorem setDom_evs (d : Dev) (k : Nat) (x : Dom) : (setDom d k x).evs = d.evs := rfl
@[simp] theorem setDom_host (d : Dev) (k : Nat) (x : Dom) : (setDom d k x).host = d.host := rfl
@[simp] theorem setDom_side (d : Dev) (k : Nat) (x : Dom) : (setDom d k x).side = d.side := rfl
@[simp] theorem setDom_sec (d : Dev) (k : Nat) (x : Dom) : (setDom d k x).sec = d.sec := rfl
@[simp] theorem setDom_pwr (d : Dev) (k : Nat) (x : Dom) : (setDom d k x).pwr = d.pwr := rfl
@[simp] theorem setDom_therm (d : Dev) (k : Nat) (x : Dom) : (setDom d k x).therm = d.therm := rfl
@[simp] theorem setDom_wb (d : Dev) (k : Nat) (x : Dom) : (setDom d k x).wb = d.wb := rfl
@[simp] theorem setDom_plan (d : Dev) (k : Nat) (x : Dom) : (setDom d k x).plan = d.plan := rfl
@[simp] theorem setDom_net (d : Dev) (k : Nat) (x : Dom) : (setDom d k x).net = d.net := rfl
@[simp] theorem setDom_mkt (d : Dev) (k : Nat) (x : Dom) : (setDom d k x).mkt = d.mkt := rfl
@[simp] theorem setDom_stock (d : Dev) (k : Nat) (x : Dom) : (setDom d k x).stock = d.stock := rfl
@[simp] theorem setDom_dram (d : Dev) (k : Nat) (x : Dom) : (setDom d k x).dram = d.dram := rfl
@[simp] theorem setDom_eth (d : Dev) (k : Nat) (x : Dom) : (setDom d k x).eth = d.eth := rfl
@[simp] theorem setDom_srv (d : Dev) (k : Nat) (x : Dom) : (setDom d k x).srv = d.srv := rfl
@[simp] theorem setDom_epochs (d : Dev) (k : Nat) (x : Dom) : (setDom d k x).epochs = d.epochs := rfl
@[simp] theorem setDom_faults (d : Dev) (k : Nat) (x : Dom) : (setDom d k x).faults = d.faults := rfl
@[simp] theorem getDom_setDom_same (d : Dev) (k : Nat) (x : Dom) : getDom (setDom d k x) k = x := mget_mset_same _ k _ x
@[simp] theorem getDom_setDom_ne (d : Dev) (k : Nat) (x : Dom) {j : Nat} (h : j ≠ k) : getDom (setDom d k x) j = getDom d j := mget_mset_ne _ _ x h

/-! setArr -/

@[simp] theorem setArr_state (d : Dev) (k : Nat) (x : Arr) : (setArr d k x).state = d.state := rfl
@[simp] theorem setArr_previous (d : Dev) (k : Nat) (x : Arr) : (setArr d k x).previous = d.previous := rfl
@[simp] theorem setArr_tick (d : Dev) (k : Nat) (x : Arr) : (setArr d k x).tick = d.tick := rfl
@[simp] theorem setArr_cycle (d : Dev) (k : Nat) (x : Arr) : (setArr d k x).cycle = d.cycle := rfl
@[simp] theorem setArr_freeIx (d : Dev) (k : Nat) (x : Arr) : (setArr d k x).freeIx = d.freeIx := rfl
@[simp] theorem setArr_out (d : Dev) (k : Nat) (x : Arr) : (setArr d k x).out = d.out := rfl
@[simp] theorem setArr_evs (d : Dev) (k : Nat) (x : Arr) : (setArr d k x).evs = d.evs := rfl
@[simp] theorem setArr_host (d : Dev) (k : Nat) (x : Arr) : (setArr d k x).host = d.host := rfl
@[simp] theorem setArr_side (d : Dev) (k : Nat) (x : Arr) : (setArr d k x).side = d.side := rfl
@[simp] theorem setArr_sec (d : Dev) (k : Nat) (x : Arr) : (setArr d k x).sec = d.sec := rfl
@[simp] theorem setArr_pwr (d : Dev) (k : Nat) (x : Arr) : (setArr d k x).pwr = d.pwr := rfl
@[simp] theorem setArr_therm (d : Dev) (k : Nat) (x : Arr) : (setArr d k x).therm = d.therm := rfl
@[simp] theorem setArr_wb (d : Dev) (k : Nat) (x : Arr) : (setArr d k x).wb = d.wb := rfl
@[simp] theorem setArr_plan (d : Dev) (k : Nat) (x : Arr) : (setArr d k x).plan = d.plan := rfl
@[simp] theorem setArr_doms (d : Dev) (k : Nat) (x : Arr) : (setArr d k x).doms = d.doms := rfl
@[simp] theorem setArr_net (d : Dev) (k : Nat) (x : Arr) : (setArr d k x).net = d.net := rfl
@[simp] theorem setArr_stock (d : Dev) (k : Nat) (x : Arr) : (setArr d k x).stock = d.stock := rfl
@[simp] theorem setArr_dram (d : Dev) (k : Nat) (x : Arr) : (setArr d k x).dram = d.dram := rfl
@[simp] theorem setArr_eth (d : Dev) (k : Nat) (x : Arr) : (setArr d k x).eth = d.eth := rfl
@[simp] theorem setArr_srv (d : Dev) (k : Nat) (x : Arr) : (setArr d k x).srv = d.srv := rfl
@[simp] theorem setArr_epochs (d : Dev) (k : Nat) (x : Arr) : (setArr d k x).epochs = d.epochs := rfl
@[simp] theorem setArr_faults (d : Dev) (k : Nat) (x : Arr) : (setArr d k x).faults = d.faults := rfl
@[simp] theorem getArr_setArr_same (d : Dev) (k : Nat) (x : Arr) : getArr (setArr d k x) k = x := mget_mset_same _ k _ x
@[simp] theorem getArr_setArr_ne (d : Dev) (k : Nat) (x : Arr) {j : Nat} (h : j ≠ k) : getArr (setArr d k x) j = getArr d j := mget_mset_ne _ _ x h

/-! setStall -/

@[simp] theorem setStall_state (d : Dev) (k : Nat) (x : Stall) : (setStall d k x).state = d.state := rfl
@[simp] theorem setStall_previous (d : Dev) (k : Nat) (x : Stall) : (setStall d k x).previous = d.previous := rfl
@[simp] theorem setStall_tick (d : Dev) (k : Nat) (x : Stall) : (setStall d k x).tick = d.tick := rfl
@[simp] theorem setStall_cycle (d : Dev) (k : Nat) (x : Stall) : (setStall d k x).cycle = d.cycle := rfl
@[simp] theorem setStall_freeIx (d : Dev) (k : Nat) (x : Stall) : (setStall d k x).freeIx = d.freeIx := rfl
@[simp] theorem setStall_out (d : Dev) (k : Nat) (x : Stall) : (setStall d k x).out = d.out := rfl
@[simp] theorem setStall_evs (d : Dev) (k : Nat) (x : Stall) : (setStall d k x).evs = d.evs := rfl
@[simp] theorem setStall_host (d : Dev) (k : Nat) (x : Stall) : (setStall d k x).host = d.host := rfl
@[simp] theorem setStall_side (d : Dev) (k : Nat) (x : Stall) : (setStall d k x).side = d.side := rfl
@[simp] theorem setStall_sec (d : Dev) (k : Nat) (x : Stall) : (setStall d k x).sec = d.sec := rfl
@[simp] theorem setStall_pwr (d : Dev) (k : Nat) (x : Stall) : (setStall d k x).pwr = d.pwr := rfl
@[simp] theorem setStall_therm (d : Dev) (k : Nat) (x : Stall) : (setStall d k x).therm = d.therm := rfl
@[simp] theorem setStall_wb (d : Dev) (k : Nat) (x : Stall) : (setStall d k x).wb = d.wb := rfl
@[simp] theorem setStall_plan (d : Dev) (k : Nat) (x : Stall) : (setStall d k x).plan = d.plan := rfl
@[simp] theorem setStall_doms (d : Dev) (k : Nat) (x : Stall) : (setStall d k x).doms = d.doms := rfl
@[simp] theorem setStall_net (d : Dev) (k : Nat) (x : Stall) : (setStall d k x).net = d.net := rfl
@[simp] theorem setStall_stock (d : Dev) (k : Nat) (x : Stall) : (setStall d k x).stock = d.stock := rfl
@[simp] theorem setStall_dram (d : Dev) (k : Nat) (x : Stall) : (setStall d k x).dram = d.dram := rfl
@[simp] theorem setStall_eth (d : Dev) (k : Nat) (x : Stall) : (setStall d k x).eth = d.eth := rfl
@[simp] theorem setStall_srv (d : Dev) (k : Nat) (x : Stall) : (setStall d k x).srv = d.srv := rfl
@[simp] theorem setStall_epochs (d : Dev) (k : Nat) (x : Stall) : (setStall d k x).epochs = d.epochs := rfl
@[simp] theorem setStall_faults (d : Dev) (k : Nat) (x : Stall) : (setStall d k x).faults = d.faults := rfl
@[simp] theorem getStall_setStall_same (d : Dev) (k : Nat) (x : Stall) : getStall (setStall d k x) k = x := mget_mset_same _ k _ x
@[simp] theorem getStall_setStall_ne (d : Dev) (k : Nat) (x : Stall) {j : Nat} (h : j ≠ k) : getStall (setStall d k x) j = getStall d j := mget_mset_ne _ _ x h

/-! setPart -/

@[simp] theorem setPart_state (d : Dev) (k : Nat) (x : Part) : (setPart d k x).state = d.state := rfl
@[simp] theorem setPart_previous (d : Dev) (k : Nat) (x : Part) : (setPart d k x).previous = d.previous := rfl
@[simp] theorem setPart_tick (d : Dev) (k : Nat) (x : Part) : (setPart d k x).tick = d.tick := rfl
@[simp] theorem setPart_cycle (d : Dev) (k : Nat) (x : Part) : (setPart d k x).cycle = d.cycle := rfl
@[simp] theorem setPart_freeIx (d : Dev) (k : Nat) (x : Part) : (setPart d k x).freeIx = d.freeIx := rfl
@[simp] theorem setPart_out (d : Dev) (k : Nat) (x : Part) : (setPart d k x).out = d.out := rfl
@[simp] theorem setPart_evs (d : Dev) (k : Nat) (x : Part) : (setPart d k x).evs = d.evs := rfl
@[simp] theorem setPart_host (d : Dev) (k : Nat) (x : Part) : (setPart d k x).host = d.host := rfl
@[simp] theorem setPart_side (d : Dev) (k : Nat) (x : Part) : (setPart d k x).side = d.side := rfl
@[simp] theorem setPart_sec (d : Dev) (k : Nat) (x : Part) : (setPart d k x).sec = d.sec := rfl
@[simp] theorem setPart_pwr (d : Dev) (k : Nat) (x : Part) : (setPart d k x).pwr = d.pwr := rfl
@[simp] theorem setPart_therm (d : Dev) (k : Nat) (x : Part) : (setPart d k x).therm = d.therm := rfl
@[simp] theorem setPart_wb (d : Dev) (k : Nat) (x : Part) : (setPart d k x).wb = d.wb := rfl
@[simp] theorem setPart_plan (d : Dev) (k : Nat) (x : Part) : (setPart d k x).plan = d.plan := rfl
@[simp] theorem setPart_doms (d : Dev) (k : Nat) (x : Part) : (setPart d k x).doms = d.doms := rfl
@[simp] theorem setPart_net (d : Dev) (k : Nat) (x : Part) : (setPart d k x).net = d.net := rfl
@[simp] theorem setPart_mkt (d : Dev) (k : Nat) (x : Part) : (setPart d k x).mkt = d.mkt := rfl
@[simp] theorem setPart_dram (d : Dev) (k : Nat) (x : Part) : (setPart d k x).dram = d.dram := rfl
@[simp] theorem setPart_eth (d : Dev) (k : Nat) (x : Part) : (setPart d k x).eth = d.eth := rfl
@[simp] theorem setPart_srv (d : Dev) (k : Nat) (x : Part) : (setPart d k x).srv = d.srv := rfl
@[simp] theorem setPart_epochs (d : Dev) (k : Nat) (x : Part) : (setPart d k x).epochs = d.epochs := rfl
@[simp] theorem setPart_faults (d : Dev) (k : Nat) (x : Part) : (setPart d k x).faults = d.faults := rfl
@[simp] theorem getPart_setPart_same (d : Dev) (k : Nat) (x : Part) : getPart (setPart d k x) k = x := mget_mset_same _ k _ x
@[simp] theorem getPart_setPart_ne (d : Dev) (k : Nat) (x : Part) {j : Nat} (h : j ≠ k) : getPart (setPart d k x) j = getPart d j := mget_mset_ne _ _ x h

/-! setTicket -/

@[simp] theorem setTicket_state (d : Dev) (k : Nat) (x : Ticket) : (setTicket d k x).state = d.state := rfl
@[simp] theorem setTicket_previous (d : Dev) (k : Nat) (x : Ticket) : (setTicket d k x).previous = d.previous := rfl
@[simp] theorem setTicket_tick (d : Dev) (k : Nat) (x : Ticket) : (setTicket d k x).tick = d.tick := rfl
@[simp] theorem setTicket_cycle (d : Dev) (k : Nat) (x : Ticket) : (setTicket d k x).cycle = d.cycle := rfl
@[simp] theorem setTicket_freeIx (d : Dev) (k : Nat) (x : Ticket) : (setTicket d k x).freeIx = d.freeIx := rfl
@[simp] theorem setTicket_out (d : Dev) (k : Nat) (x : Ticket) : (setTicket d k x).out = d.out := rfl
@[simp] theorem setTicket_evs (d : Dev) (k : Nat) (x : Ticket) : (setTicket d k x).evs = d.evs := rfl
@[simp] theorem setTicket_host (d : Dev) (k : Nat) (x : Ticket) : (setTicket d k x).host = d.host := rfl
@[simp] theorem setTicket_side (d : Dev) (k : Nat) (x : Ticket) : (setTicket d k x).side = d.side := rfl
@[simp] theorem setTicket_sec (d : Dev) (k : Nat) (x : Ticket) : (setTicket d k x).sec = d.sec := rfl
@[simp] theorem setTicket_pwr (d : Dev) (k : Nat) (x : Ticket) : (setTicket d k x).pwr = d.pwr := rfl
@[simp] theorem setTicket_therm (d : Dev) (k : Nat) (x : Ticket) : (setTicket d k x).therm = d.therm := rfl
@[simp] theorem setTicket_wb (d : Dev) (k : Nat) (x : Ticket) : (setTicket d k x).wb = d.wb := rfl
@[simp] theorem setTicket_plan (d : Dev) (k : Nat) (x : Ticket) : (setTicket d k x).plan = d.plan := rfl
@[simp] theorem setTicket_doms (d : Dev) (k : Nat) (x : Ticket) : (setTicket d k x).doms = d.doms := rfl
@[simp] theorem setTicket_net (d : Dev) (k : Nat) (x : Ticket) : (setTicket d k x).net = d.net := rfl
@[simp] theorem setTicket_mkt (d : Dev) (k : Nat) (x : Ticket) : (setTicket d k x).mkt = d.mkt := rfl
@[simp] theorem setTicket_stock (d : Dev) (k : Nat) (x : Ticket) : (setTicket d k x).stock = d.stock := rfl
@[simp] theorem setTicket_dram (d : Dev) (k : Nat) (x : Ticket) : (setTicket d k x).dram = d.dram := rfl
@[simp] theorem setTicket_eth (d : Dev) (k : Nat) (x : Ticket) : (setTicket d k x).eth = d.eth := rfl
@[simp] theorem setTicket_epochs (d : Dev) (k : Nat) (x : Ticket) : (setTicket d k x).epochs = d.epochs := rfl
@[simp] theorem setTicket_faults (d : Dev) (k : Nat) (x : Ticket) : (setTicket d k x).faults = d.faults := rfl
@[simp] theorem getTicket_setTicket_same (d : Dev) (k : Nat) (x : Ticket) : getTicket (setTicket d k x) k = x := mget_mset_same _ k _ x
@[simp] theorem getTicket_setTicket_ne (d : Dev) (k : Nat) (x : Ticket) {j : Nat} (h : j ≠ k) : getTicket (setTicket d k x) j = getTicket d j := mget_mset_ne _ _ x h

/-! setFlow -/

@[simp] theorem setFlow_state (d : Dev) (k : Nat) (x : Flow) : (setFlow d k x).state = d.state := rfl
@[simp] theorem setFlow_previous (d : Dev) (k : Nat) (x : Flow) : (setFlow d k x).previous = d.previous := rfl
@[simp] theorem setFlow_tick (d : Dev) (k : Nat) (x : Flow) : (setFlow d k x).tick = d.tick := rfl
@[simp] theorem setFlow_cycle (d : Dev) (k : Nat) (x : Flow) : (setFlow d k x).cycle = d.cycle := rfl
@[simp] theorem setFlow_freeIx (d : Dev) (k : Nat) (x : Flow) : (setFlow d k x).freeIx = d.freeIx := rfl
@[simp] theorem setFlow_out (d : Dev) (k : Nat) (x : Flow) : (setFlow d k x).out = d.out := rfl
@[simp] theorem setFlow_evs (d : Dev) (k : Nat) (x : Flow) : (setFlow d k x).evs = d.evs := rfl
@[simp] theorem setFlow_host (d : Dev) (k : Nat) (x : Flow) : (setFlow d k x).host = d.host := rfl
@[simp] theorem setFlow_side (d : Dev) (k : Nat) (x : Flow) : (setFlow d k x).side = d.side := rfl
@[simp] theorem setFlow_sec (d : Dev) (k : Nat) (x : Flow) : (setFlow d k x).sec = d.sec := rfl
@[simp] theorem setFlow_pwr (d : Dev) (k : Nat) (x : Flow) : (setFlow d k x).pwr = d.pwr := rfl
@[simp] theorem setFlow_therm (d : Dev) (k : Nat) (x : Flow) : (setFlow d k x).therm = d.therm := rfl
@[simp] theorem setFlow_wb (d : Dev) (k : Nat) (x : Flow) : (setFlow d k x).wb = d.wb := rfl
@[simp] theorem setFlow_plan (d : Dev) (k : Nat) (x : Flow) : (setFlow d k x).plan = d.plan := rfl
@[simp] theorem setFlow_doms (d : Dev) (k : Nat) (x : Flow) : (setFlow d k x).doms = d.doms := rfl
@[simp] theorem setFlow_net (d : Dev) (k : Nat) (x : Flow) : (setFlow d k x).net = d.net := rfl
@[simp] theorem setFlow_mkt (d : Dev) (k : Nat) (x : Flow) : (setFlow d k x).mkt = d.mkt := rfl
@[simp] theorem setFlow_stock (d : Dev) (k : Nat) (x : Flow) : (setFlow d k x).stock = d.stock := rfl
@[simp] theorem setFlow_dram (d : Dev) (k : Nat) (x : Flow) : (setFlow d k x).dram = d.dram := rfl
@[simp] theorem setFlow_srv (d : Dev) (k : Nat) (x : Flow) : (setFlow d k x).srv = d.srv := rfl
@[simp] theorem setFlow_epochs (d : Dev) (k : Nat) (x : Flow) : (setFlow d k x).epochs = d.epochs := rfl
@[simp] theorem setFlow_faults (d : Dev) (k : Nat) (x : Flow) : (setFlow d k x).faults = d.faults := rfl
@[simp] theorem getFlow_setFlow_same (d : Dev) (k : Nat) (x : Flow) : getFlow (setFlow d k x) k = x := mget_mset_same _ k _ x
@[simp] theorem getFlow_setFlow_ne (d : Dev) (k : Nat) (x : Flow) {j : Nat} (h : j ≠ k) : getFlow (setFlow d k x) j = getFlow d j := mget_mset_ne _ _ x h

/-! setRing -/

@[simp] theorem setRing_state (d : Dev) (k : Nat) (x : Ring) : (setRing d k x).state = d.state := rfl
@[simp] theorem setRing_previous (d : Dev) (k : Nat) (x : Ring) : (setRing d k x).previous = d.previous := rfl
@[simp] theorem setRing_tick (d : Dev) (k : Nat) (x : Ring) : (setRing d k x).tick = d.tick := rfl
@[simp] theorem setRing_cycle (d : Dev) (k : Nat) (x : Ring) : (setRing d k x).cycle = d.cycle := rfl
@[simp] theorem setRing_freeIx (d : Dev) (k : Nat) (x : Ring) : (setRing d k x).freeIx = d.freeIx := rfl
@[simp] theorem setRing_out (d : Dev) (k : Nat) (x : Ring) : (setRing d k x).out = d.out := rfl
@[simp] theorem setRing_evs (d : Dev) (k : Nat) (x : Ring) : (setRing d k x).evs = d.evs := rfl
@[simp] theorem setRing_side (d : Dev) (k : Nat) (x : Ring) : (setRing d k x).side = d.side := rfl
@[simp] theorem setRing_sec (d : Dev) (k : Nat) (x : Ring) : (setRing d k x).sec = d.sec := rfl
@[simp] theorem setRing_pwr (d : Dev) (k : Nat) (x : Ring) : (setRing d k x).pwr = d.pwr := rfl
@[simp] theorem setRing_therm (d : Dev) (k : Nat) (x : Ring) : (setRing d k x).therm = d.therm := rfl
@[simp] theorem setRing_wb (d : Dev) (k : Nat) (x : Ring) : (setRing d k x).wb = d.wb := rfl
@[simp] theorem setRing_plan (d : Dev) (k : Nat) (x : Ring) : (setRing d k x).plan = d.plan := rfl
@[simp] theorem setRing_doms (d : Dev) (k : Nat) (x : Ring) : (setRing d k x).doms = d.doms := rfl
@[simp] theorem setRing_net (d : Dev) (k : Nat) (x : Ring) : (setRing d k x).net = d.net := rfl
@[simp] theorem setRing_mkt (d : Dev) (k : Nat) (x : Ring) : (setRing d k x).mkt = d.mkt := rfl
@[simp] theorem setRing_stock (d : Dev) (k : Nat) (x : Ring) : (setRing d k x).stock = d.stock := rfl
@[simp] theorem setRing_dram (d : Dev) (k : Nat) (x : Ring) : (setRing d k x).dram = d.dram := rfl
@[simp] theorem setRing_eth (d : Dev) (k : Nat) (x : Ring) : (setRing d k x).eth = d.eth := rfl
@[simp] theorem setRing_srv (d : Dev) (k : Nat) (x : Ring) : (setRing d k x).srv = d.srv := rfl
@[simp] theorem setRing_epochs (d : Dev) (k : Nat) (x : Ring) : (setRing d k x).epochs = d.epochs := rfl
@[simp] theorem setRing_faults (d : Dev) (k : Nat) (x : Ring) : (setRing d k x).faults = d.faults := rfl
@[simp] theorem getRing_setRing_same (d : Dev) (k : Nat) (x : Ring) : getRing (setRing d k x) k = x := mget_mset_same _ k _ x
@[simp] theorem getRing_setRing_ne (d : Dev) (k : Nat) (x : Ring) {j : Nat} (h : j ≠ k) : getRing (setRing d k x) j = getRing d j := mget_mset_ne _ _ x h

/-! setSub, setChan: two-part keys -/

@[simp] theorem setSub_state (d : Dev) (p c : Nat) (x : SubPort) : (setSub d p c x).state = d.state := rfl
@[simp] theorem setSub_previous (d : Dev) (p c : Nat) (x : SubPort) : (setSub d p c x).previous = d.previous := rfl
@[simp] theorem setSub_tick (d : Dev) (p c : Nat) (x : SubPort) : (setSub d p c x).tick = d.tick := rfl
@[simp] theorem setSub_cycle (d : Dev) (p c : Nat) (x : SubPort) : (setSub d p c x).cycle = d.cycle := rfl
@[simp] theorem setSub_freeIx (d : Dev) (p c : Nat) (x : SubPort) : (setSub d p c x).freeIx = d.freeIx := rfl
@[simp] theorem setSub_out (d : Dev) (p c : Nat) (x : SubPort) : (setSub d p c x).out = d.out := rfl
@[simp] theorem setSub_evs (d : Dev) (p c : Nat) (x : SubPort) : (setSub d p c x).evs = d.evs := rfl
@[simp] theorem setSub_host (d : Dev) (p c : Nat) (x : SubPort) : (setSub d p c x).host = d.host := rfl
@[simp] theorem setSub_side (d : Dev) (p c : Nat) (x : SubPort) : (setSub d p c x).side = d.side := rfl
@[simp] theorem setSub_sec (d : Dev) (p c : Nat) (x : SubPort) : (setSub d p c x).sec = d.sec := rfl
@[simp] theorem setSub_pwr (d : Dev) (p c : Nat) (x : SubPort) : (setSub d p c x).pwr = d.pwr := rfl
@[simp] theorem setSub_therm (d : Dev) (p c : Nat) (x : SubPort) : (setSub d p c x).therm = d.therm := rfl
@[simp] theorem setSub_wb (d : Dev) (p c : Nat) (x : SubPort) : (setSub d p c x).wb = d.wb := rfl
@[simp] theorem setSub_plan (d : Dev) (p c : Nat) (x : SubPort) : (setSub d p c x).plan = d.plan := rfl
@[simp] theorem setSub_doms (d : Dev) (p c : Nat) (x : SubPort) : (setSub d p c x).doms = d.doms := rfl
@[simp] theorem setSub_net (d : Dev) (p c : Nat) (x : SubPort) : (setSub d p c x).net = d.net := rfl
@[simp] theorem setSub_mkt (d : Dev) (p c : Nat) (x : SubPort) : (setSub d p c x).mkt = d.mkt := rfl
@[simp] theorem setSub_stock (d : Dev) (p c : Nat) (x : SubPort) : (setSub d p c x).stock = d.stock := rfl
@[simp] theorem setSub_dram (d : Dev) (p c : Nat) (x : SubPort) : (setSub d p c x).dram = d.dram := rfl
@[simp] theorem setSub_srv (d : Dev) (p c : Nat) (x : SubPort) : (setSub d p c x).srv = d.srv := rfl
@[simp] theorem setSub_epochs (d : Dev) (p c : Nat) (x : SubPort) : (setSub d p c x).epochs = d.epochs := rfl
@[simp] theorem setSub_faults (d : Dev) (p c : Nat) (x : SubPort) : (setSub d p c x).faults = d.faults := rfl
@[simp] theorem setChan_state (d : Dev) (p c : Nat) (x : Chan) : (setChan d p c x).state = d.state := rfl
@[simp] theorem setChan_previous (d : Dev) (p c : Nat) (x : Chan) : (setChan d p c x).previous = d.previous := rfl
@[simp] theorem setChan_tick (d : Dev) (p c : Nat) (x : Chan) : (setChan d p c x).tick = d.tick := rfl
@[simp] theorem setChan_cycle (d : Dev) (p c : Nat) (x : Chan) : (setChan d p c x).cycle = d.cycle := rfl
@[simp] theorem setChan_freeIx (d : Dev) (p c : Nat) (x : Chan) : (setChan d p c x).freeIx = d.freeIx := rfl
@[simp] theorem setChan_out (d : Dev) (p c : Nat) (x : Chan) : (setChan d p c x).out = d.out := rfl
@[simp] theorem setChan_evs (d : Dev) (p c : Nat) (x : Chan) : (setChan d p c x).evs = d.evs := rfl
@[simp] theorem setChan_host (d : Dev) (p c : Nat) (x : Chan) : (setChan d p c x).host = d.host := rfl
@[simp] theorem setChan_side (d : Dev) (p c : Nat) (x : Chan) : (setChan d p c x).side = d.side := rfl
@[simp] theorem setChan_sec (d : Dev) (p c : Nat) (x : Chan) : (setChan d p c x).sec = d.sec := rfl
@[simp] theorem setChan_pwr (d : Dev) (p c : Nat) (x : Chan) : (setChan d p c x).pwr = d.pwr := rfl
@[simp] theorem setChan_therm (d : Dev) (p c : Nat) (x : Chan) : (setChan d p c x).therm = d.therm := rfl
@[simp] theorem setChan_wb (d : Dev) (p c : Nat) (x : Chan) : (setChan d p c x).wb = d.wb := rfl
@[simp] theorem setChan_plan (d : Dev) (p c : Nat) (x : Chan) : (setChan d p c x).plan = d.plan := rfl
@[simp] theorem setChan_doms (d : Dev) (p c : Nat) (x : Chan) : (setChan d p c x).doms = d.doms := rfl
@[simp] theorem setChan_net (d : Dev) (p c : Nat) (x : Chan) : (setChan d p c x).net = d.net := rfl
@[simp] theorem setChan_mkt (d : Dev) (p c : Nat) (x : Chan) : (setChan d p c x).mkt = d.mkt := rfl
@[simp] theorem setChan_stock (d : Dev) (p c : Nat) (x : Chan) : (setChan d p c x).stock = d.stock := rfl
@[simp] theorem setChan_eth (d : Dev) (p c : Nat) (x : Chan) : (setChan d p c x).eth = d.eth := rfl
@[simp] theorem setChan_srv (d : Dev) (p c : Nat) (x : Chan) : (setChan d p c x).srv = d.srv := rfl
@[simp] theorem setChan_epochs (d : Dev) (p c : Nat) (x : Chan) : (setChan d p c x).epochs = d.epochs := rfl
@[simp] theorem setChan_faults (d : Dev) (p c : Nat) (x : Chan) : (setChan d p c x).faults = d.faults := rfl
@[simp] theorem getSub_setSub_same (d : Dev) (p c : Nat) (x : SubPort) : getSub (setSub d p c x) p c = x := mget_mset_same _ _ _ x
@[simp] theorem getChan_setChan_same (d : Dev) (p c : Nat) (x : Chan) : getChan (setChan d p c x) p c = x := mget_mset_same _ _ _ x

/-! setLine: a line past the store is nowhere (R103) -/

@[simp] theorem setLine_state (d : Dev) (i l : Nat) (v : Line) : (setLine d i l v).state = d.state := by unfold setLine; split <;> rfl
@[simp] theorem setLine_previous (d : Dev) (i l : Nat) (v : Line) : (setLine d i l v).previous = d.previous := by unfold setLine; split <;> rfl
@[simp] theorem setLine_tick (d : Dev) (i l : Nat) (v : Line) : (setLine d i l v).tick = d.tick := by unfold setLine; split <;> rfl
@[simp] theorem setLine_cycle (d : Dev) (i l : Nat) (v : Line) : (setLine d i l v).cycle = d.cycle := by unfold setLine; split <;> rfl
@[simp] theorem setLine_freeIx (d : Dev) (i l : Nat) (v : Line) : (setLine d i l v).freeIx = d.freeIx := by unfold setLine; split <;> rfl
@[simp] theorem setLine_out (d : Dev) (i l : Nat) (v : Line) : (setLine d i l v).out = d.out := by unfold setLine; split <;> rfl
@[simp] theorem setLine_evs (d : Dev) (i l : Nat) (v : Line) : (setLine d i l v).evs = d.evs := by unfold setLine; split <;> rfl
@[simp] theorem setLine_host (d : Dev) (i l : Nat) (v : Line) : (setLine d i l v).host = d.host := by unfold setLine; split <;> rfl
@[simp] theorem setLine_side (d : Dev) (i l : Nat) (v : Line) : (setLine d i l v).side = d.side := by unfold setLine; split <;> rfl
@[simp] theorem setLine_sec (d : Dev) (i l : Nat) (v : Line) : (setLine d i l v).sec = d.sec := by unfold setLine; split <;> rfl
@[simp] theorem setLine_pwr (d : Dev) (i l : Nat) (v : Line) : (setLine d i l v).pwr = d.pwr := by unfold setLine; split <;> rfl
@[simp] theorem setLine_therm (d : Dev) (i l : Nat) (v : Line) : (setLine d i l v).therm = d.therm := by unfold setLine; split <;> rfl
@[simp] theorem setLine_wb (d : Dev) (i l : Nat) (v : Line) : (setLine d i l v).wb = d.wb := by unfold setLine; split <;> rfl
@[simp] theorem setLine_plan (d : Dev) (i l : Nat) (v : Line) : (setLine d i l v).plan = d.plan := by unfold setLine; split <;> rfl
@[simp] theorem setLine_doms (d : Dev) (i l : Nat) (v : Line) : (setLine d i l v).doms = d.doms := by unfold setLine; split <;> rfl
@[simp] theorem setLine_net (d : Dev) (i l : Nat) (v : Line) : (setLine d i l v).net = d.net := by unfold setLine; split <;> rfl
@[simp] theorem setLine_stock (d : Dev) (i l : Nat) (v : Line) : (setLine d i l v).stock = d.stock := by unfold setLine; split <;> rfl
@[simp] theorem setLine_dram (d : Dev) (i l : Nat) (v : Line) : (setLine d i l v).dram = d.dram := by unfold setLine; split <;> rfl
@[simp] theorem setLine_eth (d : Dev) (i l : Nat) (v : Line) : (setLine d i l v).eth = d.eth := by unfold setLine; split <;> rfl
@[simp] theorem setLine_srv (d : Dev) (i l : Nat) (v : Line) : (setLine d i l v).srv = d.srv := by unfold setLine; split <;> rfl
@[simp] theorem setLine_epochs (d : Dev) (i l : Nat) (v : Line) : (setLine d i l v).epochs = d.epochs := by unfold setLine; split <;> rfl
@[simp] theorem setLine_faults (d : Dev) (i l : Nat) (v : Line) : (setLine d i l v).faults = d.faults := by unfold setLine; split <;> rfl
@[simp] theorem getStall_setLine (d : Dev) (i l k : Nat) (v : Line) : getStall (setLine d i l v) k = getStall d k := by unfold setLine; split <;> rfl
@[simp] theorem getArr_setLine (d : Dev) (i l k : Nat) (v : Line) : getArr (setLine d i l v) k = getArr d k := by unfold setLine; split <;> rfl
@[simp] theorem getLine_setLine_same (d : Dev) (i l : Nat) (v : Line) (h : l < 6144) : getLine (setLine d i l v) i l = v := by
  unfold getLine setLine; rw [if_pos h, if_pos h]; exact mget_mset_same _ _ _ v
@[simp] theorem getLine_setLine_ne (d : Dev) (i j l k : Nat) (v : Line) (h : j ≠ i ∨ k ≠ l) : getLine (setLine d i l v) j k = getLine d j k := by
  unfold getLine setLine
  by_cases hk : k < 6144
  · by_cases hl : l < 6144
    · rw [if_pos hk, if_pos hl, if_pos hk]; exact mget_mset_ne _ _ _ (by omega)
    · rw [if_pos hk, if_neg hl, if_pos hk]
  · rw [if_neg hk, if_neg hk]


/-! Outputs, events, interrupts -/

@[simp] theorem emit_state (o : Out) (d : Dev) : (emit o d).state = d.state := rfl
@[simp] theorem emit_previous (o : Out) (d : Dev) : (emit o d).previous = d.previous := rfl
@[simp] theorem emit_tick (o : Out) (d : Dev) : (emit o d).tick = d.tick := rfl
@[simp] theorem emit_cycle (o : Out) (d : Dev) : (emit o d).cycle = d.cycle := rfl
@[simp] theorem emit_freeIx (o : Out) (d : Dev) : (emit o d).freeIx = d.freeIx := rfl
@[simp] theorem emit_evs (o : Out) (d : Dev) : (emit o d).evs = d.evs := rfl
@[simp] theorem emit_host (o : Out) (d : Dev) : (emit o d).host = d.host := rfl
@[simp] theorem emit_side (o : Out) (d : Dev) : (emit o d).side = d.side := rfl
@[simp] theorem emit_sec (o : Out) (d : Dev) : (emit o d).sec = d.sec := rfl
@[simp] theorem emit_pwr (o : Out) (d : Dev) : (emit o d).pwr = d.pwr := rfl
@[simp] theorem emit_therm (o : Out) (d : Dev) : (emit o d).therm = d.therm := rfl
@[simp] theorem emit_wb (o : Out) (d : Dev) : (emit o d).wb = d.wb := rfl
@[simp] theorem emit_plan (o : Out) (d : Dev) : (emit o d).plan = d.plan := rfl
@[simp] theorem emit_doms (o : Out) (d : Dev) : (emit o d).doms = d.doms := rfl
@[simp] theorem emit_net (o : Out) (d : Dev) : (emit o d).net = d.net := rfl
@[simp] theorem emit_mkt (o : Out) (d : Dev) : (emit o d).mkt = d.mkt := rfl
@[simp] theorem emit_stock (o : Out) (d : Dev) : (emit o d).stock = d.stock := rfl
@[simp] theorem emit_dram (o : Out) (d : Dev) : (emit o d).dram = d.dram := rfl
@[simp] theorem emit_eth (o : Out) (d : Dev) : (emit o d).eth = d.eth := rfl
@[simp] theorem emit_srv (o : Out) (d : Dev) : (emit o d).srv = d.srv := rfl
@[simp] theorem emit_epochs (o : Out) (d : Dev) : (emit o d).epochs = d.epochs := rfl
@[simp] theorem emit_faults (o : Out) (d : Dev) : (emit o d).faults = d.faults := rfl
@[simp] theorem setEv_state (d : Dev) (e : EvId) (r : EvReg) : (setEv d e r).state = d.state := rfl
@[simp] theorem setEv_previous (d : Dev) (e : EvId) (r : EvReg) : (setEv d e r).previous = d.previous := rfl
@[simp] theorem setEv_tick (d : Dev) (e : EvId) (r : EvReg) : (setEv d e r).tick = d.tick := rfl
@[simp] theorem setEv_cycle (d : Dev) (e : EvId) (r : EvReg) : (setEv d e r).cycle = d.cycle := rfl
@[simp] theorem setEv_freeIx (d : Dev) (e : EvId) (r : EvReg) : (setEv d e r).freeIx = d.freeIx := rfl
@[simp] theorem setEv_out (d : Dev) (e : EvId) (r : EvReg) : (setEv d e r).out = d.out := rfl
@[simp] theorem setEv_host (d : Dev) (e : EvId) (r : EvReg) : (setEv d e r).host = d.host := rfl
@[simp] theorem setEv_side (d : Dev) (e : EvId) (r : EvReg) : (setEv d e r).side = d.side := rfl
@[simp] theorem setEv_sec (d : Dev) (e : EvId) (r : EvReg) : (setEv d e r).sec = d.sec := rfl
@[simp] theorem setEv_pwr (d : Dev) (e : EvId) (r : EvReg) : (setEv d e r).pwr = d.pwr := rfl
@[simp] theorem setEv_therm (d : Dev) (e : EvId) (r : EvReg) : (setEv d e r).therm = d.therm := rfl
@[simp] theorem setEv_wb (d : Dev) (e : EvId) (r : EvReg) : (setEv d e r).wb = d.wb := rfl
@[simp] theorem setEv_plan (d : Dev) (e : EvId) (r : EvReg) : (setEv d e r).plan = d.plan := rfl
@[simp] theorem setEv_doms (d : Dev) (e : EvId) (r : EvReg) : (setEv d e r).doms = d.doms := rfl
@[simp] theorem setEv_net (d : Dev) (e : EvId) (r : EvReg) : (setEv d e r).net = d.net := rfl
@[simp] theorem setEv_mkt (d : Dev) (e : EvId) (r : EvReg) : (setEv d e r).mkt = d.mkt := rfl
@[simp] theorem setEv_stock (d : Dev) (e : EvId) (r : EvReg) : (setEv d e r).stock = d.stock := rfl
@[simp] theorem setEv_dram (d : Dev) (e : EvId) (r : EvReg) : (setEv d e r).dram = d.dram := rfl
@[simp] theorem setEv_eth (d : Dev) (e : EvId) (r : EvReg) : (setEv d e r).eth = d.eth := rfl
@[simp] theorem setEv_srv (d : Dev) (e : EvId) (r : EvReg) : (setEv d e r).srv = d.srv := rfl
@[simp] theorem setEv_epochs (d : Dev) (e : EvId) (r : EvReg) : (setEv d e r).epochs = d.epochs := rfl
@[simp] theorem setEv_faults (d : Dev) (e : EvId) (r : EvReg) : (setEv d e r).faults = d.faults := rfl
@[simp] theorem msix_state (v : Nat) (d : Dev) : (msix v d).state = d.state := by unfold msix; split <;> rfl
@[simp] theorem msix_previous (v : Nat) (d : Dev) : (msix v d).previous = d.previous := by unfold msix; split <;> rfl
@[simp] theorem msix_tick (v : Nat) (d : Dev) : (msix v d).tick = d.tick := by unfold msix; split <;> rfl
@[simp] theorem msix_cycle (v : Nat) (d : Dev) : (msix v d).cycle = d.cycle := by unfold msix; split <;> rfl
@[simp] theorem msix_freeIx (v : Nat) (d : Dev) : (msix v d).freeIx = d.freeIx := by unfold msix; split <;> rfl
@[simp] theorem msix_evs (v : Nat) (d : Dev) : (msix v d).evs = d.evs := by unfold msix; split <;> rfl
@[simp] theorem msix_side (v : Nat) (d : Dev) : (msix v d).side = d.side := by unfold msix; split <;> rfl
@[simp] theorem msix_sec (v : Nat) (d : Dev) : (msix v d).sec = d.sec := by unfold msix; split <;> rfl
@[simp] theorem msix_pwr (v : Nat) (d : Dev) : (msix v d).pwr = d.pwr := by unfold msix; split <;> rfl
@[simp] theorem msix_therm (v : Nat) (d : Dev) : (msix v d).therm = d.therm := by unfold msix; split <;> rfl
@[simp] theorem msix_wb (v : Nat) (d : Dev) : (msix v d).wb = d.wb := by unfold msix; split <;> rfl
@[simp] theorem msix_plan (v : Nat) (d : Dev) : (msix v d).plan = d.plan := by unfold msix; split <;> rfl
@[simp] theorem msix_doms (v : Nat) (d : Dev) : (msix v d).doms = d.doms := by unfold msix; split <;> rfl
@[simp] theorem msix_net (v : Nat) (d : Dev) : (msix v d).net = d.net := by unfold msix; split <;> rfl
@[simp] theorem msix_mkt (v : Nat) (d : Dev) : (msix v d).mkt = d.mkt := by unfold msix; split <;> rfl
@[simp] theorem msix_stock (v : Nat) (d : Dev) : (msix v d).stock = d.stock := by unfold msix; split <;> rfl
@[simp] theorem msix_dram (v : Nat) (d : Dev) : (msix v d).dram = d.dram := by unfold msix; split <;> rfl
@[simp] theorem msix_eth (v : Nat) (d : Dev) : (msix v d).eth = d.eth := by unfold msix; split <;> rfl
@[simp] theorem msix_srv (v : Nat) (d : Dev) : (msix v d).srv = d.srv := by unfold msix; split <;> rfl
@[simp] theorem msix_epochs (v : Nat) (d : Dev) : (msix v d).epochs = d.epochs := by unfold msix; split <;> rfl
@[simp] theorem msix_faults (v : Nat) (d : Dev) : (msix v d).faults = d.faults := by unfold msix; split <;> rfl
@[simp] theorem vec2_state (d : Dev) : (vec2 d).state = d.state := by unfold vec2; split <;> simp
@[simp] theorem vec2_previous (d : Dev) : (vec2 d).previous = d.previous := by unfold vec2; split <;> simp
@[simp] theorem vec2_tick (d : Dev) : (vec2 d).tick = d.tick := by unfold vec2; split <;> simp
@[simp] theorem vec2_cycle (d : Dev) : (vec2 d).cycle = d.cycle := by unfold vec2; split <;> simp
@[simp] theorem vec2_freeIx (d : Dev) : (vec2 d).freeIx = d.freeIx := by unfold vec2; split <;> simp
@[simp] theorem vec2_evs (d : Dev) : (vec2 d).evs = d.evs := by unfold vec2; split <;> simp
@[simp] theorem vec2_side (d : Dev) : (vec2 d).side = d.side := by unfold vec2; split <;> simp
@[simp] theorem vec2_sec (d : Dev) : (vec2 d).sec = d.sec := by unfold vec2; split <;> simp
@[simp] theorem vec2_pwr (d : Dev) : (vec2 d).pwr = d.pwr := by unfold vec2; split <;> simp
@[simp] theorem vec2_therm (d : Dev) : (vec2 d).therm = d.therm := by unfold vec2; split <;> simp
@[simp] theorem vec2_wb (d : Dev) : (vec2 d).wb = d.wb := by unfold vec2; split <;> simp
@[simp] theorem vec2_plan (d : Dev) : (vec2 d).plan = d.plan := by unfold vec2; split <;> simp
@[simp] theorem vec2_doms (d : Dev) : (vec2 d).doms = d.doms := by unfold vec2; split <;> simp
@[simp] theorem vec2_net (d : Dev) : (vec2 d).net = d.net := by unfold vec2; split <;> simp
@[simp] theorem vec2_mkt (d : Dev) : (vec2 d).mkt = d.mkt := by unfold vec2; split <;> simp
@[simp] theorem vec2_stock (d : Dev) : (vec2 d).stock = d.stock := by unfold vec2; split <;> simp
@[simp] theorem vec2_dram (d : Dev) : (vec2 d).dram = d.dram := by unfold vec2; split <;> simp
@[simp] theorem vec2_eth (d : Dev) : (vec2 d).eth = d.eth := by unfold vec2; split <;> simp
@[simp] theorem vec2_srv (d : Dev) : (vec2 d).srv = d.srv := by unfold vec2; split <;> simp
@[simp] theorem vec2_epochs (d : Dev) : (vec2 d).epochs = d.epochs := by unfold vec2; split <;> simp
@[simp] theorem vec2_faults (d : Dev) : (vec2 d).faults = d.faults := by unfold vec2; split <;> simp
@[simp] theorem raise_state (e : EvId) (b i a : Nat) (d : Dev) : (raise e b i a d).state = d.state := by unfold raise; simp only []; split <;> simp
@[simp] theorem raise_previous (e : EvId) (b i a : Nat) (d : Dev) : (raise e b i a d).previous = d.previous := by unfold raise; simp only []; split <;> simp
@[simp] theorem raise_tick (e : EvId) (b i a : Nat) (d : Dev) : (raise e b i a d).tick = d.tick := by unfold raise; simp only []; split <;> simp
@[simp] theorem raise_cycle (e : EvId) (b i a : Nat) (d : Dev) : (raise e b i a d).cycle = d.cycle := by unfold raise; simp only []; split <;> simp
@[simp] theorem raise_freeIx (e : EvId) (b i a : Nat) (d : Dev) : (raise e b i a d).freeIx = d.freeIx := by unfold raise; simp only []; split <;> simp
@[simp] theorem raise_side (e : EvId) (b i a : Nat) (d : Dev) : (raise e b i a d).side = d.side := by unfold raise; simp only []; split <;> simp
@[simp] theorem raise_sec (e : EvId) (b i a : Nat) (d : Dev) : (raise e b i a d).sec = d.sec := by unfold raise; simp only []; split <;> simp
@[simp] theorem raise_pwr (e : EvId) (b i a : Nat) (d : Dev) : (raise e b i a d).pwr = d.pwr := by unfold raise; simp only []; split <;> simp
@[simp] theorem raise_therm (e : EvId) (b i a : Nat) (d : Dev) : (raise e b i a d).therm = d.therm := by unfold raise; simp only []; split <;> simp
@[simp] theorem raise_wb (e : EvId) (b i a : Nat) (d : Dev) : (raise e b i a d).wb = d.wb := by unfold raise; simp only []; split <;> simp
@[simp] theorem raise_plan (e : EvId) (b i a : Nat) (d : Dev) : (raise e b i a d).plan = d.plan := by unfold raise; simp only []; split <;> simp
@[simp] theorem raise_doms (e : EvId) (b i a : Nat) (d : Dev) : (raise e b i a d).doms = d.doms := by unfold raise; simp only []; split <;> simp
@[simp] theorem raise_net (e : EvId) (b i a : Nat) (d : Dev) : (raise e b i a d).net = d.net := by unfold raise; simp only []; split <;> simp
@[simp] theorem raise_mkt (e : EvId) (b i a : Nat) (d : Dev) : (raise e b i a d).mkt = d.mkt := by unfold raise; simp only []; split <;> simp
@[simp] theorem raise_stock (e : EvId) (b i a : Nat) (d : Dev) : (raise e b i a d).stock = d.stock := by unfold raise; simp only []; split <;> simp
@[simp] theorem raise_dram (e : EvId) (b i a : Nat) (d : Dev) : (raise e b i a d).dram = d.dram := by unfold raise; simp only []; split <;> simp
@[simp] theorem raise_eth (e : EvId) (b i a : Nat) (d : Dev) : (raise e b i a d).eth = d.eth := by unfold raise; simp only []; split <;> simp
@[simp] theorem raise_srv (e : EvId) (b i a : Nat) (d : Dev) : (raise e b i a d).srv = d.srv := by unfold raise; simp only []; split <;> simp
@[simp] theorem raise_epochs (e : EvId) (b i a : Nat) (d : Dev) : (raise e b i a d).epochs = d.epochs := by unfold raise; simp only []; split <;> simp
@[simp] theorem raise_faults (e : EvId) (b i a : Nat) (d : Dev) : (raise e b i a d).faults = d.faults := by unfold raise; simp only []; split <;> simp
@[simp] theorem raiseIbi_state (b : Byte) (d : Dev) : (raiseIbi b d).state = d.state := by unfold raiseIbi; simp only []; split <;> (try split) <;> rfl
@[simp] theorem raiseIbi_previous (b : Byte) (d : Dev) : (raiseIbi b d).previous = d.previous := by unfold raiseIbi; simp only []; split <;> (try split) <;> rfl
@[simp] theorem raiseIbi_tick (b : Byte) (d : Dev) : (raiseIbi b d).tick = d.tick := by unfold raiseIbi; simp only []; split <;> (try split) <;> rfl
@[simp] theorem raiseIbi_cycle (b : Byte) (d : Dev) : (raiseIbi b d).cycle = d.cycle := by unfold raiseIbi; simp only []; split <;> (try split) <;> rfl
@[simp] theorem raiseIbi_freeIx (b : Byte) (d : Dev) : (raiseIbi b d).freeIx = d.freeIx := by unfold raiseIbi; simp only []; split <;> (try split) <;> rfl
@[simp] theorem raiseIbi_evs (b : Byte) (d : Dev) : (raiseIbi b d).evs = d.evs := by unfold raiseIbi; simp only []; split <;> (try split) <;> rfl
@[simp] theorem raiseIbi_host (b : Byte) (d : Dev) : (raiseIbi b d).host = d.host := by unfold raiseIbi; simp only []; split <;> (try split) <;> rfl
@[simp] theorem raiseIbi_sec (b : Byte) (d : Dev) : (raiseIbi b d).sec = d.sec := by unfold raiseIbi; simp only []; split <;> (try split) <;> rfl
@[simp] theorem raiseIbi_pwr (b : Byte) (d : Dev) : (raiseIbi b d).pwr = d.pwr := by unfold raiseIbi; simp only []; split <;> (try split) <;> rfl
@[simp] theorem raiseIbi_therm (b : Byte) (d : Dev) : (raiseIbi b d).therm = d.therm := by unfold raiseIbi; simp only []; split <;> (try split) <;> rfl
@[simp] theorem raiseIbi_wb (b : Byte) (d : Dev) : (raiseIbi b d).wb = d.wb := by unfold raiseIbi; simp only []; split <;> (try split) <;> rfl
@[simp] theorem raiseIbi_plan (b : Byte) (d : Dev) : (raiseIbi b d).plan = d.plan := by unfold raiseIbi; simp only []; split <;> (try split) <;> rfl
@[simp] theorem raiseIbi_doms (b : Byte) (d : Dev) : (raiseIbi b d).doms = d.doms := by unfold raiseIbi; simp only []; split <;> (try split) <;> rfl
@[simp] theorem raiseIbi_net (b : Byte) (d : Dev) : (raiseIbi b d).net = d.net := by unfold raiseIbi; simp only []; split <;> (try split) <;> rfl
@[simp] theorem raiseIbi_mkt (b : Byte) (d : Dev) : (raiseIbi b d).mkt = d.mkt := by unfold raiseIbi; simp only []; split <;> (try split) <;> rfl
@[simp] theorem raiseIbi_stock (b : Byte) (d : Dev) : (raiseIbi b d).stock = d.stock := by unfold raiseIbi; simp only []; split <;> (try split) <;> rfl
@[simp] theorem raiseIbi_dram (b : Byte) (d : Dev) : (raiseIbi b d).dram = d.dram := by unfold raiseIbi; simp only []; split <;> (try split) <;> rfl
@[simp] theorem raiseIbi_eth (b : Byte) (d : Dev) : (raiseIbi b d).eth = d.eth := by unfold raiseIbi; simp only []; split <;> (try split) <;> rfl
@[simp] theorem raiseIbi_srv (b : Byte) (d : Dev) : (raiseIbi b d).srv = d.srv := by unfold raiseIbi; simp only []; split <;> (try split) <;> rfl
@[simp] theorem raiseIbi_epochs (b : Byte) (d : Dev) : (raiseIbi b d).epochs = d.epochs := by unfold raiseIbi; simp only []; split <;> (try split) <;> rfl
@[simp] theorem raiseIbi_faults (b : Byte) (d : Dev) : (raiseIbi b d).faults = d.faults := by unfold raiseIbi; simp only []; split <;> (try split) <;> rfl
@[simp] theorem tickCycle_state (d : Dev) : (tickCycle d).state = d.state := rfl
@[simp] theorem tickCycle_previous (d : Dev) : (tickCycle d).previous = d.previous := rfl
@[simp] theorem tickCycle_tick (d : Dev) : (tickCycle d).tick = d.tick := rfl
@[simp] theorem tickCycle_freeIx (d : Dev) : (tickCycle d).freeIx = d.freeIx := rfl
@[simp] theorem tickCycle_out (d : Dev) : (tickCycle d).out = d.out := rfl
@[simp] theorem tickCycle_evs (d : Dev) : (tickCycle d).evs = d.evs := rfl
@[simp] theorem tickCycle_host (d : Dev) : (tickCycle d).host = d.host := rfl
@[simp] theorem tickCycle_side (d : Dev) : (tickCycle d).side = d.side := rfl
@[simp] theorem tickCycle_sec (d : Dev) : (tickCycle d).sec = d.sec := rfl
@[simp] theorem tickCycle_pwr (d : Dev) : (tickCycle d).pwr = d.pwr := rfl
@[simp] theorem tickCycle_therm (d : Dev) : (tickCycle d).therm = d.therm := rfl
@[simp] theorem tickCycle_wb (d : Dev) : (tickCycle d).wb = d.wb := rfl
@[simp] theorem tickCycle_plan (d : Dev) : (tickCycle d).plan = d.plan := rfl
@[simp] theorem tickCycle_doms (d : Dev) : (tickCycle d).doms = d.doms := rfl
@[simp] theorem tickCycle_net (d : Dev) : (tickCycle d).net = d.net := rfl
@[simp] theorem tickCycle_mkt (d : Dev) : (tickCycle d).mkt = d.mkt := rfl
@[simp] theorem tickCycle_stock (d : Dev) : (tickCycle d).stock = d.stock := rfl
@[simp] theorem tickCycle_dram (d : Dev) : (tickCycle d).dram = d.dram := rfl
@[simp] theorem tickCycle_eth (d : Dev) : (tickCycle d).eth = d.eth := rfl
@[simp] theorem tickCycle_srv (d : Dev) : (tickCycle d).srv = d.srv := rfl
@[simp] theorem tickCycle_epochs (d : Dev) : (tickCycle d).epochs = d.epochs := rfl
@[simp] theorem tickCycle_faults (d : Dev) : (tickCycle d).faults = d.faults := rfl
@[simp] theorem tickCycle_cycle (d : Dev) : (tickCycle d).cycle = d.cycle + 1 := rfl

/-- An update of one ring, flow, domain ... read back through its getter; an event touches none of them. -/
@[simp] theorem getDom_raise (e : EvId) (b i a : Nat) (d : Dev) (k : Nat) : getDom (raise e b i a d) k = getDom d k := by simp [getDom]
@[simp] theorem getDom_emit (o : Out) (d : Dev) (k : Nat) : getDom (emit o d) k = getDom d k := rfl
@[simp] theorem getDom_msix (v : Nat) (d : Dev) (k : Nat) : getDom (msix v d) k = getDom d k := by simp [getDom]
@[simp] theorem getDom_tickCycle (d : Dev) (k : Nat) : getDom (tickCycle d) k = getDom d k := rfl
@[simp] theorem getArr_raise (e : EvId) (b i a : Nat) (d : Dev) (k : Nat) : getArr (raise e b i a d) k = getArr d k := by simp [getArr]
@[simp] theorem getArr_emit (o : Out) (d : Dev) (k : Nat) : getArr (emit o d) k = getArr d k := rfl
@[simp] theorem getArr_msix (v : Nat) (d : Dev) (k : Nat) : getArr (msix v d) k = getArr d k := by simp [getArr]
@[simp] theorem getArr_tickCycle (d : Dev) (k : Nat) : getArr (tickCycle d) k = getArr d k := rfl
@[simp] theorem getStall_raise (e : EvId) (b i a : Nat) (d : Dev) (k : Nat) : getStall (raise e b i a d) k = getStall d k := by simp [getStall]
@[simp] theorem getStall_emit (o : Out) (d : Dev) (k : Nat) : getStall (emit o d) k = getStall d k := rfl
@[simp] theorem getStall_msix (v : Nat) (d : Dev) (k : Nat) : getStall (msix v d) k = getStall d k := by simp [getStall]
@[simp] theorem getStall_tickCycle (d : Dev) (k : Nat) : getStall (tickCycle d) k = getStall d k := rfl
@[simp] theorem getPart_raise (e : EvId) (b i a : Nat) (d : Dev) (k : Nat) : getPart (raise e b i a d) k = getPart d k := by simp [getPart]
@[simp] theorem getPart_emit (o : Out) (d : Dev) (k : Nat) : getPart (emit o d) k = getPart d k := rfl
@[simp] theorem getPart_msix (v : Nat) (d : Dev) (k : Nat) : getPart (msix v d) k = getPart d k := by simp [getPart]
@[simp] theorem getPart_tickCycle (d : Dev) (k : Nat) : getPart (tickCycle d) k = getPart d k := rfl
@[simp] theorem getTicket_raise (e : EvId) (b i a : Nat) (d : Dev) (k : Nat) : getTicket (raise e b i a d) k = getTicket d k := by simp [getTicket]
@[simp] theorem getTicket_emit (o : Out) (d : Dev) (k : Nat) : getTicket (emit o d) k = getTicket d k := rfl
@[simp] theorem getTicket_msix (v : Nat) (d : Dev) (k : Nat) : getTicket (msix v d) k = getTicket d k := by simp [getTicket]
@[simp] theorem getTicket_tickCycle (d : Dev) (k : Nat) : getTicket (tickCycle d) k = getTicket d k := rfl
@[simp] theorem getFlow_raise (e : EvId) (b i a : Nat) (d : Dev) (k : Nat) : getFlow (raise e b i a d) k = getFlow d k := by simp [getFlow]
@[simp] theorem getFlow_emit (o : Out) (d : Dev) (k : Nat) : getFlow (emit o d) k = getFlow d k := rfl
@[simp] theorem getFlow_msix (v : Nat) (d : Dev) (k : Nat) : getFlow (msix v d) k = getFlow d k := by simp [getFlow]
@[simp] theorem getFlow_tickCycle (d : Dev) (k : Nat) : getFlow (tickCycle d) k = getFlow d k := rfl
@[simp] theorem getRing_tickCycle (d : Dev) (k : Nat) : getRing (tickCycle d) k = getRing d k := rfl
@[simp] theorem getRing_emit (o : Out) (d : Dev) (k : Nat) : getRing (emit o d) k = getRing d k := rfl
@[simp] theorem getRing_setEv (d : Dev) (e : EvId) (r : EvReg) (k : Nat) : getRing (setEv d e r) k = getRing d k := rfl

/-- Interrupts leave the rings alone. -/
@[simp] theorem msix_rings (v : Nat) (d : Dev) : (msix v d).host.rings = d.host.rings := by unfold msix; split <;> rfl
@[simp] theorem vec2_rings (d : Dev) : (vec2 d).host.rings = d.host.rings := by unfold vec2; split <;> simp
@[simp] theorem raise_rings (e : EvId) (b i a : Nat) (d : Dev) : (raise e b i a d).host.rings = d.host.rings := by
  unfold raise; simp only []; split <;> simp
@[simp] theorem getRing_msix (v : Nat) (d : Dev) (k : Nat) : getRing (msix v d) k = getRing d k := by simp [getRing]
@[simp] theorem getRing_raise (e : EvId) (b i a : Nat) (d : Dev) (k : Nat) : getRing (raise e b i a d) k = getRing d k := by simp [getRing]

end Sys2Proof.Machine
end

