-- ==== Sys2Proof/Laws/Events.lean ====
section
/-! SUPPORT. The event registers (R402): what one event sets, and what a clear leaves. -/
namespace Sys2Proof.Machine

theorem evIx_lt (e : EvId) : evIx e < 14 := by cases e <;> decide

theorem evIx_inj {a b : EvId} (h : evIx a = evIx b) : a = b := by cases a <;> cases b <;> first | rfl | (revert h; decide)

@[simp] theorem getEv_setEv_same (d : Dev) (e : EvId) (r : EvReg) : getEv (setEv d e r) e = r := by
  simp [getEv, setEv, evIx_lt e]

@[simp] theorem getEv_setEv_ne (d : Dev) {e f : EvId} (r : EvReg) (h : f ≠ e) : getEv (setEv d e r) f = getEv d f := by
  have h2 : evIx f ≠ evIx e := fun h3 => h (evIx_inj h3)
  simp [getEv, setEv, evIx_lt f, h2]

@[simp] theorem getEv_msix (v : Nat) (d : Dev) (e : EvId) : getEv (msix v d) e = getEv d e := by simp [getEv]
@[simp] theorem getEv_vec2 (d : Dev) (e : EvId) : getEv (vec2 d) e = getEv d e := by simp [getEv]
@[simp] theorem getEv_emit (o : Out) (d : Dev) (e : EvId) : getEv (emit o d) e = getEv d e := rfl
@[simp] theorem getEv_tickCycle (d : Dev) (e : EvId) : getEv (tickCycle d) e = getEv d e := rfl

/-- An event puts its flag, its count and its _LAST into its own register. -/
@[simp] theorem getEv_raise_same (e : EvId) (b i a : Nat) (d : Dev) :
    getEv (raise e b i a d) e = evHit d.cycle (evAux e (getEv d e) { bit := b, idx := i, aux := a }) (getEv d e) := by
  unfold raise; simp only []; split <;> simp

/-- and nothing into any other. -/
@[simp] theorem getEv_raise_ne (e : EvId) {f : EvId} (b i a : Nat) (d : Dev) (h : f ≠ e) : getEv (raise e b i a d) f = getEv d f := by
  unfold raise; simp only []; split <;> simp [h]

theorem evHit_flags (c : Nat) (h : EvHit) (r : EvReg) : (evHit c h r).flags = r.flags ||| (1#32 <<< h.bit) := by
  simp only [evHit]; split <;> rfl

theorem evHit_cnt (c : Nat) (h : EvHit) (r : EvReg) : (evHit c h r).cnt = mmod r.cnt h.bit 0 (fun n => (n + 1) % 2 ^ 32) := by
  simp only [evHit]; split <;> rfl

/-- A flag that an event has set reads 1. -/
theorem evHit_sets (c : Nat) (h : EvHit) (r : EvReg) (hb : h.bit < 32) : (evHit c h r).flags.getLsbD h.bit = true := by
  simp [evHit_flags, hb]

/-- An event clears no flag. -/
theorem evHit_keeps (c : Nat) (h : EvHit) (r : EvReg) {j : Nat} (hj : r.flags.getLsbD j = true) : (evHit c h r).flags.getLsbD j = true := by
  simp [evHit_flags, hj]

@[simp] theorem evAux_bit (e : EvId) (r : EvReg) (h : EvHit) : (evAux e r h).bit = h.bit := by unfold evAux; split <;> rfl

theorem hitAll_keeps (e : EvId) (c : Nat) (hs : List EvHit) (r : EvReg) {j : Nat} (hj : r.flags.getLsbD j = true) : (hitAll e c hs r).flags.getLsbD j = true := by
  induction hs generalizing r with
  | nil => exact hj
  | cons h t ih => exact ih _ (evHit_keeps c _ r hj)

@[simp] theorem clearFlags_cnt (m : Word) (r : EvReg) : (clearFlags m r).cnt = r.cnt := rfl

end Sys2Proof.Machine
end

