-- ==== Sys2Proof/Laws/Fabric.lean ====
section
/-! SUPPORT. What the nets' operations leave: of the device, settling the nets, launching and taking carts and notes touch the flights, their
buffers and the next flight's number, and sending a note one output. -/
namespace Sys2Proof.Machine

/-- Settling moves flits and nothing else. -/
theorem settleNets_eq (d : Dev) : ∃ fs bs, settleNets d = { d with net := { d.net with flights := fs, bufs := bs } } := by
  unfold settleNets
  split
  · exact ⟨d.net.flights, d.net.bufs, rfl⟩
  · exact ⟨_, _, rfl⟩

/-- Dropping flights frees their slots and nothing else. -/
theorem dropFlights_eq (sel : Flight → Bool) (d : Dev) :
    ∃ bs, dropFlights sel d = { d with net := { d.net with flights := d.net.flights.filter (fun f => ! sel f), bufs := bs } } := ⟨_, rfl⟩

theorem takeCart_eq (c : Cart) (d : Dev) : ∃ fs bs, takeCart c d = { d with net := { d.net with flights := fs, bufs := bs } } := ⟨_, _, rfl⟩

theorem loseCart_eq (c : Cart) (d : Dev) : ∃ fs bs, loseCart c d = { d with net := { d.net with flights := fs, bufs := bs } } := by
  unfold loseCart
  split
  · exact ⟨_, _, rfl⟩
  · exact ⟨d.net.flights, d.net.bufs, rfl⟩

theorem takeNote_eq (n : Note) (d : Dev) : ∃ fs bs, takeNote n d = { d with net := { d.net with flights := fs, bufs := bs } } := by
  unfold takeNote
  split
  · exact ⟨_, _, rfl⟩
  · exact ⟨d.net.flights, d.net.bufs, rfl⟩

@[simp] theorem settleNets_state (d : Dev) : (settleNets d).state = d.state := by unfold settleNets; split <;> rfl
@[simp] theorem settleNets_previous (d : Dev) : (settleNets d).previous = d.previous := by unfold settleNets; split <;> rfl
@[simp] theorem settleNets_tick (d : Dev) : (settleNets d).tick = d.tick := by unfold settleNets; split <;> rfl
@[simp] theorem settleNets_cycle (d : Dev) : (settleNets d).cycle = d.cycle := by unfold settleNets; split <;> rfl
@[simp] theorem settleNets_freeIx (d : Dev) : (settleNets d).freeIx = d.freeIx := by unfold settleNets; split <;> rfl
@[simp] theorem settleNets_out (d : Dev) : (settleNets d).out = d.out := by unfold settleNets; split <;> rfl
@[simp] theorem settleNets_evs (d : Dev) : (settleNets d).evs = d.evs := by unfold settleNets; split <;> rfl
@[simp] theorem settleNets_host (d : Dev) : (settleNets d).host = d.host := by unfold settleNets; split <;> rfl
@[simp] theorem settleNets_side (d : Dev) : (settleNets d).side = d.side := by unfold settleNets; split <;> rfl
@[simp] theorem settleNets_sec (d : Dev) : (settleNets d).sec = d.sec := by unfold settleNets; split <;> rfl
@[simp] theorem settleNets_pwr (d : Dev) : (settleNets d).pwr = d.pwr := by unfold settleNets; split <;> rfl
@[simp] theorem settleNets_therm (d : Dev) : (settleNets d).therm = d.therm := by unfold settleNets; split <;> rfl
@[simp] theorem settleNets_wb (d : Dev) : (settleNets d).wb = d.wb := by unfold settleNets; split <;> rfl
@[simp] theorem settleNets_plan (d : Dev) : (settleNets d).plan = d.plan := by unfold settleNets; split <;> rfl
@[simp] theorem settleNets_doms (d : Dev) : (settleNets d).doms = d.doms := by unfold settleNets; split <;> rfl
@[simp] theorem settleNets_mkt (d : Dev) : (settleNets d).mkt = d.mkt := by unfold settleNets; split <;> rfl
@[simp] theorem settleNets_stock (d : Dev) : (settleNets d).stock = d.stock := by unfold settleNets; split <;> rfl
@[simp] theorem settleNets_dram (d : Dev) : (settleNets d).dram = d.dram := by unfold settleNets; split <;> rfl
@[simp] theorem settleNets_eth (d : Dev) : (settleNets d).eth = d.eth := by unfold settleNets; split <;> rfl
@[simp] theorem settleNets_srv (d : Dev) : (settleNets d).srv = d.srv := by unfold settleNets; split <;> rfl
@[simp] theorem settleNets_epochs (d : Dev) : (settleNets d).epochs = d.epochs := by unfold settleNets; split <;> rfl
@[simp] theorem settleNets_faults (d : Dev) : (settleNets d).faults = d.faults := by unfold settleNets; split <;> rfl
@[simp] theorem dropFlights_state (sel : Flight → Bool) (d : Dev) : (dropFlights sel d).state = d.state := rfl
@[simp] theorem dropFlights_previous (sel : Flight → Bool) (d : Dev) : (dropFlights sel d).previous = d.previous := rfl
@[simp] theorem dropFlights_tick (sel : Flight → Bool) (d : Dev) : (dropFlights sel d).tick = d.tick := rfl
@[simp] theorem dropFlights_cycle (sel : Flight → Bool) (d : Dev) : (dropFlights sel d).cycle = d.cycle := rfl
@[simp] theorem dropFlights_freeIx (sel : Flight → Bool) (d : Dev) : (dropFlights sel d).freeIx = d.freeIx := rfl
@[simp] theorem dropFlights_out (sel : Flight → Bool) (d : Dev) : (dropFlights sel d).out = d.out := rfl
@[simp] theorem dropFlights_evs (sel : Flight → Bool) (d : Dev) : (dropFlights sel d).evs = d.evs := rfl
@[simp] theorem dropFlights_host (sel : Flight → Bool) (d : Dev) : (dropFlights sel d).host = d.host := rfl
@[simp] theorem dropFlights_side (sel : Flight → Bool) (d : Dev) : (dropFlights sel d).side = d.side := rfl
@[simp] theorem dropFlights_sec (sel : Flight → Bool) (d : Dev) : (dropFlights sel d).sec = d.sec := rfl
@[simp] theorem dropFlights_pwr (sel : Flight → Bool) (d : Dev) : (dropFlights sel d).pwr = d.pwr := rfl
@[simp] theorem dropFlights_therm (sel : Flight → Bool) (d : Dev) : (dropFlights sel d).therm = d.therm := rfl
@[simp] theorem dropFlights_wb (sel : Flight → Bool) (d : Dev) : (dropFlights sel d).wb = d.wb := rfl
@[simp] theorem dropFlights_plan (sel : Flight → Bool) (d : Dev) : (dropFlights sel d).plan = d.plan := rfl
@[simp] theorem dropFlights_doms (sel : Flight → Bool) (d : Dev) : (dropFlights sel d).doms = d.doms := rfl
@[simp] theorem dropFlights_mkt (sel : Flight → Bool) (d : Dev) : (dropFlights sel d).mkt = d.mkt := rfl
@[simp] theorem dropFlights_stock (sel : Flight → Bool) (d : Dev) : (dropFlights sel d).stock = d.stock := rfl
@[simp] theorem dropFlights_dram (sel : Flight → Bool) (d : Dev) : (dropFlights sel d).dram = d.dram := rfl
@[simp] theorem dropFlights_eth (sel : Flight → Bool) (d : Dev) : (dropFlights sel d).eth = d.eth := rfl
@[simp] theorem dropFlights_srv (sel : Flight → Bool) (d : Dev) : (dropFlights sel d).srv = d.srv := rfl
@[simp] theorem dropFlights_epochs (sel : Flight → Bool) (d : Dev) : (dropFlights sel d).epochs = d.epochs := rfl
@[simp] theorem dropFlights_faults (sel : Flight → Bool) (d : Dev) : (dropFlights sel d).faults = d.faults := rfl
@[simp] theorem takeCart_state (c : Cart) (d : Dev) : (takeCart c d).state = d.state := rfl
@[simp] theorem takeCart_previous (c : Cart) (d : Dev) : (takeCart c d).previous = d.previous := rfl
@[simp] theorem takeCart_tick (c : Cart) (d : Dev) : (takeCart c d).tick = d.tick := rfl
@[simp] theorem takeCart_cycle (c : Cart) (d : Dev) : (takeCart c d).cycle = d.cycle := rfl
@[simp] theorem takeCart_freeIx (c : Cart) (d : Dev) : (takeCart c d).freeIx = d.freeIx := rfl
@[simp] theorem takeCart_out (c : Cart) (d : Dev) : (takeCart c d).out = d.out := rfl
@[simp] theorem takeCart_evs (c : Cart) (d : Dev) : (takeCart c d).evs = d.evs := rfl
@[simp] theorem takeCart_host (c : Cart) (d : Dev) : (takeCart c d).host = d.host := rfl
@[simp] theorem takeCart_side (c : Cart) (d : Dev) : (takeCart c d).side = d.side := rfl
@[simp] theorem takeCart_sec (c : Cart) (d : Dev) : (takeCart c d).sec = d.sec := rfl
@[simp] theorem takeCart_pwr (c : Cart) (d : Dev) : (takeCart c d).pwr = d.pwr := rfl
@[simp] theorem takeCart_therm (c : Cart) (d : Dev) : (takeCart c d).therm = d.therm := rfl
@[simp] theorem takeCart_wb (c : Cart) (d : Dev) : (takeCart c d).wb = d.wb := rfl
@[simp] theorem takeCart_plan (c : Cart) (d : Dev) : (takeCart c d).plan = d.plan := rfl
@[simp] theorem takeCart_doms (c : Cart) (d : Dev) : (takeCart c d).doms = d.doms := rfl
@[simp] theorem takeCart_mkt (c : Cart) (d : Dev) : (takeCart c d).mkt = d.mkt := rfl
@[simp] theorem takeCart_stock (c : Cart) (d : Dev) : (takeCart c d).stock = d.stock := rfl
@[simp] theorem takeCart_dram (c : Cart) (d : Dev) : (takeCart c d).dram = d.dram := rfl
@[simp] theorem takeCart_eth (c : Cart) (d : Dev) : (takeCart c d).eth = d.eth := rfl
@[simp] theorem takeCart_srv (c : Cart) (d : Dev) : (takeCart c d).srv = d.srv := rfl
@[simp] theorem takeCart_epochs (c : Cart) (d : Dev) : (takeCart c d).epochs = d.epochs := rfl
@[simp] theorem takeCart_faults (c : Cart) (d : Dev) : (takeCart c d).faults = d.faults := rfl
@[simp] theorem takeNote_state (n : Note) (d : Dev) : (takeNote n d).state = d.state := by unfold takeNote; split <;> rfl
@[simp] theorem takeNote_previous (n : Note) (d : Dev) : (takeNote n d).previous = d.previous := by unfold takeNote; split <;> rfl
@[simp] theorem takeNote_tick (n : Note) (d : Dev) : (takeNote n d).tick = d.tick := by unfold takeNote; split <;> rfl
@[simp] theorem takeNote_cycle (n : Note) (d : Dev) : (takeNote n d).cycle = d.cycle := by unfold takeNote; split <;> rfl
@[simp] theorem takeNote_freeIx (n : Note) (d : Dev) : (takeNote n d).freeIx = d.freeIx := by unfold takeNote; split <;> rfl
@[simp] theorem takeNote_out (n : Note) (d : Dev) : (takeNote n d).out = d.out := by unfold takeNote; split <;> rfl
@[simp] theorem takeNote_evs (n : Note) (d : Dev) : (takeNote n d).evs = d.evs := by unfold takeNote; split <;> rfl
@[simp] theorem takeNote_host (n : Note) (d : Dev) : (takeNote n d).host = d.host := by unfold takeNote; split <;> rfl
@[simp] theorem takeNote_side (n : Note) (d : Dev) : (takeNote n d).side = d.side := by unfold takeNote; split <;> rfl
@[simp] theorem takeNote_sec (n : Note) (d : Dev) : (takeNote n d).sec = d.sec := by unfold takeNote; split <;> rfl
@[simp] theorem takeNote_pwr (n : Note) (d : Dev) : (takeNote n d).pwr = d.pwr := by unfold takeNote; split <;> rfl
@[simp] theorem takeNote_therm (n : Note) (d : Dev) : (takeNote n d).therm = d.therm := by unfold takeNote; split <;> rfl
@[simp] theorem takeNote_wb (n : Note) (d : Dev) : (takeNote n d).wb = d.wb := by unfold takeNote; split <;> rfl
@[simp] theorem takeNote_plan (n : Note) (d : Dev) : (takeNote n d).plan = d.plan := by unfold takeNote; split <;> rfl
@[simp] theorem takeNote_doms (n : Note) (d : Dev) : (takeNote n d).doms = d.doms := by unfold takeNote; split <;> rfl
@[simp] theorem takeNote_mkt (n : Note) (d : Dev) : (takeNote n d).mkt = d.mkt := by unfold takeNote; split <;> rfl
@[simp] theorem takeNote_stock (n : Note) (d : Dev) : (takeNote n d).stock = d.stock := by unfold takeNote; split <;> rfl
@[simp] theorem takeNote_dram (n : Note) (d : Dev) : (takeNote n d).dram = d.dram := by unfold takeNote; split <;> rfl
@[simp] theorem takeNote_eth (n : Note) (d : Dev) : (takeNote n d).eth = d.eth := by unfold takeNote; split <;> rfl
@[simp] theorem takeNote_srv (n : Note) (d : Dev) : (takeNote n d).srv = d.srv := by unfold takeNote; split <;> rfl
@[simp] theorem takeNote_epochs (n : Note) (d : Dev) : (takeNote n d).epochs = d.epochs := by unfold takeNote; split <;> rfl
@[simp] theorem takeNote_faults (n : Note) (d : Dev) : (takeNote n d).faults = d.faults := by unfold takeNote; split <;> rfl
@[simp] theorem launch_state (l : Load) (d : Dev) : (launch l d).state = d.state := rfl
@[simp] theorem launch_previous (l : Load) (d : Dev) : (launch l d).previous = d.previous := rfl
@[simp] theorem launch_tick (l : Load) (d : Dev) : (launch l d).tick = d.tick := rfl
@[simp] theorem launch_cycle (l : Load) (d : Dev) : (launch l d).cycle = d.cycle := rfl
@[simp] theorem launch_freeIx (l : Load) (d : Dev) : (launch l d).freeIx = d.freeIx := rfl
@[simp] theorem launch_out (l : Load) (d : Dev) : (launch l d).out = d.out := rfl
@[simp] theorem launch_evs (l : Load) (d : Dev) : (launch l d).evs = d.evs := rfl
@[simp] theorem launch_host (l : Load) (d : Dev) : (launch l d).host = d.host := rfl
@[simp] theorem launch_side (l : Load) (d : Dev) : (launch l d).side = d.side := rfl
@[simp] theorem launch_sec (l : Load) (d : Dev) : (launch l d).sec = d.sec := rfl
@[simp] theorem launch_pwr (l : Load) (d : Dev) : (launch l d).pwr = d.pwr := rfl
@[simp] theorem launch_therm (l : Load) (d : Dev) : (launch l d).therm = d.therm := rfl
@[simp] theorem launch_wb (l : Load) (d : Dev) : (launch l d).wb = d.wb := rfl
@[simp] theorem launch_plan (l : Load) (d : Dev) : (launch l d).plan = d.plan := rfl
@[simp] theorem launch_doms (l : Load) (d : Dev) : (launch l d).doms = d.doms := rfl
@[simp] theorem launch_mkt (l : Load) (d : Dev) : (launch l d).mkt = d.mkt := rfl
@[simp] theorem launch_stock (l : Load) (d : Dev) : (launch l d).stock = d.stock := rfl
@[simp] theorem launch_dram (l : Load) (d : Dev) : (launch l d).dram = d.dram := rfl
@[simp] theorem launch_eth (l : Load) (d : Dev) : (launch l d).eth = d.eth := rfl
@[simp] theorem launch_srv (l : Load) (d : Dev) : (launch l d).srv = d.srv := rfl
@[simp] theorem launch_epochs (l : Load) (d : Dev) : (launch l d).epochs = d.epochs := rfl
@[simp] theorem launch_faults (l : Load) (d : Dev) : (launch l d).faults = d.faults := rfl
@[simp] theorem sendNote_state (n : Note) (d : Dev) : (sendNote n d).state = d.state := rfl
@[simp] theorem sendNote_previous (n : Note) (d : Dev) : (sendNote n d).previous = d.previous := rfl
@[simp] theorem sendNote_tick (n : Note) (d : Dev) : (sendNote n d).tick = d.tick := rfl
@[simp] theorem sendNote_cycle (n : Note) (d : Dev) : (sendNote n d).cycle = d.cycle := rfl
@[simp] theorem sendNote_freeIx (n : Note) (d : Dev) : (sendNote n d).freeIx = d.freeIx := rfl
@[simp] theorem sendNote_evs (n : Note) (d : Dev) : (sendNote n d).evs = d.evs := rfl
@[simp] theorem sendNote_host (n : Note) (d : Dev) : (sendNote n d).host = d.host := rfl
@[simp] theorem sendNote_side (n : Note) (d : Dev) : (sendNote n d).side = d.side := rfl
@[simp] theorem sendNote_sec (n : Note) (d : Dev) : (sendNote n d).sec = d.sec := rfl
@[simp] theorem sendNote_pwr (n : Note) (d : Dev) : (sendNote n d).pwr = d.pwr := rfl
@[simp] theorem sendNote_therm (n : Note) (d : Dev) : (sendNote n d).therm = d.therm := rfl
@[simp] theorem sendNote_wb (n : Note) (d : Dev) : (sendNote n d).wb = d.wb := rfl
@[simp] theorem sendNote_plan (n : Note) (d : Dev) : (sendNote n d).plan = d.plan := rfl
@[simp] theorem sendNote_doms (n : Note) (d : Dev) : (sendNote n d).doms = d.doms := rfl
@[simp] theorem sendNote_mkt (n : Note) (d : Dev) : (sendNote n d).mkt = d.mkt := rfl
@[simp] theorem sendNote_stock (n : Note) (d : Dev) : (sendNote n d).stock = d.stock := rfl
@[simp] theorem sendNote_dram (n : Note) (d : Dev) : (sendNote n d).dram = d.dram := rfl
@[simp] theorem sendNote_eth (n : Note) (d : Dev) : (sendNote n d).eth = d.eth := rfl
@[simp] theorem sendNote_srv (n : Note) (d : Dev) : (sendNote n d).srv = d.srv := rfl
@[simp] theorem sendNote_epochs (n : Note) (d : Dev) : (sendNote n d).epochs = d.epochs := rfl
@[simp] theorem sendNote_faults (n : Note) (d : Dev) : (sendNote n d).faults = d.faults := rfl
@[simp] theorem sendNote_out (n : Note) (d : Dev) : (sendNote n d).out = d.out ++ [.note n (noteFlits n)] := rfl
@[simp] theorem launch_flights (l : Load) (d : Dev) :
    (launch l d).net.flights = d.net.flights ++ [{ id := d.net.nextFlight, load := l, left := l.flits, path := [] }] := rfl
@[simp] theorem launch_nextFlight (l : Load) (d : Dev) : (launch l d).net.nextFlight = d.net.nextFlight + 1 := rfl
@[simp] theorem sendNote_flights (n : Note) (d : Dev) :
    (sendNote n d).net.flights = d.net.flights ++ [{ id := d.net.nextFlight, load := .note n, left := n.len + 1, path := [] }] := rfl
@[simp] theorem settleNets_nextFlight (d : Dev) : (settleNets d).net.nextFlight = d.net.nextFlight := by unfold settleNets; split <;> rfl
@[simp] theorem settleNets_fenced (d : Dev) : (settleNets d).net.fenced = d.net.fenced := by unfold settleNets; split <;> rfl
@[simp] theorem settleNets_credits (d : Dev) : (settleNets d).net.credits = d.net.credits := by unfold settleNets; split <;> rfl
@[simp] theorem settleNets_waiting (d : Dev) : (settleNets d).net.waiting = d.net.waiting := by unfold settleNets; split <;> rfl

/-- One cycle does not depend on the model's cycle count. -/
theorem fabricRun_tickCycle (p : PlanDoc) (d : Dev) : ∀ n s, fabricRun p (tickCycle d) n s = fabricRun p d n s
  | 0, _ => rfl
  | n + 1, s => by
    have h : fabricCycle p (tickCycle d) s = fabricCycle p d s := rfl
    simp only [fabricRun, h, fabricRun_tickCycle p d n]

/-- The nets settle the same before and after the model counts a cycle. -/
theorem settleNets_tickCycle (d : Dev) : settleNets (tickCycle d) = tickCycle (settleNets d) := by
  have h : theDoc (tickCycle d) = theDoc d := rfl
  unfold settleNets
  rw [h]
  split
  · rfl
  · simp only [fabricRun_tickCycle]
    rfl

/-- Where nothing has been sent, nothing is on the nets. -/
theorem settleNets_empty (d : Dev) (hf : d.net.flights = []) (hb : d.net.bufs = []) : settleNets d = d := by
  unfold settleNets
  split
  · rfl
  · rw [hf, hb]
    have : fabricRun ‹PlanDoc› d (fabricFuel []) ([], []) = ([], []) := rfl
    rw [this]
    show ({ d with net := { d.net with flights := [], bufs := [] } } : Dev) = d
    rw [← hf, ← hb]

end Sys2Proof.Machine
end

