-- ==== Sys2Proof/WellFormed.lean ====
section
/-! DEFINITION. The range checks on commands (R10, R18): what names a thing of the device is inside its range. A meaning
never depends on them: it treats a command that names nothing as no command. -/
namespace Sys2Proof

def Cmd.wf (c : Cmd) : Bool := decide (c.ring < 8) && decide (c.opcode < 65536)

def stallOk (i : Nat) : Bool := decide (i < 1920)
def arrayOk (a : Nat) : Bool := decide (a < 30720)
def subOk (n m : Nat) : Bool := decide (n < 12) && decide (m < 8)
def domainOk (k : Nat) : Bool := decide (k < 64)
def flowOk (f : Nat) : Bool := decide (f < 49152)
def chanOk (p c : Nat) : Bool := decide (p < 256) && decide (c < 16)

/-- Island identifiers (R18): 0-1,959 and 1,984-2,029, and 2,048 more for a stall's converter island. -/
def islandOk (i : Nat) : Bool :=
  decide (i < 1960) || (decide (1984 ≤ i) && decide (i < 2030)) || (decide (2048 ≤ i) && decide (i < 2048 + 1920))

/-- A frame as the MAC and the Bengoif engine hand it on (R242). -/
def Rx.wf (r : Rx) : Bool :=
  subOk r.port r.sub && decide (r.typ < 256) && decide (r.cls < 4) && decide (r.cart < 16) && decide (r.psn < 2 ^ 32) &&
    decide (r.ack < 2 ^ 32) && decide (r.alive < 65536) && decide (r.step < 2 ^ 32) && decide (r.payload.length ≤ 4096) && decide (r.resv < 4)

/-- A cart (R137): its fields fit the header flit, and it carries at most 64 data flits. -/
def Cart.wf (c : Cart) : Bool :=
  decide (c.dest < 4096) && decide (c.src < 4096) && decide (c.typ < 256) && decide (c.queue < 4096) && decide (c.route < 2048) &&
    decide (c.mode < 4) && decide (c.vc < 2) && decide (c.slot < 65536) && decide (c.step < 2 ^ 32) && decide (c.seq < 2 ^ 32) &&
    decide (c.addr < 2 ^ 48) && decide (c.link < 8) && decide (c.flits.length ≤ 64)

/-- A note (R148): one first flit and as many more as its length says. -/
def Note.wf (n : Note) : Bool :=
  decide (n.dest < 4096) && decide (n.src < 4096) && decide (n.typ < 16) && decide (n.len < 4) && decide (n.extra.length = n.len)

def NoteRx.wf (r : NoteRx) : Bool := r.note.wf
def StoreRead.wf (r : StoreRead) : Bool := stallOk r.stall

/-- An initial calibration's figures for an array: at most its 69 slices' trims. -/
def CalFig.wf (f : CalFig) : Bool := arrayOk f.array && decide (f.trims.length ≤ 69)

def Instr.wf : Instr → Bool
  | .nop c | .attestGet c | .faultRead c | .ticketRead c | .fwLoad c | .fwActivateAt c | .fwActivateCancel c
  | .patternLoad c | .planLoad c | .epochSet c | .serveStart c | .serveDrain c | .serveStop c | .stockLoad c
  | .stockFlip c | .stockFlipCancel c | .stockRelease c | .stockAbort c | .stocktake c | .stockRefresh c
  | .shelfWrite c | .customerSet c | .adapterLoad c | .adapterRevoke c | .ticketAbort c | .ticketPreempt c
  | .prefixFlush c | .porterResume c | .porterDiscard c => c.wf
  | .cringTailWrite i v | .cplHeadWrite i v => decide (i < 8) && decide (v < 2 ^ 32)
  | .cringEnableSet i | .cringEnableClear i | .ringDmaError i _ | .coalesceTimeout i => decide (i < 8)
  | .w1cClear _ _ hw => hw.all fun h => decide (h.bit < 32)
  | .lowWordRead off => decide (off < 0x4000000)
  | .registerWrite off size _ => decide (off < 0x4000000) && [1, 2, 4, 8].contains size
  | .epChkCtlWrite u _ | .epChkValueWrite u _ => decide (u < 268)
  | .stagingWrite off bs => decide (off + bs.length ≤ 0x10000000)
  | .i3cPrivateRead n => decide (n ≤ 64)
  | .perstDeassert t k => decide (t < 64) && decide (k < 8)
  | .islandClockStop i | .islandClockRestart i | .islandClockAdjust i _ => islandOk i
  | .islandStopTimeout i => stallOk i
  | .sensorConversion i code => decide (i < 64) && decide (code < 4096)
  | .thermalEvaluation l => decide (l.length = 16)
  | .burstEnd a b => decide (a.length = 24) && decide (b.length = 24)
  | .hbmTrainingEnd l => decide (l.length = 16)
  | .initialCalRoundEnd l => l.all CalFig.wf
  | .calWindowStart a | .calPhaseEnd a _ | .calWindowEnd a _ _ | .calibrationOnlySample a _ | .activityGrant a _
  | .escalationRetryEnd a _ | .auditPathEnd a _ | .patternTest a _ | .erasePulseEnd a | .rowProgramEnd a
  | .planeHashWrite a => arrayOk a
  | .verifyReadEnd a p _ => arrayOk a && decide (p < 64)
  | .scriptWordIssue r | .send r | .port r | .auditSample r => r.wf
  | .mvm i _ _ | .combine i _ | .vec i _ _ | .rq i _ | .recv i | .slot i | .doneWord i | .stallDone i | .guestMvm i _
  | .datapathPatternRun i _ _ | .creditTimeout i => stallOk i
  | .cartReceive c _ => c.wf
  | .creditNote n | .fencedNote n | .completionNote n | .errorReportNote n | .countingHouseOrder n => n.wf
  | .replayQuiesced k | .recoveryTimeout k | .bellResend k | .readinessResend k | .pacePoint k | .deviceDone k _
  | .localBell k | .scheduleSend k => domainOk k
  | .porterUnitComplete p c _ | .translationWalkEnd p c _ _ | .hbmReread _ p c _ => chanOk p c
  | .pageAllocationRequest _ | .pageInvalidationComplete _ | .handleRetentionEnd _ => true
  | .hbmScrub a _ => decide (a < 0x00C000000000)
  | .linkTrained n m _ | .probeVerified n m _ | .probeTimeout n m | .heldDownProbeResend n m | .linkLoss n m
  | .frameDrop n m _ | .lldpFrame n m _ => subOk n m
  | .pfcFrame n m k => subOk n m && decide (k < 8)
  | .probe r | .dataFrame r | .contrib r | .unitFrame r | .ackFrame r | .openFrame r | .openAck r | .closeFrame r
  | .bellUp r | .bellDown r | .replayReq r | .order r | .cancel r | .query r | .maskWrite r => r.wf
  | .ackTimer f | .retransmitTimeout f _ | .flowFailTimeout f | .quarantineEnd f | .rateLimitRise f => flowOk f
  | .restockHeaderVerified p _ _ _ _ => decide (p < 17)
  | .cvActCapWrite _ | .trimModeWrite _ | .cvAuditCtlWrite _ | .chIrqMaskWrite _ | .wbAlertCtlWrite _
  | .i3cPrivateWrite _ _ | .entdaa _ _ | .setdasa _ _ | .rstdaa | .enec _ | .disec _ | .getpid | .getbcr | .getdcr
  | .getstatus | .setmwl _ | .setmrl _ | .vector2IntervalEnd | .inputPowerRise | .railsInRegulation
  | .undervoltageLockout | .inputBelow20v | .inputLow | .inputRecovered | .inputOverCurrentTrip
  | .inputOverVoltageTrip | .railOverCurrentTrip | .dieOverTemperatureTrip | .perstAssert | .functionReset
  | .referenceLost | .sampleEdge | .sampleWindowEnd | .telemetryStaleTimeout | .alertHoldEnd | .romSelfCheckEnd _
  | .identityDerivationEnd | .firmwareVerificationEnd _ | .patternSetVerified _ | .clerksStart
  | .planValidationEnd _ _ _ | .dramInitEnd | .clerkHandover | .fwConfirm _ | .confirmationWindowExpiry | .clerkTrap
  | .referenceRestored | .inBandInterruptTaken => true

end Sys2Proof
end

