-- ==== Sys2Proof/Laws/PerInstr.lean ====
section
/-! SUPPORT. A fact about every command as syntax: a well-formed host command names one of the eight rings (R405). -/
namespace Sys2Proof.Laws.Shape

/-- The ring of a command that comes from a ring. -/
def ringOf : Instr → Option Nat
  | .nop c => some c.ring
  | .attestGet c => some c.ring
  | .faultRead c => some c.ring
  | .ticketRead c => some c.ring
  | .fwLoad c => some c.ring
  | .fwActivateAt c => some c.ring
  | .fwActivateCancel c => some c.ring
  | .patternLoad c => some c.ring
  | .planLoad c => some c.ring
  | .epochSet c => some c.ring
  | .serveStart c => some c.ring
  | .serveDrain c => some c.ring
  | .serveStop c => some c.ring
  | .stockLoad c => some c.ring
  | .stockFlip c => some c.ring
  | .stockFlipCancel c => some c.ring
  | .stockRelease c => some c.ring
  | .stockAbort c => some c.ring
  | .stocktake c => some c.ring
  | .stockRefresh c => some c.ring
  | .shelfWrite c => some c.ring
  | .customerSet c => some c.ring
  | .adapterLoad c => some c.ring
  | .adapterRevoke c => some c.ring
  | .ticketAbort c => some c.ring
  | .ticketPreempt c => some c.ring
  | .prefixFlush c => some c.ring
  | .porterResume c => some c.ring
  | .porterDiscard c => some c.ring
  | _ => none

def Statement (i : Instr) : Prop := i.wf = true → ∀ r, ringOf i = some r → r < 8

theorem cmd_ring {c : Cmd} (h : c.wf = true) : c.ring < 8 := by
  simp only [Cmd.wf, Bool.and_eq_true, decide_eq_true_eq] at h
  exact h.1

theorem nop (c : Cmd) : Statement (.nop c) := fun h r hr => by
  cases hr
  exact cmd_ring h
theorem attestGet (c : Cmd) : Statement (.attestGet c) := fun h r hr => by
  cases hr
  exact cmd_ring h
theorem faultRead (c : Cmd) : Statement (.faultRead c) := fun h r hr => by
  cases hr
  exact cmd_ring h
theorem ticketRead (c : Cmd) : Statement (.ticketRead c) := fun h r hr => by
  cases hr
  exact cmd_ring h
theorem fwLoad (c : Cmd) : Statement (.fwLoad c) := fun h r hr => by
  cases hr
  exact cmd_ring h
theorem fwActivateAt (c : Cmd) : Statement (.fwActivateAt c) := fun h r hr => by
  cases hr
  exact cmd_ring h
theorem fwActivateCancel (c : Cmd) : Statement (.fwActivateCancel c) := fun h r hr => by
  cases hr
  exact cmd_ring h
theorem patternLoad (c : Cmd) : Statement (.patternLoad c) := fun h r hr => by
  cases hr
  exact cmd_ring h
theorem planLoad (c : Cmd) : Statement (.planLoad c) := fun h r hr => by
  cases hr
  exact cmd_ring h
theorem epochSet (c : Cmd) : Statement (.epochSet c) := fun h r hr => by
  cases hr
  exact cmd_ring h
theorem serveStart (c : Cmd) : Statement (.serveStart c) := fun h r hr => by
  cases hr
  exact cmd_ring h
theorem serveDrain (c : Cmd) : Statement (.serveDrain c) := fun h r hr => by
  cases hr
  exact cmd_ring h
theorem serveStop (c : Cmd) : Statement (.serveStop c) := fun h r hr => by
  cases hr
  exact cmd_ring h
theorem stockLoad (c : Cmd) : Statement (.stockLoad c) := fun h r hr => by
  cases hr
  exact cmd_ring h
theorem stockFlip (c : Cmd) : Statement (.stockFlip c) := fun h r hr => by
  cases hr
  exact cmd_ring h
theorem stockFlipCancel (c : Cmd) : Statement (.stockFlipCancel c) := fun h r hr => by
  cases hr
  exact cmd_ring h
theorem stockRelease (c : Cmd) : Statement (.stockRelease c) := fun h r hr => by
  cases hr
  exact cmd_ring h
theorem stockAbort (c : Cmd) : Statement (.stockAbort c) := fun h r hr => by
  cases hr
  exact cmd_ring h
theorem stocktake (c : Cmd) : Statement (.stocktake c) := fun h r hr => by
  cases hr
  exact cmd_ring h
theorem stockRefresh (c : Cmd) : Statement (.stockRefresh c) := fun h r hr => by
  cases hr
  exact cmd_ring h
theorem shelfWrite (c : Cmd) : Statement (.shelfWrite c) := fun h r hr => by
  cases hr
  exact cmd_ring h
theorem customerSet (c : Cmd) : Statement (.customerSet c) := fun h r hr => by
  cases hr
  exact cmd_ring h
theorem adapterLoad (c : Cmd) : Statement (.adapterLoad c) := fun h r hr => by
  cases hr
  exact cmd_ring h
theorem adapterRevoke (c : Cmd) : Statement (.adapterRevoke c) := fun h r hr => by
  cases hr
  exact cmd_ring h
theorem ticketAbort (c : Cmd) : Statement (.ticketAbort c) := fun h r hr => by
  cases hr
  exact cmd_ring h
theorem ticketPreempt (c : Cmd) : Statement (.ticketPreempt c) := fun h r hr => by
  cases hr
  exact cmd_ring h
theorem prefixFlush (c : Cmd) : Statement (.prefixFlush c) := fun h r hr => by
  cases hr
  exact cmd_ring h
theorem porterResume (c : Cmd) : Statement (.porterResume c) := fun h r hr => by
  cases hr
  exact cmd_ring h
theorem porterDiscard (c : Cmd) : Statement (.porterDiscard c) := fun h r hr => by
  cases hr
  exact cmd_ring h
theorem cringTailWrite (ring v : Nat) : Statement (.cringTailWrite ring v) := fun _ _ hr => by cases hr
theorem cringEnableSet (ring : Nat) : Statement (.cringEnableSet ring) := fun _ _ hr => by cases hr
theorem cringEnableClear (ring : Nat) : Statement (.cringEnableClear ring) := fun _ _ hr => by cases hr
theorem cplHeadWrite (ring v : Nat) : Statement (.cplHeadWrite ring v) := fun _ _ hr => by cases hr
theorem ringDmaError (ring : Nat) (k : DmaErr) : Statement (.ringDmaError ring k) := fun _ _ hr => by cases hr
theorem w1cClear (e : EvId) (mask : Word) (hw : List EvHit) : Statement (.w1cClear e mask hw) := fun _ _ hr => by cases hr
theorem lowWordRead (off : Nat) : Statement (.lowWordRead off) := fun _ _ hr => by cases hr
theorem registerWrite (off size : Nat) (v : W64) : Statement (.registerWrite off size v) := fun _ _ hr => by cases hr
theorem cvActCapWrite (v : Word) : Statement (.cvActCapWrite v) := fun _ _ hr => by cases hr
theorem trimModeWrite (v : Word) : Statement (.trimModeWrite v) := fun _ _ hr => by cases hr
theorem cvAuditCtlWrite (v : Word) : Statement (.cvAuditCtlWrite v) := fun _ _ hr => by cases hr
theorem chIrqMaskWrite (v : Word) : Statement (.chIrqMaskWrite v) := fun _ _ hr => by cases hr
theorem epChkCtlWrite (u : Nat) (v : Word) : Statement (.epChkCtlWrite u v) := fun _ _ hr => by cases hr
theorem epChkValueWrite (u : Nat) (v : W64) : Statement (.epChkValueWrite u v) := fun _ _ hr => by cases hr
theorem wbAlertCtlWrite (v : Word) : Statement (.wbAlertCtlWrite v) := fun _ _ hr => by cases hr
theorem stagingWrite (off : Nat) (bytes : List Byte) : Statement (.stagingWrite off bytes) := fun _ _ hr => by cases hr
theorem i3cPrivateWrite (addr : W16) (bytes : List Byte) : Statement (.i3cPrivateWrite addr bytes) := fun _ _ hr => by cases hr
theorem i3cPrivateRead (n : Nat) : Statement (.i3cPrivateRead n) := fun _ _ hr => by cases hr
theorem entdaa (addr : BitVec 7) (won : Bool) : Statement (.entdaa addr won) := fun _ _ hr => by cases hr
theorem setdasa (static addr : BitVec 7) : Statement (.setdasa static addr) := fun _ _ hr => by cases hr
theorem rstdaa : Statement (.rstdaa ) := fun _ _ hr => by cases hr
theorem enec (bits : Byte) : Statement (.enec bits) := fun _ _ hr => by cases hr
theorem disec (bits : Byte) : Statement (.disec bits) := fun _ _ hr => by cases hr
theorem getpid : Statement (.getpid ) := fun _ _ hr => by cases hr
theorem getbcr : Statement (.getbcr ) := fun _ _ hr => by cases hr
theorem getdcr : Statement (.getdcr ) := fun _ _ hr => by cases hr
theorem getstatus : Statement (.getstatus ) := fun _ _ hr => by cases hr
theorem setmwl (len : W16) : Statement (.setmwl len) := fun _ _ hr => by cases hr
theorem setmrl (len : W16) : Statement (.setmrl len) := fun _ _ hr => by cases hr
theorem vector2IntervalEnd : Statement (.vector2IntervalEnd ) := fun _ _ hr => by cases hr
theorem coalesceTimeout (ring : Nat) : Statement (.coalesceTimeout ring) := fun _ _ hr => by cases hr
theorem inputPowerRise : Statement (.inputPowerRise ) := fun _ _ hr => by cases hr
theorem railsInRegulation : Statement (.railsInRegulation ) := fun _ _ hr => by cases hr
theorem undervoltageLockout : Statement (.undervoltageLockout ) := fun _ _ hr => by cases hr
theorem inputBelow20v : Statement (.inputBelow20v ) := fun _ _ hr => by cases hr
theorem inputLow : Statement (.inputLow ) := fun _ _ hr => by cases hr
theorem inputRecovered : Statement (.inputRecovered ) := fun _ _ hr => by cases hr
theorem inputOverCurrentTrip : Statement (.inputOverCurrentTrip ) := fun _ _ hr => by cases hr
theorem inputOverVoltageTrip : Statement (.inputOverVoltageTrip ) := fun _ _ hr => by cases hr
theorem railOverCurrentTrip : Statement (.railOverCurrentTrip ) := fun _ _ hr => by cases hr
theorem dieOverTemperatureTrip : Statement (.dieOverTemperatureTrip ) := fun _ _ hr => by cases hr
theorem perstAssert : Statement (.perstAssert ) := fun _ _ hr => by cases hr
theorem perstDeassert (tray slot : Nat) : Statement (.perstDeassert tray slot) := fun _ _ hr => by cases hr
theorem functionReset : Statement (.functionReset ) := fun _ _ hr => by cases hr
theorem referenceLost : Statement (.referenceLost ) := fun _ _ hr => by cases hr
theorem islandClockStop (isl : Nat) : Statement (.islandClockStop isl) := fun _ _ hr => by cases hr
theorem islandClockRestart (isl : Nat) : Statement (.islandClockRestart isl) := fun _ _ hr => by cases hr
theorem islandStopTimeout (stall : Nat) : Statement (.islandStopTimeout stall) := fun _ _ hr => by cases hr
theorem islandClockAdjust (isl khz : Nat) : Statement (.islandClockAdjust isl khz) := fun _ _ hr => by cases hr
theorem sensorConversion (sensor code : Nat) : Statement (.sensorConversion sensor code) := fun _ _ hr => by cases hr
theorem thermalEvaluation (hbmTemps : List Nat) : Statement (.thermalEvaluation hbmTemps) := fun _ _ hr => by cases hr
theorem sampleEdge : Statement (.sampleEdge ) := fun _ _ hr => by cases hr
theorem burstEnd (a b : List Nat) : Statement (.burstEnd a b) := fun _ _ hr => by cases hr
theorem sampleWindowEnd : Statement (.sampleWindowEnd ) := fun _ _ hr => by cases hr
theorem telemetryStaleTimeout : Statement (.telemetryStaleTimeout ) := fun _ _ hr => by cases hr
theorem alertHoldEnd : Statement (.alertHoldEnd ) := fun _ _ hr => by cases hr
theorem hbmTrainingEnd (res : List HbmTrain) : Statement (.hbmTrainingEnd res) := fun _ _ hr => by cases hr
theorem romSelfCheckEnd (ok : Bool) : Statement (.romSelfCheckEnd ok) := fun _ _ hr => by cases hr
theorem identityDerivationEnd : Statement (.identityDerivationEnd ) := fun _ _ hr => by cases hr
theorem firmwareVerificationEnd (sigOk : Bool) : Statement (.firmwareVerificationEnd sigOk) := fun _ _ hr => by cases hr
theorem patternSetVerified (sigOk : Bool) : Statement (.patternSetVerified sigOk) := fun _ _ hr => by cases hr
theorem clerksStart : Statement (.clerksStart ) := fun _ _ hr => by cases hr
theorem planValidationEnd (doc : PlanDoc) (certOk sigOk : Bool) : Statement (.planValidationEnd doc certOk sigOk) := fun _ _ hr => by cases hr
theorem dramInitEnd : Statement (.dramInitEnd ) := fun _ _ hr => by cases hr
theorem initialCalRoundEnd (figs : List CalFig) : Statement (.initialCalRoundEnd figs) := fun _ _ hr => by cases hr
theorem calWindowStart (array : Nat) : Statement (.calWindowStart array) := fun _ _ hr => by cases hr
theorem calPhaseEnd (array : Nat) (p : CalPhase) : Statement (.calPhaseEnd array p) := fun _ _ hr => by cases hr
theorem calWindowEnd (array : Nat) (liveErr : Int) (liveSamples : Nat) : Statement (.calWindowEnd array liveErr liveSamples) := fun _ _ hr => by cases hr
theorem calibrationOnlySample (array : Nat) (x : LiveSample) : Statement (.calibrationOnlySample array x) := fun _ _ hr => by cases hr
theorem activityGrant (array : Nat) (k : GrantFor) : Statement (.activityGrant array k) := fun _ _ hr => by cases hr
theorem scriptWordIssue (r : StoreRead) : Statement (.scriptWordIssue r) := fun _ _ hr => by cases hr
theorem mvm (stall slot : Nat) (f : MvmFault) : Statement (.mvm stall slot f) := fun _ _ hr => by cases hr
theorem combine (stall : Nat) (r : WordRun) : Statement (.combine stall r) := fun _ _ hr => by cases hr
theorem vec (stall : Nat) (r : WordRun) (int : Bool) : Statement (.vec stall r int) := fun _ _ hr => by cases hr
theorem rq (stall : Nat) (r : WordRun) : Statement (.rq stall r) := fun _ _ hr => by cases hr
theorem send (r : StoreRead) : Statement (.send r) := fun _ _ hr => by cases hr
theorem recv (stall : Nat) : Statement (.recv stall) := fun _ _ hr => by cases hr
theorem port (r : StoreRead) : Statement (.port r) := fun _ _ hr => by cases hr
theorem slot (stall : Nat) : Statement (.slot stall) := fun _ _ hr => by cases hr
theorem doneWord (stall : Nat) : Statement (.doneWord stall) := fun _ _ hr => by cases hr
theorem stallDone (stall : Nat) : Statement (.stallDone stall) := fun _ _ hr => by cases hr
theorem escalationRetryEnd (array : Nat) (f : MvmFault) : Statement (.escalationRetryEnd array f) := fun _ _ hr => by cases hr
theorem auditPathEnd (array : Nat) (readErr : List (Nat × CellRow)) : Statement (.auditPathEnd array readErr) := fun _ _ hr => by cases hr
theorem guestMvm (stall : Nat) (f : MvmFault) : Statement (.guestMvm stall f) := fun _ _ hr => by cases hr
theorem auditSample (r : StoreRead) : Statement (.auditSample r) := fun _ _ hr => by cases hr
theorem patternTest (array : Nat) (f : MvmFault) : Statement (.patternTest array f) := fun _ _ hr => by cases hr
theorem datapathPatternRun (stall entry fails : Nat) : Statement (.datapathPatternRun stall entry fails) := fun _ _ hr => by cases hr
theorem cartReceive (c : Cart) (e : FlitErr) : Statement (.cartReceive c e) := fun _ _ hr => by cases hr
theorem creditNote (n : NoteRx) : Statement (.creditNote n) := fun _ _ hr => by cases hr
theorem fencedNote (n : NoteRx) : Statement (.fencedNote n) := fun _ _ hr => by cases hr
theorem completionNote (n : NoteRx) : Statement (.completionNote n) := fun _ _ hr => by cases hr
theorem errorReportNote (n : NoteRx) : Statement (.errorReportNote n) := fun _ _ hr => by cases hr
theorem countingHouseOrder (n : NoteRx) : Statement (.countingHouseOrder n) := fun _ _ hr => by cases hr
theorem creditTimeout (stall : Nat) : Statement (.creditTimeout stall) := fun _ _ hr => by cases hr
theorem replayQuiesced (domain : Nat) : Statement (.replayQuiesced domain) := fun _ _ hr => by cases hr
theorem recoveryTimeout (domain : Nat) : Statement (.recoveryTimeout domain) := fun _ _ hr => by cases hr
theorem porterUnitComplete (porter ch : Nat) (u : UnitDone) : Statement (.porterUnitComplete porter ch u) := fun _ _ hr => by cases hr
theorem translationWalkEnd (porter ch : Nat) (kva : Nat) (write : Bool) : Statement (.translationWalkEnd porter ch kva write) := fun _ _ hr => by cases hr
theorem pageAllocationRequest (r : PageReq) : Statement (.pageAllocationRequest r) := fun _ _ hr => by cases hr
theorem pageInvalidationComplete (ticket : Nat) : Statement (.pageInvalidationComplete ticket) := fun _ _ hr => by cases hr
theorem hbmReread (addr porter ch : Nat) (recovered : Bool) : Statement (.hbmReread addr porter ch recovered) := fun _ _ hr => by cases hr
theorem hbmScrub (addr : Nat) (corrected : Bool) : Statement (.hbmScrub addr corrected) := fun _ _ hr => by cases hr
theorem linkTrained (port sub : Nat) (preempt : Bool) : Statement (.linkTrained port sub preempt) := fun _ _ hr => by cases hr
theorem probe (r : Rx) : Statement (.probe r) := fun _ _ hr => by cases hr
theorem probeVerified (port sub : Nat) (reportOk : Bool) : Statement (.probeVerified port sub reportOk) := fun _ _ hr => by cases hr
theorem probeTimeout (port sub : Nat) : Statement (.probeTimeout port sub) := fun _ _ hr => by cases hr
theorem heldDownProbeResend (port sub : Nat) : Statement (.heldDownProbeResend port sub) := fun _ _ hr => by cases hr
theorem linkLoss (port sub : Nat) : Statement (.linkLoss port sub) := fun _ _ hr => by cases hr
theorem frameDrop (port sub : Nat) (why : DropWhy) : Statement (.frameDrop port sub why) := fun _ _ hr => by cases hr
theorem dataFrame (r : Rx) : Statement (.dataFrame r) := fun _ _ hr => by cases hr
theorem contrib (r : Rx) : Statement (.contrib r) := fun _ _ hr => by cases hr
theorem unitFrame (r : Rx) : Statement (.unitFrame r) := fun _ _ hr => by cases hr
theorem ackFrame (r : Rx) : Statement (.ackFrame r) := fun _ _ hr => by cases hr
theorem openFrame (r : Rx) : Statement (.openFrame r) := fun _ _ hr => by cases hr
theorem openAck (r : Rx) : Statement (.openAck r) := fun _ _ hr => by cases hr
theorem closeFrame (r : Rx) : Statement (.closeFrame r) := fun _ _ hr => by cases hr
theorem bellUp (r : Rx) : Statement (.bellUp r) := fun _ _ hr => by cases hr
theorem bellDown (r : Rx) : Statement (.bellDown r) := fun _ _ hr => by cases hr
theorem replayReq (r : Rx) : Statement (.replayReq r) := fun _ _ hr => by cases hr
theorem order (r : Rx) : Statement (.order r) := fun _ _ hr => by cases hr
theorem cancel (r : Rx) : Statement (.cancel r) := fun _ _ hr => by cases hr
theorem query (r : Rx) : Statement (.query r) := fun _ _ hr => by cases hr
theorem maskWrite (r : Rx) : Statement (.maskWrite r) := fun _ _ hr => by cases hr
theorem ackTimer (flow : Nat) : Statement (.ackTimer flow) := fun _ _ hr => by cases hr
theorem retransmitTimeout (flow psn : Nat) : Statement (.retransmitTimeout flow psn) := fun _ _ hr => by cases hr
theorem flowFailTimeout (flow : Nat) : Statement (.flowFailTimeout flow) := fun _ _ hr => by cases hr
theorem quarantineEnd (flow : Nat) : Statement (.quarantineEnd flow) := fun _ _ hr => by cases hr
theorem rateLimitRise (flow : Nat) : Statement (.rateLimitRise flow) := fun _ _ hr => by cases hr
theorem bellResend (domain : Nat) : Statement (.bellResend domain) := fun _ _ hr => by cases hr
theorem readinessResend (domain : Nat) : Statement (.readinessResend domain) := fun _ _ hr => by cases hr
theorem pacePoint (domain : Nat) : Statement (.pacePoint domain) := fun _ _ hr => by cases hr
theorem deviceDone (domain : Nat) (wireError : Bool) : Statement (.deviceDone domain wireError) := fun _ _ hr => by cases hr
theorem localBell (domain : Nat) : Statement (.localBell domain) := fun _ _ hr => by cases hr
theorem clerkHandover : Statement (.clerkHandover ) := fun _ _ hr => by cases hr
theorem fwConfirm (bad : List Nat) : Statement (.fwConfirm bad) := fun _ _ hr => by cases hr
theorem confirmationWindowExpiry : Statement (.confirmationWindowExpiry ) := fun _ _ hr => by cases hr
theorem clerkTrap : Statement (.clerkTrap ) := fun _ _ hr => by cases hr
theorem scheduleSend (domain : Nat) : Statement (.scheduleSend domain) := fun _ _ hr => by cases hr
theorem handleRetentionEnd (ticket : Nat) : Statement (.handleRetentionEnd ticket) := fun _ _ hr => by cases hr
theorem restockHeaderVerified (part : Nat) (header : List Byte) (leaves : List Digest) (sigOk wrapOk : Bool) : Statement (.restockHeaderVerified part header leaves sigOk wrapOk) := fun _ _ hr => by cases hr
theorem erasePulseEnd (array : Nat) : Statement (.erasePulseEnd array) := fun _ _ hr => by cases hr
theorem rowProgramEnd (array : Nat) : Statement (.rowProgramEnd array) := fun _ _ hr => by cases hr
theorem verifyReadEnd (array plane : Nat) (r : PlaneRead) : Statement (.verifyReadEnd array plane r) := fun _ _ hr => by cases hr
theorem planeHashWrite (array : Nat) : Statement (.planeHashWrite array) := fun _ _ hr => by cases hr
theorem referenceRestored : Statement (.referenceRestored ) := fun _ _ hr => by cases hr
theorem pfcFrame (port sub : Nat) (paused : Nat) : Statement (.pfcFrame port sub paused) := fun _ _ hr => by cases hr
theorem lldpFrame (port sub : Nat) (preempt : Bool) : Statement (.lldpFrame port sub preempt) := fun _ _ hr => by cases hr
theorem inBandInterruptTaken : Statement (.inBandInterruptTaken ) := fun _ _ hr => by cases hr

end Sys2Proof.Laws.Shape
end

