-- ==== Sys2Proof/Laws/Rings.lean ====
section
/-! SUPPORT. What a host command can do: it is taken, judged, and its completion posted (R406, R409-R411). -/
namespace Sys2Proof.Machine

/-- ringMsg and coalesce change the interrupt side of the host interface and the rings' counts alone. -/
theorem msix_out (v : Nat) (d : Dev) : (msix v d).out.filter isCompletion = d.out.filter isCompletion := by
  unfold msix; split <;> simp [emit, isCompletion]

theorem coalesce_parts (i : Nat) (q : Bool) (d : Dev) :
    ∃ h o, coalesce i q d = { d with host := h, out := o } ∧ o.filter isCompletion = d.out.filter isCompletion := by
  unfold coalesce
  split
  · exact ⟨d.host, d.out, rfl, rfl⟩
  · simp only []
    split
    · simp only [ringMsg, msix]
      split
      · exact ⟨_, _, rfl, by simp [emit, isCompletion, modRing, setRing]⟩
      · exact ⟨_, _, rfl, rfl⟩
    · exact ⟨_, _, rfl, rfl⟩

/-- A completion that can be written: the host interface and the outputs change, and one completion is added. -/
theorem post_parts (i op : Nat) (cid : W16) (fl : Byte) (head : Nat) (st : Status) (res : Nat) (d : Dev) :
    ∃ h o, post i op cid fl head st res true d = { d with host := h, out := o } ∧
      o.filter isCompletion = d.out.filter isCompletion ++
        [.completion i (cplAddr (getRing d i)) (cplEntry cid op st d.state (getRing d i).phase (if st = .ok ∨ op = 0x0020 then res else 0) head)] := by
  unfold post
  simp only [Bool.not_true, Bool.false_eq_true, if_false]
  obtain ⟨h, o, h1, h2⟩ := coalesce_parts i (fl.getLsbD 0) (setRing
    (emit (Out.completion i (cplAddr (getRing d i)) (cplEntry cid op st d.state (getRing d i).phase (if st = .ok ∨ op = 0x0020 then res else 0) head)) d) i
    { getRing d i with
      cplTail := ((getRing d i).cplTail + 1) % ringSize (getRing d i), phase := if ((getRing d i).cplTail + 1) % ringSize (getRing d i) = 0 then ! (getRing d i).phase else (getRing d i).phase, job := none,
      enable := (getRing d i).enable && ! (getRing d i).stopping, running := (getRing d i).running && ! (getRing d i).stopping, stopping := false })
  refine ⟨h, o, h1, ?_⟩
  rw [h2]
  simp [setRing, emit, isCompletion]

/-- The device after it has read c's entry. -/
def entered (c : Cmd) (s : State) : Dev := takeEntry c.ring (tickCycle s.dev)

/-- A command that its own rule completes at once. -/
theorem hostCmd_now {op : Nat} {c : Cmd} {s : State} {own : Dev → Dev × Verdict} {d' : Dev} {st : Status} {res : Nat}
    (h : Accepted op c s) (ho : own (entered c s) = (d', .now st res)) :
    onDev (hostCmd op c own) s = .next { s with dev := post c.ring c.opcode c.cid c.flags (getRing (entered c s) c.ring).head st res true d' } := by
  obtain ⟨h1, h2, h3, h4, h5⟩ := h
  have hs : serves (tickCycle s.dev) c.ring = true := h1
  have hl : legal op (entered c s).state (fwRuns (entered c s)) = true := h4
  unfold entered at ho hl
  simp [onDev, hostCmd, hs, h2, h3, hl, ho, h5, entered]

/-- A command that completes by a later event. -/
theorem hostCmd_later {op : Nat} {c : Cmd} {s : State} {own : Dev → Dev × Verdict} {d' : Dev}
    (h : Accepted op c s) (ho : own (entered c s) = (d', .later)) :
    onDev (hostCmd op c own) s = .next { s with dev := modRing c.ring (fun r => { r with job := some (
      { opcode := c.opcode, cid := c.cid, flags := c.flags, params := c.params, head := (getRing (entered c s) c.ring).head, wrOk := c.wrOk } : Job) }) d' } := by
  obtain ⟨h1, h2, h3, h4, h5⟩ := h
  have hs : serves (tickCycle s.dev) c.ring = true := h1
  have hl : legal op (entered c s).state (fwRuns (entered c s)) = true := h4
  unfold entered at ho hl
  simp [onDev, hostCmd, hs, h2, h3, hl, ho, h5, entered]

/-- Reading an entry moves the ring's head and nothing else of the ring. -/
theorem entered_ring (c : Cmd) (s : State) :
    getRing (entered c s) c.ring = { getRing s.dev c.ring with head := ((getRing s.dev c.ring).head + 1) % ringSize (getRing s.dev c.ring) } := by
  simp [entered, takeEntry, modRing, getRing, setRing]

/-- Everything but the host interface is as before. -/
theorem entered_parts (c : Cmd) (s : State) : ∃ h, entered c s = { tickCycle s.dev with host := h } := ⟨_, rfl⟩

end Sys2Proof.Machine
end

