-- ==== Sys2Proof/Tests/Slice0.lean ====
section
/-! SUPPORT. Tests of the model. First the check of commands: every range check of WellFormed.lean refuses a term outside
it. Then values that a publication or an example of the spec states, and one step of a small state for some commands, by the
rule named. Then, for every statement of Certificates/Slice0 that has hypotheses, one theorem witness_<Name> with a state
and operands that meet them together, one part for each clause. -/
namespace Sys2Proof.Tests
open Sys2Proof.Machine

-- one theorem at a time: the kernel evaluates each
set_option Elab.async false

/-- A host command on ring 0 with these parameters as a number (entry byte 8 lowest). -/
def cmd (op p : Nat) : Cmd := { ring := 0, opcode := op, cid := 7, flags := 0, rsv := 0, params := BitVec.ofNat 448 p, wrOk := true }

/-- Entry byte b set to v. -/
def pb (b v : Nat) : Nat := v * 2 ^ (8 * (b - 8))

def img : FwImage := { version := 5, svn := 1, digest := 0, flags := 0, revoke := 0, key := 0, handover := 0, patterns := none }

/-- A device in a state, with ring 0 holding one entry and firmware running. -/
def base (st : DevState) : Dev :=
  { state := st, host := { rings := [(0, { enable := true, running := true, log2 := 1, tail := 1 })] }, sec := { running := some img },
    pwr := { railsGood := true, perst := false, outOfReset := true } }

def mk (d : Dev) : State := { pending := [], nv := {}, mem := [], dev := d }

def job : Job := { opcode := 0x10, cid := 7, flags := 0, params := 0, head := 1, wrOk := true }

/-- base with a command in progress on ring 0. -/
def busy (st : DevState) : Dev := { base st with host := { rings := [(0, { enable := true, running := true, log2 := 1, tail := 1, head := 1, job := some job })] } }

/-- Ring 0's next completion slot is taken: the ring is not served. -/
def part0 : PartEntry := { num := 0, kind := 0, domain := 0, stage := 0, tsr := 0, role := 1, stalls := [0, 1] }
def dom0 : DomainEntry := { num := 0, machine := false, parent := none, children := [], depth := 0, stalls := [0, 1] }
def step0 : StepEntry := { base := 100, slots := 1, allow := 0, widePct := 0, outRes := 0, fwWindow := 0, first := 5 }
def chunk0 : ChunkEntry := { crate := 9, chunk := 0, param := 0, array := 2, plane := 3, planes := 1, format := 0, part := 0 }
def port0 : PortEntry :=
  { port := 1, sub := 0, ways := 1, role := 1, peerRank := 1, peerPort := 1, peerSub := 0, vlan := 0, pcp := 0, flags := 0, dscp := 0, mac := 0, ip := 0,
    peerIp := 0, expectId := 0 }
def flow0 : FlowEntry :=
  { index := 3, cls := 1, port := 1, sub := 0, altPort := 2, altSub := 0, peerIndex := 4, peerRank := 1, domain := 0, txPort := 1, txQueue := 0, dest := 1,
    queue := 6, route := 0 }
def serve0 : ServeCfg :=
  { stages := 1, slots := 1, stageRanks := [[0]], reportRank := 0, kvBytes := 64, tpp := 1024, maxContext := 65536, kvTokens := 65536, prefillDepth := 1,
    waitCapUs := 60000000, retentionUs := 2000, queues := [(0, 4)], layers := 1 }

/-- A plan of one local domain of two stalls and one stock partition. -/
def doc : PlanDoc :=
  { parts := [part0], chunks := [chunk0], scripts := [], kernels := [], combines := [], routes := [], detours := [], faultMap := [], queues := [], descs := [],
    regions := [], tables := [], cats := [], ports := [port0], flows := [flow0], peerRecs := [], allow := [], domains := [dom0], flagMap := [], steps := [step0],
    oAllow := 0, theta := 0, eLo := 0, outBudget := 64, rateLog2 := 12, modelDevices := 1, floors := [], consts := [], pubKeys := [], digests := [], shelf := none,
    serve := some serve0, initCap := 60, initKvLow := 0, tableTpp := 0, tableLayers := 0 }

def planOf (p : PlanDoc) : PlanSt := { plan := some { doc := p, planId := 1, arith := 0, sliceId := 2, rank := 0, size := 2, audit := true, digest := 0 } }

/-- base with a plan in force and domain 0 in step 5. -/
def run (p : PlanDoc) (x : Dom) : Dev := { base .serving with plan := planOf p, doms := [(0, x)] }

def going : Dom := { running := true, belled := true, step := 5 }

/-- A script word: operation, selector, lines A, B, C. -/
def sw (op sel a b c : Nat) : W64 := BitVec.ofNat 64 (op * 2 ^ 56 + sel * 2 ^ 45 + a * 2 ^ 32 + b * 2 ^ 16 + c)

/-- Stall 0 with one issued word. -/
def issued (w : W64) (slot : Nat) : Stall := { pc := 1, issued := [{ pos := 0, word := w, slot := slot, cover := false, held := false, mask := false, owed := [] }] }

def word (w : W64) (slot : Nat) : Issued := { pos := 0, word := w, slot := slot, cover := false, held := false, mask := false, owed := [] }

def withStall (x : Stall) (d : Dev) : Dev := { d with mkt := { d.mkt with stalls := [(0, x)] } }
def withArr (a : Nat) (x : Arr) (d : Dev) : Dev := { d with mkt := { d.mkt with arrays := [(a, x)] } }

/-- A frame that sub-port (1, 0) takes on flow 3, generation 1. -/
def rx (typ cls : Nat) (flags : Byte) (aux : W64) (payload : List Byte) : Rx :=
  let r : Rx := { port := 1, sub := 0, src := 0, typ := typ, cls := cls, cart := 0, flags := flags, handle := 6145, psn := 0, ack := 0, alive := 0, step := 5,
                  aux := aux, payload := payload, crc := 0, ce := false }
  { r with crc := rxCrc r }

def theFlow (cls : Nat) : Flow := { inUse := true, opened := true, gen := 1, cls := cls, port := 1 }

/-- Flow 3 on sub-port (1, 0), which is UP. -/
def withFlow (x : Flow) (d : Dev) : Dev := { d with eth := { subs := [(8, { state := .up })], flows := [(3, x)] } }

/-- An erased plane's block: 512 zeros. -/
def blk : Block := { fmt := 0, mark := false, wide := false, exp := 0, nSat := 0, nZero := 0, xs := [], shadow := [] }

def stage (l : List (Nat × List Byte)) : List Host.Cell := l.flatMap fun e => cellsAt (stagingBase + e.1) e.2

/-- n zero bytes. -/
def zs (n : Nat) : List Byte := List.replicate n 0

/-- A firmware image of no body, version 9, key 0, at the start of the command part of staging; its key is 1,312 zeros. -/
def fwb : List Byte :=
  asciiBytes "DXFIRMWR" ++ [1] ++ zs 7 ++ leBytes 8 9 ++ zs 8 ++ digestBytes 0x4a43f8804b0ad882fa493be44dff80f562d661a05647c15166d71ebff8c6ffa7 ++ zs 3968
def fwMem : List Host.Cell := cellsAt (stagingBase + 0x0F000000) fwb
def fwRom : NonVol := { romKeys := [sha3 (sub fwb 256 1312)] }
def fwJob (a : Option ArmedFw) : FwJob := { ring := 0, off := 0x0F000000, len := 4032, activate := a }

/-- The entry of a root certificate: for the manifest key, under the root of 1,312 zeros. -/
def rootDigest : Digest := sha3 (zs 1312)
def certHead : List Byte := asciiBytes "DXCERT01" ++ [0, 1] ++ zs 6 ++ zs 1312
def certEntry : List Byte := ([2] ++ zs 15) ++ (digestBytes rootDigest ++ zs 3732)
def stepBytes : List Byte := leBytes 2 100 ++ leBytes 2 1 ++ zs 12 ++ leBytes 8 5 ++ zs 8
def portBytes : List Byte := (List.range 12).flatMap fun n => [BitVec.ofNat 8 n, 0, 1] ++ zs 61
/-- Type, first byte, length and item count of each section. -/
def planSections : List (Nat × Nat × Nat × Nat) :=
  (List.range 9).map (fun i => (i + 1, 768 + 64 * i, 1, 0)) ++ [(10, 1728, 768, 12), (11, 1344, 1, 0), (12, 1408, 32, 1)] ++
    (List.range 4).map (fun i => (13 + i, 1472 + 64 * i, 1, 0))
def planHead : List Byte :=
  asciiBytes "SKOVPLAN" ++ [2, 0, 16, 0] ++ zs 4 ++ leBytes 8 10032 ++ zs 24 ++ [0, 0, 1, 0] ++ zs 36 ++ leBytes 8 2496 ++ leBytes 4 5108 ++ zs 156 ++
    planSections.flatMap (fun e => leBytes 4 e.1 ++ leBytes 8 e.2.1 ++ leBytes 8 e.2.2.1 ++ leBytes 4 e.2.2.2 ++ zs 8) ++
    (zs 640 ++ (stepBytes ++ zs 288) ++ portBytes)
/-- An image of a plan of 16 sections with one step and twelve ports without a link, for any device. -/
def planBody : List Byte := planHead ++ ((certHead ++ certEntry) ++ zs 2420)
def planImg : List Byte := planBody ++ (leBytes 8 (crcOf 2 planBody).toNat ++ [])
def planMem : List Host.Cell := cellsAt stagingBase planImg
/-- Its sections: one domain and one partition of two stalls, no script, no flow. -/
def small : PlanDoc :=
  { parts := [{ part0 with role := 0 }], chunks := [], scripts := [], kernels := [], combines := [], routes := [], detours := [], faultMap := [],
    queues := [], descs := [],
    regions := [{ kind := .ticket, base := 0, size := 0x20000000 }, { kind := .pfx, base := 0x20000000, size := 0x10000000 },
      { kind := .kv, base := 0x30000000, size := 0x4000000 }, { kind := .journal, base := 0x34000000, size := 0x10000 }],
    tables := [], cats := [], ports := [], flows := [], peerRecs := [], allow := [], domains := [dom0], flagMap := [], steps := [],
    oAllow := 0, theta := 0, eLo := 0, outBudget := 64, rateLog2 := 12, modelDevices := 1, floors := [], consts := [], pubKeys := [], digests := [],
    shelf := none, serve := none, initCap := 60, initKvLow := 0, tableTpp := 0, tableLayers := 0, places := { ports := (0, 12) } }
/-- The plan that the image and those sections make. -/
def smallRead : PlanDoc :=
  { small with ports := (List.range 12).map (fun n => { port := n, sub := 0, ways := 1, role := 0, peerRank := 0, peerPort := 0, peerSub := 0, vlan := 0, pcp := 0,
                                                        flags := 0, dscp := 0, mac := 0, ip := 0, peerIp := 0, expectId := 0 }),
               steps := [step0] }

def dig0 : DigestEntry := { part := 0, crate := 9, gen := 4, root := 11, chunks := 1, leaves := [11], seeds := [3] }

/-- doc with the digests of its one chunk, and a flow as the source. -/
def stockDoc : PlanDoc := { doc with digests := [dig0], pubKeys := [12] }

/-- A device that holds partition 0's table, and flow 3 in use as handle 6145. -/
def stockDev (st : DevState) (x : Part) : Dev :=
  { base st with plan := planOf stockDoc, stock := { parts := [(0, x)] }, eth := { flows := [(3, theFlow 1)] } }

/-- Live generation 4 of chunk 0, complete; side generation 5, complete. -/
def live4 : Part := { live := 4, liveMap := [((0, 0), (2, 3))], liveDone := [0] }
def side5 : Part := { live4 with side := 5, sideState := 2, sideMap := [((0, 0), (2, 9))], sideDone := [0] }

def rst : Restock :=
  { gen := 5, inPlace := false, srcKind := 1, src := 6145, stamp := 0, place := [(0, 2, 9)], verified := false, halted := false, ring := 0, range := (0, 0), root := 0,
    leaves := [], sealed := false, rx := [], refetched := [], done := [], total := 1, key := [] }

/-- A crate's header: partition kind 0, crate 9, generation gen, one chunk, root 11, key 12. -/
def hdr (gen : Nat) : List Byte :=
  asciiBytes "SKOVCRAT" ++ leBytes 2 1 ++ [0, 0] ++ leBytes 4 9 ++ leBytes 4 gen ++ leBytes 4 1 ++ List.replicate 8 (0 : Byte) ++ digestBytes 11 ++ digestBytes 12

def desc0 : Desc :=
  { porter := 0, idx := 3, op := 0, srcSpace := 0, dstSpace := 0, inSlot := false, check := false, crcCode := 0, countFromSlot := false, notifyOn := false, toRing := false,
    src := 0x1000, dst := 0x2000, length := 16, count := 1, stride := 0, expect := 0, notify := 0, tag := 0, queue := 0 }

def chan0 (st : ChanState) (x : Desc) : Chan := { state := st, d := some x, total := 16, bytes := 16, desc := 3 }

/-- base with channel 0 of porter 0. -/
def chanDev (st : DevState) (x : Chan) : Dev := { base st with plan := planOf doc, dram := { chans := [(0, x)] } }

/-- A ticket with handle 1 (index 1, generation 0). -/
def tick (st : TState) : Ticket := { gen := 1, state := st }
def tickDev (st : DevState) (x : Ticket) : Dev := { run doc going with state := st, srv := { tickets := [(1, x)] } }

/-- Array 2 in a phase of its window. -/
def arrDev (st : DevState) (x : Arr) : Dev :=
  withArr 2 x { base st with plan := planOf doc, mkt := { initDone := true } }

/-- A running device whose stall 0 has a script of these words, and the stall as given. -/
def scriptDev (ws : List W64) (x : Stall) : Dev :=
  withStall x (run { doc with scripts := [{ stall := 0, words := ws, cover := none }] } going)

/-- One word issued at stall 0. -/
def wordDev (w : W64) : Dev := scriptDev [w] (issued w 0xFFFF)

/-- A block whose entry 0 is v, at lines 10 on of stall 0. -/
def blkOf (v : Int) : Block := { blk with xs := v :: List.replicate 511 (0 : Int) }
def withBlock (v : Int) (d : Dev) : Dev := setLines d 0 10 (blockOut (blkOf v))

/-- An MVM word: array 2, plane 3, block at line 10, results at 200, scales at 300. -/
def mvmWord : W64 := sw 1 (2 * 128 + 3 * 2) 10 200 300
def mvmDev (v : Int) : Dev :=
  { withBlock v (withArr 2 { grant := some .mvm } (wordDev mvmWord)) with stock := { parts := [(0, live4)] } }
/-- Row 0 of the plane: bit 0 is ON, and no seal column. -/
def plane1 : NonVol := { cells := [((2 * 64 + 3) * 512, 1)] }
def esc0 (stage kind : Nat) : Esc := { stall := 0, word := 0, kind := kind, stage := stage, plane := 3, prior := 0, guest := false, l := 0, pat := none }
def escDev (stage : Nat) (g : Option GrantFor) (v : Int) : Dev := withArr 2 { grant := g, esc := some (esc0 stage 1) } (mvmDev v)

/-- A load is launched and comes to its end. -/
def landed (l : Load) (d : Dev) : Dev := settleNets (launch l d)

def route0 : RouteEntry := { at_ := 0, idx := 4, dest := 1, queue := 6, mode := 0, linkValid := false, link := 0, members := 0 }
def sendWord : W64 := sw 5 4 10 1 0
def sendDev : Dev :=
  let d := wordDev sendWord
  { d with plan := planOf { doc with scripts := [{ stall := 0, words := [sendWord], cover := none }], routes := [route0],
                                     queues := [{ stall := 1, regions := [], queues := [(6, 1)], carried := [] }] } }
def cart0 : Cart :=
  { dest := 0, src := 1, typ := 1, queue := 6, route := 0, mode := 0, vc := 0, members := 0, slot := 0xFFFF, step := 5, seq := 0, addr := 0, flits := [7, 8] }
def note0 (typ : Nat) : Note := { dest := 0, src := 1, typ := typ, len := 0, body := 0, extra := [] }

def prog0 (p : ProgPhase) : Prog :=
  { array := 2, plane := 3, why := .restock 0 0 0, phase := p, again := false, crate := 9, gen := 5, chunk := 0, off := 0, format := 0, seed := 3, stamp := 0,
    rows := [5], todo := [], count := 1 }
def progDev (g : GrantFor) (ps : List Prog) : Dev :=
  withArr 2 { grant := some g } { base .stocking with plan := planOf stockDoc, stock := { parts := [(0, live4)], progs := ps } }
/-- A PLAN_LOAD in progress. -/
def planBusy : Dev := { base .awaitPlan with host := { rings := [(0, { enable := true, running := true, log2 := 1, tail := 1, head := 1, job := some { job with opcode := 0x20 } })] } }

/-- Sub-port (1, 0) in a state. -/
def portDev (x : SubPort) : Dev := { base .serving with plan := planOf { doc with ports := [{ port0 with flags := 0x0E }] }, eth := { subs := [(8, x)] } }
def service0 : PortEntry := { port0 with role := 2 }

/-- A device with flow 3 of a class open on sub-port (1, 0), and its table entry. -/
def flowDoc : PlanDoc :=
  { doc with queues := [{ stall := 1, regions := [], queues := [(6, 4)], carried := [] }], flows := [flow0], peerRecs := [{ idx := 2, c := [3], scales := [0x3F80] }] }
def flowDev (cls : Nat) : Dev := withFlow (theFlow cls) (run flowDoc going)
def stepRx (typ cls : Nat) (aux : W64) (payload : List Byte) : Rx := rx typ cls 4 aux payload

/-- One record, of record 2: exponent 0 and the sum 7, and its seal. -/
def contribBytes (sealed : Nat) : List Byte := beBytes 2 2 ++ beBytes 2 0 ++ beBytes 2 1 ++ beBytes 2 0 ++ beBytes 4 7 ++ beBytes 4 sealed

/-- A front device: customer 5 may send, on the flow 3 of class 3. -/
def cat0 : CatEntry := { part := 0, format := 0, segments := 1, dims := 2, queryCost := 3, kMax := 4, sets := 1, maskBase := 0, idEnd := 128, owners := [5] }
def frontDev : Dev :=
  { flowDev 3 with plan := planOf { flowDoc with cats := [cat0], flows := [{ flow0 with cls := 3 }] },
                   srv := { customers := [(5, { enable := true, q := 5, burst := 100 })] } }
def catDev : Dev :=
  { frontDev with plan := planOf { flowDoc with parts := [{ part0 with kind := 2 }], cats := [cat0], flows := [{ flow0 with cls := 3 }] } }
def serviceRx (op : Nat) (b : List Byte) : Rx := rx 12 3 4 (BitVec.ofNat 64 (op * 2 ^ 56)) b
/-- A greedy order of customer 5 for one token of a prompt of one token. -/
def orderBytes : List Byte :=
  beBytes 4 77 ++ beBytes 2 5 ++ beBytes 2 0 ++ List.replicate 20 (0 : Byte) ++ beBytes 4 0xFFFFFFFF ++ beBytes 4 1 ++ beBytes 4 0 ++ beBytes 4 1 ++
    List.replicate 20 (0 : Byte) ++ beBytes 4 9
def queryBytes : List Byte := beBytes 4 77 ++ beBytes 2 5 ++ [0, 0, 0, 0] ++ beBytes 2 4 ++ beBytes 2 0 ++ beBytes 2 2 ++ List.replicate 16 (0 : Byte) ++ [0, 1, 0, 2]
def maskBytes (cust : Nat) : List Byte := beBytes 4 77 ++ beBytes 2 cust ++ beBytes 2 1 ++ beBytes 8 8 ++ beBytes 4 8 ++ [0xFF]

/-- Domain 0 machine-wide, between the parent 1 and the child 2, with two paths to each. -/
def treePort (p rank : Nat) : PortEntry := { port0 with port := p, peerRank := rank }
def treeDoc : PlanDoc :=
  { doc with domains := [{ dom0 with machine := true, parent := some 1, children := [2] }],
             ports := [treePort 1 1, treePort 2 1, treePort 3 2, treePort 4 2] }
def treeDev (x : Dom) : Dev :=
  { run treeDoc x with eth := { subs := [(8, { state := .up }), (16, { state := .up }), (24, { state := .up }), (32, { state := .up })] } }
def bellBytes (rank : Nat) (flags : Byte) : List Byte :=
  [0, 1] ++ beBytes 2 rank ++ List.replicate 12 (0 : Byte) ++ [flags] ++ List.replicate 79 (0 : Byte)
def bellRx (typ port : Nat) (stepNo : Nat) (b : List Byte) : Rx :=
  let r : Rx := { rx typ 0 0 (BitVec.ofNat 64 stepNo) b with port := port, handle := 0 }
  { r with crc := rxCrc r }
def stallsDoneDev (d : Dev) : Dev := { d with mkt := { stalls := [(0, { done := true }), (1, { done := true })] } }

def loadDev : Dev := { busy .awaitFw with sec := { fwJobs := [fwJob none] } }
def armDev : Dev :=
  { busy .serving with sec := { fwJobs := [fwJob (some (ArmedFw.mk 0 0 5))], running := some img }, plan := planOf doc }

def guestCart : Cart := { cart0 with flits := blockOut (blkOf 1) }
def guestDev : Dev :=
  { mvmDev 1 with net := { redirects := [(2, 33)] },
                  mkt := { (mvmDev 1).mkt with arrays := [(33, { grant := some .guest })],
                                               stalls := [(0, issued mvmWord 0xFFFF), (2, { guests := [(0, 0, guestCart)] })] } }

/-- A fleet pattern whose block is blkOf 1, and a device that tests it. -/
def patEntry : List Byte := zs 64 ++ (blockOut (blkOf 1)).flatMap fun l => leBytes 64 l.toNat
def patSet : PatSet := PatSet.mk 8 [patEntry]
def patDev : Dev :=
  { withArr 2 { grant := some .pattern } (mvmDev 1) with mkt := { (withArr 2 { grant := some .pattern } (mvmDev 1)).mkt with pats := some patSet } }

/-- A plane with nothing but the tag of a program of no rows. -/
def tagOnly : SMap CellRow := opEnd { prog0 .tag with rows := [] } [] 0 []

/-- What a command leaves. -/
def after (o : Host.Outcome State Fault Refusal) (p : State → Bool) : Bool := match o with | .next t => p t | _ => false

theorem rxCrc_crc (r : Rx) (c : Word) : rxCrc { r with crc := c } = rxCrc r := rfl
theorem rx_crc (t c : Nat) (f : Byte) (a : W64) (b : List Byte) : (rx t c f a b).crc = rxCrc (rx t c f a b) := by
  unfold rx; exact (rxCrc_crc _ _).symm
theorem bellRx_crc (t p n : Nat) (b : List Byte) : ((bellRx t p n b).crc = rxCrc (bellRx t p n b)) = True := by
  apply eq_true; unfold bellRx; exact (rxCrc_crc _ _).symm
theorem serviceRx_crc (op : Nat) (b : List Byte) : ((serviceRx op b).crc = rxCrc (serviceRx op b)) = True := eq_true (rx_crc _ _ _ _ _)

theorem fwCheck_passes {d : Dev} {nv : NonVol} {m : List Host.Cell} {j : FwJob} (b : List Byte) (hb : staged m j.off j.len = b)
    (h1 : 0x0F000000 ≤ j.off ∧ j.off + j.len ≤ 0x10000000 ∧ j.len ≤ 0x400000 ∧ 4032 ≤ j.len) (h2 : j.len = 1600 + leAt b 12 4 + 2432)
    (h3 : b.take 8 = asciiBytes "DXFIRMWR" ∧ leAt b 8 2 = 1 ∧ (fwImage b).svn ≤ 64 ∧ (fwImage b).flags.toNat < 8 ∧ (fwImage b).revoke < 16 ∧ leAt b 72 184 = 0 ∧
      leAt b 1568 32 = 0 ∧ bitOf (fwImage b).flags.toNat 0 = false)
    (h4 : ∀ a, j.activate = some a → (domEntry d a.domain).isSome = true ∧ a.window = 5 ∧ a.step = 0 ∧
      (∀ r, d.sec.running = some r → (fwImage b).handover / 256 = r.handover / 256) ∧ (fwVersion d).toNat < (fwImage b).version.toNat)
    (h5 : nv.romKeys[(fwImage b).key]? = some (sha3 (sub b 256 1312)) ∧ nv.fuses.revoked.getLsbD (fwImage b).key = false)
    (h6 : (fwImage b).digest = sha3 (sub b 1600 (leAt b 12 4))) (h7 : floorOf nv.fuses ≤ (fwImage b).svn) : fwCheck d nv m j true = none := by
  obtain ⟨a1, a2, a3, a4⟩ := h1
  obtain ⟨b1, b2, b3, b4, b5, b6, b7, b8⟩ := h3
  have e1 : (! (decide (0x0F000000 ≤ j.off) && decide (j.off + j.len ≤ 0x10000000) && decide (j.len ≤ 0x400000) && decide (4032 ≤ j.len))) = false := by
    simp [a1, a2, a3, a4]
  have e3 : (! (decide (b.take 8 = asciiBytes "DXFIRMWR") && decide (leAt b 8 2 = 1) && decide ((fwImage b).svn ≤ 64) && decide ((fwImage b).flags.toNat < 8) &&
      decide ((fwImage b).revoke < 16) && decide (leAt b 72 184 = 0) && decide (leAt b 1568 32 = 0) &&
      (! bitOf (fwImage b).flags.toNat 0 || decide (leAt b 64 4 + leAt b 68 4 ≤ leAt b 12 4)))) = false := by
    simp only [b1, b2, b3, b4, b5, b6, b7, b8, decide_true, Bool.not_false, Bool.true_or, Bool.and_true, Bool.not_true]
  have e5 : (! (decide (nv.romKeys[(fwImage b).key]? = some (sha3 (sub b 256 1312))) && ! nv.fuses.revoked.getLsbD (fwImage b).key)) = false := by
    simp only [h5.1, h5.2, decide_true, Bool.not_false, Bool.and_true, Bool.not_true]
  unfold fwCheck
  simp only [hb, e1, e3, e5, h6, ← h2, Nat.not_lt.mpr h7, ne_eq, not_true_eq_false, Bool.false_eq_true, if_false, Bool.not_true]
  cases hj : j.activate with
  | none => rfl
  | some a =>
    obtain ⟨d1, d2, d3, d4, d5⟩ := h4 a hj
    cases hr : d.sec.running with
    | none => simp [d1, d2, d3, Nat.not_le.mpr d5]
    | some r => simp [d1, d2, d3, d4 r hr, Nat.not_le.mpr d5]

theorem fwb_staged : staged fwMem 0x0F000000 4032 = fwb := by
  have h : fwb.length = 4032 := by decide +kernel
  rw [← h]; exact memReads_cellsAt fwb (stagingBase + 0x0F000000)
theorem fwb_form : fwb.take 8 = asciiBytes "DXFIRMWR" ∧ leAt fwb 8 2 = 1 ∧ (fwImage fwb).svn ≤ 64 ∧ (fwImage fwb).flags.toNat < 8 ∧ (fwImage fwb).revoke < 16 ∧
    leAt fwb 72 184 = 0 ∧ leAt fwb 1568 32 = 0 ∧ bitOf (fwImage fwb).flags.toNat 0 = false := by decide +kernel
theorem fwb_key : (fwImage fwb).key = 0 := by decide +kernel
theorem fwb_digest : (fwImage fwb).digest = sha3 (sub fwb 1600 (leAt fwb 12 4)) := by decide +kernel
theorem fwb_fields : (fwImage fwb).svn = 0 ∧ (fwImage fwb).handover = 0 ∧ (fwImage fwb).version = 9 ∧ leAt fwb 12 4 = 0 := by decide +kernel

/-- The checks of R432 on the image of fwMem; its key's digest is never computed. -/
theorem fw_passes : fwCheck loadDev fwRom fwMem (fwJob none) true = none :=
  fwCheck_passes fwb fwb_staged (by decide) (by rw [fwb_fields.2.2.2]; rfl) fwb_form (by intro a h; cases h) ⟨by rw [fwb_key]; rfl, by rw [fwb_key]; decide⟩ fwb_digest
    (by rw [fwb_fields.1]; decide)

theorem fw_passes_armed : fwCheck armDev fwRom fwMem (fwJob (some (ArmedFw.mk 0 0 5))) true = none :=
  fwCheck_passes fwb fwb_staged (by decide) (by rw [fwb_fields.2.2.2]; rfl) fwb_form
    (by intro a h; cases h; exact ⟨by decide, rfl, rfl, by intro r h; cases h; rw [fwb_fields.2.1]; decide, by rw [fwb_fields.2.2.1]; decide⟩)
    ⟨by rw [fwb_key]; rfl, by rw [fwb_key]; decide⟩ fwb_digest (by rw [fwb_fields.1]; decide)

theorem certBad_passes {b c e : List Byte} {h : Head} {f : Fuses} (hc : sub b h.certOff h.certLen = c)
    (h1 : c.take 8 = asciiBytes "DXCERT01" ∧ leAt c 8 1 = 0 ∧ leAt c 9 1 = 1 ∧ h.certLen = 5108) (h2 : f.rootsValid.getLsbD 0 = true)
    (h3 : f.roots[0]? = some (sha3 (sub c 16 1312))) (he : sub c 1328 3780 = e) (h4 : digestAt e 16 = sha3 (sub c 16 1312))
    (h5 : leAt e 0 1 = 2) : certBad b h f true true = false := by
  obtain ⟨a1, a2, a3, a5⟩ := h1
  rw [a5] at hc
  simp only [certBad, hc, a1, a2, a3, a5, h2, h3]
  simp [List.range_succ, he, h4, h5]

theorem planCheck_passes {b : List Byte} {n : Nat} {f : Fuses} {k : Digest} {p : PlanDoc} (h1 : lengthBad (headOf b) n = false) (h2 : planCrcOk b = true)
    (h3 : ¬ (b.take 8 ≠ asciiBytes "SKOVPLAN" ∨ leAt b 8 2 ≠ 2 ∨ 1 < (headOf b).flags ∨ leAt b 100 156 ≠ 0))
    (h4 : certBad b (headOf b) f true true = false) (h5 : (headOf b).binding = 0) (h6 : dirBad b (headOf b) = none) (h7 : check10 p = none)
    (h8 : (headOf b).rank = 0 ∧ (headOf b).size = 1 ∧ (headOf b).flags = 0) (h10 : rankTwice p = false)
    (h9 : [check12 p, check13 p, check14 p, inSect 8 (firstIx descBad p.descs), check16 p false 1, inSect 12 (firstIx stepBad p.steps), check18 p 1 0, check1A p 1 0,
      check1B p, check1C p 1] = List.replicate 10 none ∧ p.steps.length = p.domains.length) : planCheck b n f k p true true = none := by
  obtain ⟨h9, hs⟩ := h9
  simp only [List.replicate, List.cons.injEq, and_true] at h9
  obtain ⟨c2, c3, c4, c5, c6, c7, c8, c9, c10, c11⟩ := h9
  obtain ⟨r1, r2, r3⟩ := h8
  unfold planCheck
  simp only [h1, h2, h4, h5, h6, h7, Bool.not_true, Bool.false_eq_true, if_false]
  rw [if_neg h3]
  have hb : bitOf 0 0 = false := rfl
  simp [r1, r2, r3, h10, hb, hs, c2, c3, c4, c5, c6, c7, c8, c9, c10, c11]

/-- The checks of R201 on planImg; neither its CRC nor the root's digest is computed. -/
theorem plan_passes (k : Digest) (m : List Host.Cell) (hm : m = planMem) :
    planCheck (staged m 0 10032) 10032 { roots := [rootDigest], rootsValid := 1 } k (readTables (staged m 0 10032) small) true true = none := by
  subst hm
  have hl : planBody.length = 10024 := by decide +kernel
  have hlen : planImg.length = 10032 := by simp [planImg, hl]
  have hst : staged planMem 0 10032 = planImg := by rw [← hlen]; exact memReads_cellsAt planImg (stagingBase + 0)
  have hh : planHead.length = 2496 := by decide +kernel
  have hcl : (certHead ++ certEntry).length = 5108 := by decide +kernel
  have hcert : sub planImg 2496 5108 = certHead ++ certEntry := by
    rw [planImg, planBody, List.append_assoc planHead, List.append_assoc (certHead ++ certEntry)]; exact sub_mid _ _ _ hh hcl
  have hent : sub (certHead ++ certEntry) 1328 3780 = certEntry := by
    have := sub_mid certHead certEntry [] (off := 1328) (n := 3780) (by decide +kernel) (by decide +kernel)
    rwa [List.append_nil] at this
  have hkey : sub (certHead ++ certEntry) 16 1312 = zs 1312 := by decide +kernel
  have hhead : headOf planImg = { sections := 16, flags := 0, length := 10032, planId := 0, arith := 0, sliceId := 0, rank := 0, size := 1, epoch := 0, binding := 0,
                                  certOff := 2496, certLen := 5108 } := by decide +kernel
  have hread : readTables planImg small = smallRead := by decide +kernel
  rw [hst, hread]
  refine planCheck_passes (by rw [hhead]; decide) ?_ (by rw [hhead]; decide +kernel) ?_ (by rw [hhead]) (by rw [hhead]; decide +kernel) (by decide +kernel)
    (by rw [hhead]; exact ⟨rfl, rfl, rfl⟩) (by decide +kernel) (by decide +kernel)
  · have h1 : planImg.take (planImg.length - 8) = planBody := by rw [hlen, planImg]; exact List.take_left' hl
    have h2 : leAt planImg (planImg.length - 8) 8 = (crcOf 2 planBody).toNat := by
      rw [hlen, planImg, leAt_mid planBody [] _ hl]; exact Nat.mod_eq_of_lt (crcOf 2 planBody).isLt
    rw [planCrcOk, h1, h2]; simp
  · rw [hhead]
    exact certBad_passes hcert (by decide +kernel) (by decide) (by rw [hkey]; rfl) hent (by rw [hkey]; exact digestAt_mid _ _ _ (by decide)) (by decide +kernel)

theorem readBlock_lines {d e : Dev} {i l i' l' : Nat} (h : ∀ k, k < 256 → getLine d i (l + k) = getLine e i' (l' + k)) : readBlock d i l = readBlock e i' l' := by
  have h0 : getLine d i l = getLine e i' l' := h 0 (by decide)
  have h1 : ∀ n, n ≤ 255 → getLines d i (l + 1) (n - 1) = getLines e i' (l' + 1) (n - 1) := by
    intro n hn
    simp only [getLines]
    refine List.map_congr_left fun k hk => ?_
    have := h (1 + k) (by have := List.mem_range.mp hk; omega)
    simpa [Nat.add_assoc] using this
  have h2 : ∀ b : List Byte, leAt b 1 1 ≤ 255 := by
    intro b
    simp only [leAt, sub]
    rcases b.drop 1 with _ | ⟨x, r⟩
    · simp [leNat]
    · have := x.isLt; simp [leNat]; omega
  unfold readBlock
  rw [h0]
  simp only [h1 _ (h2 _)]

theorem block1 : readBlock (withBlock 1 {}) 0 10 = some (blkOf 1) := by decide +kernel

theorem word_block {d : Dev} (hs : slotQuery d 0 0xFFFF = none) (h : ∀ k, k < 256 → getLine d 0 (10 + k) = getLine (withBlock 1 {}) 0 (10 + k)) :
    wordBlock d 0 (word mvmWord 0xFFFF) = some (blkOf 1) := by
  have ha : (swOf (word mvmWord 0xFFFF).word).a = 10 := by decide
  have hs' : slotQuery d 0 (word mvmWord 0xFFFF).slot = none := hs
  unfold wordBlock
  rw [hs', ha]
  exact (readBlock_lines h).trans block1

/-- The block's sums on an empty plane, and on plane1. -/
theorem sums_empty : partialSums 0 (blkOf 1).xs (readPlane [] [] [] 2 3) = List.replicate 128 0 ∧ sealSum (blkOf 1).xs (readPlane [] [] [] 2 3) = 0 := by
  constructor <;> decide +kernel
theorem sums_plane1 : partialSums 0 (blkOf 1).xs (readPlane plane1.cells [] [] 2 3) = 1 :: List.replicate 127 0 ∧ sealSum (blkOf 1).xs (readPlane plane1.cells [] [] 2 3) = 0 := by
  constructor <;> decide +kernel

theorem seal_good {j : MvmJob} {rows : List CellRow} (hf : j.fmt = 0) (hb : j.block = blkOf 1) (hr : rows = readPlane [] [] [] 2 3) : SealGood j rows := by
  rw [SealGood, hf, hb, hr, sums_empty.1, sums_empty.2, sealDot_zero]

theorem seal_bad {j : MvmJob} {rows : List CellRow} (hf : j.fmt = 0) (hb : j.block = blkOf 1) (hr : rows = readPlane plane1.cells [] [] 2 3)
    (hc : sealC j.seed j.off 0 ≠ 0) : ¬ SealGood j rows := by
  rw [SealGood, hf, hb, hr, sums_plane1.1, sums_plane1.2, sealDot_single]
  omega

theorem rows_at {d : Dev} {nv : NonVol} {j : MvmJob} {a : Nat} (ha : j.array = a) (hp : j.plane = 3) (hm : (getArr d a).remaps = []) :
    jobRows d nv j = readPlane nv.cells [] [] a 3 ∧ jobRead d nv j [] = readPlane nv.cells [] [] a 3 := by
  subst ha; rw [jobRows, jobRead, hp, hm]; exact ⟨rfl, rfl⟩

theorem esc_job {d : Dev} {nv : NonVol} {n : Nat} (hw : escWord d (esc0 n 1) = some (word mvmWord 0xFFFF)) (hb : wordBlock d 0 (word mvmWord 0xFFFF) = some (blkOf 1)) :
    escJob d nv 2 (esc0 n 1) = some (jobOf d nv 0 (word mvmWord 0xFFFF) 2 3 (blkOf 1), slotHandle d 0 0xFFFF) := by
  unfold escJob
  simp only [esc0] at hw ⊢
  rw [hw]
  show Option.map _ (wordBlock d 0 (word mvmWord 0xFFFF)) = _
  rw [hb]
  rfl

theorem guest_block {d : Dev} (h : ∀ k, k < 256 → getLine (setLines d 1920 0 (blockOut (blkOf 1))) 1920 (0 + k) = getLine (withBlock 1 {}) 0 (10 + k)) :
    blockOf d (blockOut (blkOf 1)) = some (blkOf 1) := (readBlock_lines h).trans block1

theorem pat_job : ∀ j l, patJob patDev {} 2 3 0 = some (j, l) → SealGood j (jobRows patDev {} j) := by
  intro j l h
  have hk : (patKind patSet 0)[0]? = some patEntry := by decide +kernel
  have hb : patBlock patDev patEntry = some (blkOf 1) :=
    (readBlock_lines (d := setLines patDev 1920 0 (linesOf 57 ((patEntry.drop 64).take (57 * 64)))) (e := withBlock 1 {}) (i := 1920) (l := 0) (i' := 0) (l' := 10)
      (by decide +kernel)).trans block1
  have hp : patDev.mkt.pats = some patSet := rfl
  have ht : patTargets patEntry (stallOf 2) = true := by decide +kernel
  simp only [patJob, hp, hk, hb, ht, Option.some.injEq, Prod.mk.injEq] at h
  obtain ⟨rfl, -⟩ := h
  exact seal_good (by decide +kernel) rfl (rows_at rfl rfl (by decide +kernel)).1

theorem failRows_none : failRows { prog0 .compare with rows := [] } [] (readPlane tagOnly [] [] 2 3) = [] := by decide +kernel

theorem readPlane_empty (r : List (Nat × Nat)) (x : List (Nat × CellRow)) (a p : Nat) : readPlane [] r x a p = readPlane [] r x 2 3 := by
  simp [readPlane, getRow, mget, mfind]

/-! ### Commands that name nothing are ill-formed -/

def cart1 : Cart :=
  { dest := 0, src := 1, typ := 0, queue := 6, route := 0, mode := 0, vc := 0, members := 0, slot := 0xFFFF, step := 5, seq := 0, addr := 0, flits := [7] }
def note1 : Note := { dest := 0, src := 1, typ := 2, len := 1, body := 0, extra := [3] }

theorem test_wellformed_terms :
    (Instr.nop (cmd 1 0)).wf = true ∧ (Instr.cartReceive cart1 .clean).wf = true ∧ (Instr.creditNote { note := note1 }).wf = true ∧
      (Instr.dataFrame (rx 1 1 0 0 [])).wf = true ∧ (Instr.islandClockStop 3967).wf = true := by decide +kernel
theorem test_illformed_ring : (Instr.nop { cmd 1 0 with ring := 8 }).wf = false := by decide
theorem test_illformed_opcode : (Instr.nop { cmd 1 0 with opcode := 65536 }).wf = false := by decide
theorem test_illformed_ringIndex : (Instr.cringEnableSet 8).wf = false ∧ (Instr.coalesceTimeout 8).wf = false := by decide
theorem test_illformed_tail : (Instr.cringTailWrite 0 (2 ^ 32)).wf = false ∧ (Instr.cplHeadWrite 8 0).wf = false := by decide
theorem test_illformed_eventBit : (Instr.w1cClear .cv 1 [{ bit := 32, idx := 0, aux := 0 }]).wf = false := by decide
theorem test_illformed_register : (Instr.lowWordRead 0x4000000).wf = false ∧ (Instr.registerWrite 0x4000000 4 0).wf = false := by decide
theorem test_illformed_accessSize : (Instr.registerWrite 0 3 0).wf = false := by decide
theorem test_illformed_checkUnit : (Instr.epChkCtlWrite 268 0).wf = false ∧ (Instr.epChkValueWrite 268 0).wf = false := by decide
theorem test_illformed_staging : (Instr.stagingWrite 0x0FFFFFFF [1, 2]).wf = false := by decide
theorem test_illformed_sidebandRead : (Instr.i3cPrivateRead 65).wf = false := by decide
theorem test_illformed_straps : (Instr.perstDeassert 64 0).wf = false ∧ (Instr.perstDeassert 0 8).wf = false := by decide
theorem test_illformed_island :
    (Instr.islandClockStop 1960).wf = false ∧ (Instr.islandClockRestart 2030).wf = false ∧ (Instr.islandClockAdjust 3968 0).wf = false := by decide
theorem test_illformed_sensor : (Instr.sensorConversion 64 0).wf = false ∧ (Instr.sensorConversion 0 4096).wf = false := by decide
theorem test_illformed_lists :
    (Instr.thermalEvaluation [1]).wf = false ∧ (Instr.burstEnd [1] []).wf = false ∧ (Instr.hbmTrainingEnd []).wf = false := by decide
theorem test_illformed_calRound : (Instr.initialCalRoundEnd [{ array := 30720, trims := [], samples := [] }]).wf = false ∧
      (Instr.initialCalRoundEnd [{ array := 0, trims := List.replicate 70 (0, 0), samples := [] }]).wf = false := by decide
theorem test_illformed_array : (Instr.erasePulseEnd 30720).wf = false ∧ (Instr.verifyReadEnd 0 64 (.rows [])).wf = false := by decide
theorem test_illformed_stall : (Instr.send { stall := 1920, e := .clean }).wf = false ∧ (Instr.islandStopTimeout 1920).wf = false := by decide
theorem test_illformed_cart :
    (Instr.cartReceive { cart1 with dest := 4096 } .clean).wf = false ∧ (Instr.cartReceive { cart1 with slot := 65536 } .clean).wf = false ∧
      (Instr.cartReceive { cart1 with addr := 2 ^ 48 } .clean).wf = false ∧
      (Instr.cartReceive { cart1 with flits := List.replicate 65 0 } .clean).wf = false ∧
      (Instr.cartReceive { cart1 with link := 8 } .clean).wf = false := by decide
theorem test_illformed_note : (Instr.creditNote { note := { note1 with typ := 16 } }).wf = false ∧ (Instr.fencedNote { note := { note1 with len := 4 } }).wf = false ∧
      (Instr.errorReportNote { note := { note1 with len := 2 } }).wf = false := by decide
theorem test_illformed_domain : (Instr.localBell 64).wf = false := by decide
theorem test_illformed_channel : (Instr.porterUnitComplete 256 0 { ix := 0 }).wf = false ∧ (Instr.hbmReread 0 0 16 true).wf = false := by decide
theorem test_illformed_scrub : (Instr.hbmScrub 0x00C000000000 true).wf = false := by decide
theorem test_illformed_subport : (Instr.linkLoss 12 0).wf = false ∧ (Instr.linkLoss 0 8).wf = false ∧ (Instr.pfcFrame 0 0 8).wf = false := by decide
theorem test_illformed_frame :
    (Instr.dataFrame { rx 1 1 0 0 [] with port := 12 }).wf = false ∧ (Instr.dataFrame { rx 1 1 0 0 [] with cls := 4 }).wf = false ∧
      (Instr.dataFrame { rx 1 1 0 0 [] with cart := 16 }).wf = false ∧ (Instr.dataFrame { rx 1 1 0 0 [] with psn := 2 ^ 32 }).wf = false ∧ (Instr.dataFrame { rx 1 1 0 0 [] with resv := 4 }).wf = false := by decide
theorem test_illformed_flow : (Instr.ackTimer 49152).wf = false := by decide
theorem test_illformed_restock : (Instr.restockHeaderVerified 17 [] [] true true).wf = false := by decide

/-- No row of the table has bits. -/
theorem test_no_word_spells_a_command : decodeTableWord 64 0 = none := by decide

/-! ### Values that a publication or an example of the spec states -/

/-- The example of R265's section: the check value of "123456789", and the running value before it. -/
theorem test_crc32c_example : crc32c (asciiBytes "123456789") = 0xE3069283 := by decide +kernel
theorem test_crc32c_running : crcBytes 0 (crcInit 0) (asciiBytes "123456789") = 0x1CF96D7C := by decide +kernel
/-- The example beside R171. -/
theorem test_stack_example : stackAt 0x001234567ABC = 7 := by decide +kernel
/-- FIPS 202: the first bytes of SHA3-256 of the empty message. -/
theorem test_sha3_empty : (digestBytes (sha3 [])).take 4 = [0xA7, 0xFF, 0xC6, 0xF8] := by decide +kernel
/-- The published vector of Philox4x32-10 at key 0 and counter 0. -/
theorem test_philox_zero : philox0 0 0 0 0 0 = 0x6627E8D5 := by decide +kernel
/-- The published vector of SipHash-2-4: key 00 01 ... 0F, the empty message. -/
theorem test_siphash_empty : sipHash 0x0F0E0D0C0B0A09080706050403020100 [] = 0x726FDB47DD0E0E31 := by decide +kernel
/-- The example of section 12.7: 128 elements of each sign in every magnitude plane take 42 passes. -/
theorem test_dense_query_passes : (passesOf 60 (List.replicate 128 127 ++ List.replicate 128 (-127))).length = 42 := by decide +kernel

/-- Example 2.3 and its table: dense blocks of one sign, and of the worst split, at each L. -/
theorem test_dense_passes :
    [63, 47, 31, 15].map (fun l => (passesOf l (List.replicate 512 127)).length) = [63, 77, 119, 245] ∧
      [63, 47, 31, 15].map (fun l => (passesOf l (127 :: List.replicate 511 (-127))).length) = [70, 84, 126, 252] := by decide +kernel
/-- Example 3.1: count 9 with an error of 2.52 codes at L = 15, and the margin reading of a count of 40. -/
theorem test_decision_example : sampleCode 15 (sampleV 15 9 161) = 78 ∧ sliceCount 15 9 161 = 9 ∧ sampleMargin 40 (-29) 40 = 17 := by decide +kernel
/-- Example 4.1: the passes, the partial sum and the seal sum of four weights. -/
theorem test_till_example :
    let xs : List Int := [5, -3, 2, 7] ++ List.replicate 508 0
    let rows : List CellRow := [(3, 111), (14, 2 ^ 20 - 74), (8, 2 ^ 20 - 296), (5, 185)].map fun w => BitVec.ofNat 544 (w.1 + w.2 * 2 ^ 512)
    (passesOf 63 xs).length = 5 ∧ (partialSums 0 xs (rows ++ List.replicate 508 0)).take 2 = [40, 0] ∧ sealSum xs (rows ++ List.replicate 508 0) = 1480 := by
  decide +kernel
/-- Example 4.2: six elements of a group with the carry. -/
theorem test_requantise_example :
    (requant 0 [0x40100000, 0x40100000, 0x40100000, 0xBF400000, 0x3F000000, 0x3FC00000]).q.reverse = [2, 2, 3, -1, 0, 2] := by decide +kernel
/-- Example 5.1: FP32 2^k n times. -/
def powers (k n : Nat) : List Word := List.replicate n (BitVec.ofNat 32 (k * 2 ^ 23))
theorem test_rule_example :
    let low := powers 129 120 ++ powers 128 150 ++ powers 127 100 ++ powers 126 41 ++ (List.replicate 9 [0x3B000000, 0xBB000000]).flatten ++ [(0x3B000000 : Word)] ++ powers 0 10
    let b1 := powers 136 2 ++ powers 134 10 ++ powers 130 60 ++ low
    chooseBlock b1 3 0 126 16 (-64) = (0, -4, false) ∧ (makeBlock b1 0 (-4) false false).nZero = 19 ∧
      chooseBlock (powers 130 72 ++ low) 3 0 126 16 (-64) = (1, -8, true) := by decide +kernel

/-! ### One step of a small state -/

/-- By spec/02_cell_arrays.md: R51, spec/03_conversion_trim.md: R66, R74, spec/05_formats_bounds.md: R133. -/
theorem test_CvRegisterWritesComplete :
    after (exec (.cvActCapWrite 127) (mk (base .ready)))
      (fun t => decide ((regRead t.nv t.dev 0x1000040).toNat = 100)) = true := by decide +kernel
/-- By R412. -/
theorem test_ChStateReadsTheState :
    after (exec (.lowWordRead 0x10) (mk (base .ready)))
      (fun t => decide (t.dev.out = [.regRead 0x10 0x15])) = true := by decide +kernel
/-- By spec/14_control_plane.md: R422, spec/16_power_clock_monitor.md: R470. -/
theorem test_SidebandTransfersComplete_alert :
    after (exec (.i3cPrivateWrite 0x1064 [5, 0, 0, 0]) (mk (base .ready)))
      (fun t => decide (t.dev.wb.alertMask = 5 ∧ t.dev.side.ptr = 0x1064)) = true := by decide +kernel
/-- By spec/14_control_plane.md: R422. -/
theorem test_SidebandCommonCommandsComplete_setdasa :
    after (exec (.setdasa 0x53 9) (mk { base .ready with pwr := { (base .ready).pwr with slot := 3 } }))
      (fun t => decide (t.dev.side.dynAddr = some 9)) = true := by decide +kernel
/-- By spec/14_control_plane.md: R422. -/
theorem test_SidebandCommonCommandsComplete_setmrl :
    after (exec (.setmrl 65) (mk (base .ready)))
      (fun t => decide (t.dev.side.mrl.toNat = 64)) = true := by decide +kernel
/-- By spec/01_architecture.md: R19, spec/16_power_clock_monitor.md: R448, R451, R466. -/
theorem test_SupplyUpCompletes_rise :
    after (exec (.inputPowerRise) (State.reset))
      (fun t => decide (t.dev.pwr.sequencing = true)) = true := by decide +kernel
/-- By spec/01_architecture.md: R19, spec/16_power_clock_monitor.md: R448, R451, R466. -/
theorem test_SupplyUpCompletes_rails :
    after (exec (.railsInRegulation) (mk { state := .cold, pwr := { sequencing := true, perstWaits := some (5, 2), perst := false } }))
      (fun t => decide (t.dev.pwr.outOfReset = true ∧ t.dev.pwr.tray = 5 ∧ t.dev.pwr.slot = 2)) = true := by decide +kernel
/-- By spec/01_architecture.md: R19, spec/16_power_clock_monitor.md: R448, R451, R466. -/
theorem test_SupplyUpCompletes_perst :
    after (exec (.perstDeassert 63 7) (mk { state := .cold, pwr := { railsGood := true } }))
      (fun t => decide (t.dev.pwr.outOfReset = true ∧ t.dev.pwr.tray = 63 ∧ t.dev.pwr.slot = 7)) = true := by decide +kernel
/-- By spec/01_architecture.md: R19, spec/14_control_plane.md: R397, spec/16_power_clock_monitor.md: R448, R452, R466, spec/17_module_interface.md: R482. -/
theorem test_ResetsAndTripsComplete :
    after (exec (.dieOverTemperatureTrip) (mk (base .ready)))
      (fun t => decide (t.dev.state = .cold ∧ t.dev.pwr.thermtrip = true ∧ t.dev.pwr.tripped = true)) = true := by decide +kernel
/-- By spec/16_power_clock_monitor.md: R460, R461, R462, R463, R464, R465, R466, R467, R470, R471, R472. -/
theorem test_WeighbridgeCommandsComplete_edge :
    after (exec (.sampleEdge) (mk (base .ready)))
      (fun t => decide (t.dev.wb.burst = true ∧ t.dev.wb.windowEdges = 1)) = true := by decide +kernel
/-- By spec/16_power_clock_monitor.md: R460, R461, R462, R463, R464, R465, R466, R467, R470, R471, R472. -/
theorem test_WeighbridgeCommandsComplete_burst :
    after (exec (.burstEnd (List.replicate 24 1) (List.replicate 24 2)) (mk { base .ready with wb := { burst := true, burstNo := 65535, fresh := true, alert := true, alertHold := true } }))
      (fun t => decide (t.dev.wb.burst = false ∧ t.dev.wb.burstNo = 0 ∧ t.dev.wb.fresh = true ∧ mget t.dev.wb.codesB 23 0 = 2)) = true := by decide +kernel
/-- By spec/07_memory_porters.md: R164, spec/15_startup_update_security.md: R425, R426. -/
theorem test_BootStepsComplete_identity :
    after (exec (.identityDerivationEnd) (mk { state := .cold, pwr := { outOfReset := true, railsGood := true }, sec := { romDone := true, romOk := true, hbmDone := true, hbmOk := true } }))
      (fun t => decide (t.dev.state = .awaitFw ∧ t.dev.sec.idDone = true)) = true := by decide +kernel
/-- By spec/15_startup_update_security.md: R430, R431, R432, R433, R434, R435, R436. -/
theorem test_FirmwareCommandsComplete_handover :
    after (exec (.clerkHandover) (mk { run doc going with sec := { switching := true } }))
      (fun t => decide (t.dev.sec.switching = false)) = true := by decide +kernel
/-- By spec/07_memory_porters.md: R173, spec/08_plan_and_steps.md: R201, R202, spec/14_control_plane.md: R414. -/
theorem test_PlanCommandsComplete_init :
    after (exec (.dramInitEnd) ({ pending := [], nv := {}, mem := [(5, 1)], dev := { base .awaitPlan with plan := planOf small } }))
      (fun t => decide (t.dev.state = DevState.stocking ∧ t.dev.dram.free = 1023 ∧ memRead t.mem 5 = 0)) = true := by decide +kernel
/-- By spec/11_serving.md: R315, R341, R345, R347. -/
theorem test_TicketCommandsComplete_retention :
    after (exec (.handleRetentionEnd 1) (mk (tickDev .serving (tick .ended))))
      (fun t => decide ((getTicket t.dev 1).state = TState.free ∧ (getTicket t.dev 1).gen = 1)) = true := by decide +kernel
/-- By spec/07_memory_porters.md: R183, R184, R185, R186, R187. -/
theorem test_PorterUnitStoresItsBytes_copy :
    after (exec (.porterUnitComplete 0 0 { ix := 0 }) ({ pending := [], nv := {}, mem := [(0x1000, 7), (0x100F, 8)], dev := chanDev .serving (chan0 .running desc0) }))
      (fun t => decide (memRead t.mem 0x2000 = 7 ∧ memRead t.mem 0x200F = 8 ∧ memRead t.mem 0x2010 = 0 ∧ t.mem.length = 4 ∧ (getChan t.dev 0 0).unitsDone = 1 ∧ (getChan t.dev 0 0).state = ChanState.done)) = true := by decide +kernel
/-- By spec/07_memory_porters.md: R175, R176, R177, R178, R179, R180. -/
theorem test_PageRequestsComplete_fits :
    after (exec (.pageAllocationRequest (.reserve 1 5)) (mk { run doc going with dram := { kvBase := 100, kvPages := 9, fresh := 2, pushed := [101], free := 8, reserved := 3 }, srv := { tickets := [(1, { tick .decode with kvReserved := 2 })] } }))
      (fun t => decide (t.dev.dram.reserved = 8 ∧ (getTicket t.dev 1).kvReserved = 7)) = true := by decide +kernel
/-- By spec/02_cell_arrays.md: R37, spec/03_conversion_trim.md: R57, R58, R59, R60, R61, R62, R65, R67, R68. -/
theorem test_CalibrationAndGrantsComplete_round :
    after (exec (.initialCalRoundEnd [{ array := 2, trims := [(63, 40), (5, 33)], samples := [{ n := 31, err := 0, times := 4 }] }]) (mk { base .stocking with plan := planOf doc }))
      (fun t => decide ((getArr t.dev 2).initMargin = 31 ∧ t.dev.mkt.calRound = 1 ∧ (getArr t.dev 2).calibrated = true ∧ (mget t.dev.mkt.slices (2 * 69) {}).offset = -1 ∧ (mget t.dev.mkt.slices (2 * 69 + 1) {}).gain = 33)) = true := by decide +kernel
/-- By spec/02_cell_arrays.md: R37, spec/03_conversion_trim.md: R57, R58, R59, R60, R61, R62, R65, R67, R68. -/
theorem test_CalibrationAndGrantsComplete_start :
    after (exec (.calWindowStart 2) (mk (arrDev .ready { calibrated := true, retries := 3 })))
      (fun t => decide ((getArr t.dev 2).phase = WinPhase.reference ∧ (getArr t.dev 2).retries = 0)) = true := by decide +kernel
/-- By spec/02_cell_arrays.md: R37, spec/03_conversion_trim.md: R57, R58, R59, R60, R61, R62, R65, R67, R68. -/
theorem test_CalibrationAndGrantsComplete_reference :
    after (exec (.calPhaseEnd 2 (.reference 63 33 4096)) (mk (arrDev .ready { phase := .reference })))
      (fun t => decide ((getArr t.dev 2).newOffset = -1 ∧ (getArr t.dev 2).newGain = 33 ∧ (getArr t.dev 2).phase = WinPhase.margin)) = true := by decide +kernel
/-- By spec/02_cell_arrays.md: R37, spec/03_conversion_trim.md: R57, R58, R59, R60, R61, R62, R65, R67, R68. -/
theorem test_CalibrationAndGrantsComplete_kept :
    after (exec (.calWindowEnd 2 0 1) (mk (arrDev .ready { phase := .closing, refCount := 4096, winMin := 12, lStep := 0 })))
      (fun t => decide ((getArr t.dev 2).margin = 12 ∧ (getArr t.dev 2).lStep = 0)) = true := by decide +kernel
/-- By spec/02_cell_arrays.md: R37, spec/03_conversion_trim.md: R57, R58, R59, R60, R61, R62, R65, R67, R68. -/
theorem test_CalibrationAndGrantsComplete_sample :
    after (exec (.calibrationOnlySample 2 { n := 20, err := -40, delivered := 20 }) (mk (arrDev .ready { phase := .margin })))
      (fun t => decide ((getArr t.dev 2).winMin = 12)) = true := by decide +kernel
/-- By spec/02_cell_arrays.md: R37, spec/03_conversion_trim.md: R57, R58, R59, R60, R61, R62, R65, R67, R68. -/
theorem test_CalibrationAndGrantsComplete_grant :
    after (exec (.activityGrant 2 .mvm) (mk { withBlock 1 (wordDev mvmWord) with stock := { parts := [(0, live4)] } }))
      (fun t => decide ((getArr t.dev 2).grant = some .mvm ∧ (getArr t.dev 2).pooled = false)) = true := by decide +kernel
/-- By spec/04_stall_datapath.md: R103, R104, R105, R106, spec/08_plan_and_steps.md: R219. -/
theorem test_ScriptIssueAndDoneComplete_issue :
    after (exec (.scriptWordIssue { stall := 0, e := .clean }) (mk (scriptDev [(sw 3 7 0 0 0)] {})))
      (fun t => decide (getStall t.dev 0 = issued (sw 3 7 0 0 0) 0xFFFF)) = true := by decide +kernel
/-- By spec/04_stall_datapath.md: R105, spec/05_formats_bounds.md: R115, spec/06_on_die_networks.md: R137, R139, spec/07_memory_porters.md: R182, R185, R186. -/
theorem test_SendRecvAndPortComplete_send :
    after (exec (.send { stall := 0, e := .clean }) (mk sendDev))
      (fun t => decide (t.dev.net.flights.length = 1 ∧ creditsUsed t.dev 0 (1, 6) = 1 ∧ ((getStall t.dev 0).issued.map (·.owed)) = [[owedKey (1, 6)]] ∧ t.dev.out.length = 1)) = true := by decide +kernel
/-- By spec/04_stall_datapath.md: R105, spec/05_formats_bounds.md: R115, spec/06_on_die_networks.md: R137, R139, spec/07_memory_porters.md: R182, R185, R186. -/
theorem test_SendRecvAndPortComplete_mask :
    after (exec (.recv 0) (mk (scriptDev [(sw 6 6 50 2 0)] { issued (sw 6 6 50 2 0) 0xFFFF with inq := [(6, { cart0 with typ := 5 })] })))
      (fun t => decide ((getStall t.dev 0).issued = [] ∧ isMasked t.dev 0 0xFFFF = true)) = true := by decide +kernel
/-- By spec/04_stall_datapath.md: R105, spec/05_formats_bounds.md: R115, spec/06_on_die_networks.md: R137, R139, spec/07_memory_porters.md: R182, R185, R186. -/
theorem test_SendRecvAndPortComplete_port :
    after (exec (.port { stall := 0, e := .clean }) (mk { wordDev (sw 7 3 0 1 0) with plan := planOf { doc with scripts := [{ stall := 0, words := [(sw 7 3 0 1 0)], cover := none }], descs := [desc0], queues := [{ stall := porterEndpoint 0, regions := [], queues := [], carried := [], reply := 1 }] } }))
      (fun t => decide ((getChan t.dev 0 0).state = ChanState.running ∧ (getChan t.dev 0 0).d = some desc0 ∧ (getStall t.dev 0).issued.map (·.owed) = [[chanKey 0]])) = true := by decide +kernel
/-- By spec/06_on_die_networks.md: R137, R138, R139, R140, R141, R148, R153, R154, R156, R157, spec/07_memory_porters.md: R182, R183, R187. -/
theorem test_CartsAndNotesComplete_cart :
    after (exec (.cartReceive cart0 .clean) (mk (landed (.cart cart0 [cart0]) (run doc going))))
      (fun t => decide ((getStall t.dev 0).inq = [(6, cart0)] ∧ t.dev.net.flights.map (·.load) = [.note (creditOf cart0)] ∧ t.dev.out.length = 1)) = true := by decide +kernel
/-- By spec/06_on_die_networks.md: R137, R138, R139, R140, R141, R148, R153, R154, R156, R157, spec/07_memory_porters.md: R182, R183, R187. -/
theorem test_CartsAndNotesComplete_credit :
    after (exec (.creditNote { note := ({ note0 2 with body := BitVec.ofNat 34 (1 * 4096 + 6) } : Note), e := .clean }) (mk (landed (.note ({ note0 2 with body := BitVec.ofNat 34 (1 * 4096 + 6) } : Note)) (withStall { issued sendWord 0xFFFF with issued := [{ word sendWord 0xFFFF with owed := [owedKey (1, 6)], sent := [(owedKey (1, 6), 0)] }] } { sendDev with net := { credits := [((0, 1, 6), 1)] } }))))
      (fun t => decide (creditsUsed t.dev 0 (1, 6) = 0 ∧ (getStall t.dev 0).issued = [] ∧ t.dev.net.flights = [])) = true := by decide +kernel
/-- By spec/06_on_die_networks.md: R137, R138, R139, R140, R141, R148, R153, R154, R156, R157, spec/07_memory_porters.md: R182, R183, R187. -/
theorem test_CartsAndNotesComplete_order :
    after (exec (.countingHouseOrder { note := ({ note0 5 with dest := 2304, body := 3 } : Note), e := .clean }) (mk { base .serving with plan := planOf { doc with descs := [desc0] } }))
      (fun t => decide ((getChan t.dev 0 0).state = ChanState.running ∧ (getChan t.dev 0 0).d = some desc0 ∧ t.dev.dram.fwQueue = [])) = true := by decide +kernel
/-- By spec/02_cell_arrays.md: R41. -/
theorem test_ProgrammingStepsComplete_erase :
    after (exec (.erasePulseEnd 2) (mk (progDev .program [prog0 (.erase 31)])))
      (fun t => decide (progAt t.dev 2 = some (prog0 (.tag)))) = true := by decide +kernel
/-- By spec/02_cell_arrays.md: R41. -/
theorem test_ProgrammingStepsComplete_tag :
    after (exec (.rowProgramEnd 2) (mk (progDev .program [prog0 (.tag)])))
      (fun t => decide (progAt t.dev 2 = some (prog0 (.row 0)) ∧ (getArr t.dev 2).progCount = 1)) = true := by decide +kernel
/-- By spec/02_cell_arrays.md: R41. -/
theorem test_ProgrammingStepsComplete_again :
    after (exec (.verifyReadEnd 2 3 (.rows [])) (mk (progDev .verifyRead [prog0 (.compare)])))
      (fun t => decide ((progAt t.dev 2).map (·.phase) = some (.row 0) ∧ (progAt t.dev 2).map (·.again) = some true)) = true := by decide +kernel
/-- By spec/02_cell_arrays.md: R41. -/
theorem test_ProgrammingStepsComplete_hash :
    after (exec (.planeHashWrite 2) (mk (progDev .program [prog0 (.hash), { prog0 (.erase 0) with plane := 4, why := .restock 0 0 1 }])))
      (fun t => decide (t.dev.stock.progs = [{ prog0 (.erase 0) with plane := 4, why := .restock 0 0 1 }])) = true := by decide +kernel
/-- By spec/09_ports_transport.md: R233, R234, R237, R238, R239, R240, spec/15_startup_update_security.md: R442, R443. -/
theorem test_SubPortCommandsComplete_trained :
    after (exec (.linkTrained 1 0 true) (mk (portDev { state := .training })))
      (fun t => decide ((getSub t.dev 1 0).state = SubState.probing ∧ t.dev.out.length = 1)) = true := by decide +kernel
/-- By spec/09_ports_transport.md: R233, R234, R237, R238, R239, R240, spec/15_startup_update_security.md: R442, R443. -/
theorem test_SubPortCommandsComplete_part :
    after (exec (.probe (bellRx 8 1 3 [1, 2])) (mk (portDev { state := .probing })))
      (fun t => decide ((getSub t.dev 1 0).parts = [(3, [1, 2])])) = true := by decide +kernel
/-- By spec/09_ports_transport.md: R233, R234, R237, R238, R239, R240, spec/15_startup_update_security.md: R442, R443. -/
theorem test_SubPortCommandsComplete_up :
    after (exec (.probeVerified 1 0 true) (mk (portDev { state := .probing, parts := [(0, beBytes 8 2 ++ beBytes 8 1 ++ beBytes 2 1 ++ [1, 0]), (1, []), (2, []), (3, [])] })))
      (fun t => decide ((getSub t.dev 1 0).state = SubState.up)) = true := by decide +kernel
/-- By spec/09_ports_transport.md: R233, R234, R237, R238, R239, R240, spec/15_startup_update_security.md: R442, R443. -/
theorem test_SubPortCommandsComplete_timeout :
    after (exec (.probeTimeout 1 0) (mk (portDev { state := .probing })))
      (fun t => decide ((getSub t.dev 1 0).state = SubState.heldDown ∧ mget t.dev.eth.reasons 1 0 = 5)) = true := by decide +kernel
/-- By spec/09_ports_transport.md: R233, R234, R237, R238, R239, R240, spec/15_startup_update_security.md: R442, R443. -/
theorem test_SubPortCommandsComplete_resend :
    after (exec (.heldDownProbeResend 1 0) (mk (portDev { state := .heldDown })))
      (fun t => decide (t.dev.out.length = 1)) = true := by decide +kernel
/-- By spec/09_ports_transport.md: R233, R234, R237, R238, R239, R240, spec/15_startup_update_security.md: R442, R443. -/
theorem test_SubPortCommandsComplete_heldDrop :
    after (exec (.pfcFrame 1 0 255) (mk (portDev { state := .heldDown })))
      (fun t => decide (mget t.dev.eth.cnts 23 0 = 1 ∧ mget t.dev.eth.cnts 17 0 = 1)) = true := by decide +kernel
/-- By spec/09_ports_transport.md: R233, R234, R237, R238, R239, R240, spec/15_startup_update_security.md: R442, R443. -/
theorem test_SubPortCommandsComplete_drop :
    after (exec (.frameDrop 1 0 .badFcs) (mk (portDev { state := .up })))
      (fun t => decide (mget t.dev.eth.cnts 24 0 = 1)) = true := by decide +kernel
/-- By spec/09_ports_transport.md: R233, R234, R237, R238, R239, R240, spec/15_startup_update_security.md: R442, R443. -/
theorem test_SubPortCommandsComplete_lldp :
    after (exec (.lldpFrame 1 0 true) (mk (portDev { state := .probing })))
      (fun t => decide ((getSub t.dev 1 0).partner = true)) = true := by decide +kernel
/-- By spec/07_memory_porters.md: R185, spec/08_plan_and_steps.md: R220, spec/09_ports_transport.md: R249, R254, R255, R256, R257, R258, R259. -/
theorem test_FlowMessagesComplete_now :
    after (exec (.dataFrame (stepRx 1 1 0 [7])) (mk (flowDev 1)))
      (fun t => decide (t.dev.net.flights.map (fun f => match f.load with | .cart c _ => (c.dest, c.queue, c.typ, c.flits) | .note _ => (0, 0, 0, [])) = [(1, 6, 0, [7])])) = true := by decide +kernel
/-- By spec/07_memory_porters.md: R185, spec/08_plan_and_steps.md: R220, spec/09_ports_transport.md: R249, R254, R255, R256, R257, R258, R259. -/
theorem test_FlowMessagesComplete_contrib :
    after (exec (.contrib (stepRx 2 1 0 (contribBytes 21))) (mk (flowDev 1)))
      (fun t => decide (t.dev.net.flights.length = 1 ∧ creditsUsed t.dev 2049 (1, 6) = 1)) = true := by decide +kernel
/-- By spec/07_memory_porters.md: R185, spec/08_plan_and_steps.md: R220, spec/09_ports_transport.md: R249, R254, R255, R256, R257, R258, R259. -/
theorem test_FlowMessagesComplete_unit :
    after (exec (.unitFrame (stepRx 3 2 0 [7, 8])) (mk { flowDev 2 with dram := { chans := [(5, { chan0 .running { desc0 with srcSpace := 4, src := 6145 } with total := 2 })] } }))
      (fun t => decide ((getChan t.dev 0 5).rx = [(0, [7, 8])])) = true := by decide +kernel
/-- By spec/11_serving.md: R312, R326, R345, spec/12_catalogue.md: R361, R368. -/
theorem test_ServiceMessagesComplete_cancel :
    after (exec (.cancel (serviceRx 2 (beBytes 4 77 ++ beBytes 4 2049))) (mk { frontDev with srv := { tickets := [(1, tick .decode)] } }))
      (fun t => decide (t.dev.srv.ends = [(2049, 77, 6145, false)])) = true := by decide +kernel
/-- By spec/11_serving.md: R312, R326, R345, spec/12_catalogue.md: R361, R368. -/
theorem test_ServiceMessagesComplete_query :
    after (exec (.query (serviceRx 0x40 queryBytes)) (mk catDev))
      (fun t => decide ((mget t.dev.srv.catQueues 0 []).map (fun q => (q.customer, q.k, q.elems)) = [(5, 4, [1, 2])])) = true := by decide +kernel
/-- By spec/11_serving.md: R312, R326, R345, spec/12_catalogue.md: R361, R368. -/
theorem test_ServiceMessagesComplete_mask :
    after (exec (.maskWrite (serviceRx 0x41 (maskBytes 5))) (mk catDev))
      (fun t => decide (t.dev.srv.masks.map (fun q => (q.set, q.firstId, q.bits.length)) = [(1, 8, 8)])) = true := by decide +kernel
/-- By spec/09_ports_transport.md: R247, R248, R250, R251, R252, R253. -/
theorem test_FlowCommandsComplete_ack :
    after (exec (.ackFrame (let r : Rx := { rx 4 1 1 0 [] with ack := 1 }; { r with crc := rxCrc r })) (mk (withFlow { theFlow 1 with txPsn := 1, unacked := [{ t := { port := 1, sub := 0, typ := 1, cls := 1, cart := 0, flags := 4, handle := 0, psn := 0, ack := 0, alive := 0, step := 5, aux := 0, payload := [7] }, timeouts := 0 }] } (run flowDoc going))))
      (fun t => decide ((getFlow t.dev 3).unacked = [])) = true := by decide +kernel
/-- By spec/09_ports_transport.md: R247, R248, R250, R251, R252, R253. -/
theorem test_FlowCommandsComplete_open :
    after (exec (.openFrame (let r : Rx := { rx 5 1 0 9 [] with handle := 3 * 2048 }; { r with crc := rxCrc r })) (mk (withFlow { gen := 4 } (run flowDoc going))))
      (fun t => decide ((getFlow t.dev 3).gen = 5 ∧ (getFlow t.dev 3).opened = true ∧ (getFlow t.dev 3).peer = 9 ∧ t.dev.out.length = 1)) = true := by decide +kernel
/-- By spec/09_ports_transport.md: R247, R248, R250, R251, R252, R253. -/
theorem test_FlowCommandsComplete_openAck :
    after (exec (.openAck (rx 6 1 0 9 [])) (mk (withFlow { theFlow 1 with opened := false } (run flowDoc going))))
      (fun t => decide ((getFlow t.dev 3).opened = true ∧ (getFlow t.dev 3).peer = 9)) = true := by decide +kernel
/-- By spec/09_ports_transport.md: R247, R248, R250, R251, R252, R253. -/
theorem test_FlowCommandsComplete_close :
    after (exec (.closeFrame (rx 7 1 0 0 [])) (mk (flowDev 1)))
      (fun t => decide (getFlow t.dev 3 = { gen := 1, quarantine := true })) = true := by decide +kernel
/-- By spec/09_ports_transport.md: R247, R248, R250, R251, R252, R253. -/
theorem test_FlowCommandsComplete_ackTimer :
    after (exec (.ackTimer 3) (mk (withFlow { theFlow 1 with sinceAck := 1 } (run flowDoc going))))
      (fun t => decide ((getFlow t.dev 3).sinceAck = 0 ∧ t.dev.out.length = 1)) = true := by decide +kernel
/-- By spec/09_ports_transport.md: R247, R248, R250, R251, R252, R253. -/
theorem test_FlowCommandsComplete_again :
    after (exec (.retransmitTimeout 3 0) (mk (withFlow { theFlow 1 with txPsn := 1, unacked := [{ t := { port := 1, sub := 0, typ := 1, cls := 1, cart := 0, flags := 4, handle := 0, psn := 0, ack := 0, alive := 0, step := 5, aux := 0, payload := [7] }, timeouts := 2 }] } (run flowDoc going))))
      (fun t => decide ((getFlow t.dev 3).unacked.map (·.timeouts) = [3] ∧ t.dev.out.length = 1)) = true := by decide +kernel
/-- By spec/09_ports_transport.md: R247, R248, R250, R251, R252, R253. -/
theorem test_FlowCommandsComplete_quarantine :
    after (exec (.quarantineEnd 9) (mk { base .ready with eth := { flows := [(9, { quarantine := true, gen := 7 })] } }))
      (fun t => decide (getFlow t.dev 9 = { gen := 7 })) = true := by decide +kernel
/-- By spec/09_ports_transport.md: R247, R248, R250, R251, R252, R253. -/
theorem test_FlowCommandsComplete_rate :
    after (exec (.rateLimitRise 3) (mk (withFlow { theFlow 2 with rate := 1590000000000 } (run flowDoc going))))
      (fun t => decide ((getFlow t.dev 3).rate = 1600000000000)) = true := by decide +kernel
/-- By spec/06_on_die_networks.md: R150, R151, R152, spec/08_plan_and_steps.md: R208, R209, R210, R214, R218, spec/09_ports_transport.md: R262, R263, spec/11_serving.md: R325. -/
theorem test_BellCommandsComplete_pace :
    after (exec (.pacePoint 0) (mk { run doc going with tick := 100 }))
      (fun t => decide ((getDom t.dev 0).paced = true)) = true := by decide +kernel
/-- By spec/06_on_die_networks.md: R150, R151, R152, spec/08_plan_and_steps.md: R208, R209, R210, R214, R218, spec/09_ports_transport.md: R262, R263, spec/11_serving.md: R325. -/
theorem test_BellCommandsComplete_up :
    after (exec (.deviceDone 0 false) (mk { stallsDoneDev (treeDev { going with paced := true, kids := [(2, 0, [])] }) with tick := 100, srv := { schedSent := true } }))
      (fun t => decide ((getDom t.dev 0).done = true ∧ (getDom t.dev 0).sentUp = true ∧ t.dev.out.length = 2)) = true := by decide +kernel
/-- By spec/06_on_die_networks.md: R150, R151, R152, spec/08_plan_and_steps.md: R208, R209, R210, R214, R218, spec/09_ports_transport.md: R262, R263, spec/11_serving.md: R325. -/
theorem test_BellCommandsComplete_bell :
    after (exec (.localBell 0) (mk { run doc { going with done := true, snapshot := [1] } with tick := 100, srv := { schedSent := true } }))
      (fun t => decide ((getDom t.dev 0).step = 6 ∧ (getDom t.dev 0).done = false ∧ (getDom t.dev 0).level = levelOf 0 [1])) = true := by decide +kernel
/-- By spec/06_on_die_networks.md: R150, R151, R152, spec/08_plan_and_steps.md: R208, R209, R210, R214, R218, spec/09_ports_transport.md: R262, R263, spec/11_serving.md: R325. -/
theorem test_BellCommandsComplete_resend :
    after (exec (.bellResend 0) (mk { treeDev { going with done := true, sentUp := true } with tick := 100, srv := { schedSent := true } }))
      (fun t => decide (t.dev.out.length = 2)) = true := by decide +kernel
/-- By spec/06_on_die_networks.md: R150, R151, R152, spec/08_plan_and_steps.md: R208, R209, R210, R214, R218, spec/09_ports_transport.md: R262, R263, spec/11_serving.md: R325. -/
theorem test_BellCommandsComplete_ready :
    after (exec (.readinessResend 0) (mk (treeDev { readies := [{ rank := 2, proposal := 9, epoch := 0 }], readySent := some 8 })))
      (fun t => decide (t.dev.out.length = 2 ∧ (getDom t.dev 0).readySent = some 9)) = true := by decide +kernel
/-- By spec/06_on_die_networks.md: R150, R151, R152, spec/08_plan_and_steps.md: R208, R209, R210, R214, R218, spec/09_ports_transport.md: R262, R263, spec/11_serving.md: R325. -/
theorem test_BellCommandsComplete_schedule :
    after (exec (.scheduleSend 0) (mk (run doc going)))
      (fun t => decide (t.dev.srv.schedSent = true ∧ (getDom t.dev 0).step = 5)) = true := by decide +kernel

/-! ### Witnesses -/

theorem witness_StepTakesTheFrontCommand :
    (∃ s : State, s.pending = .nop (cmd 1 0) :: []) ∧
    (∃ s : State, s.pending = [] ∧ s.dev.pwr.railsGood = true ∧ s.dev.pwr.refLost = false) := by
  refine ⟨?_, ?_⟩
  · exact ⟨{ mk (base .ready) with pending := [.nop (cmd 1 0)] }, by decide +kernel⟩
  · exact ⟨mk (base .ready), by decide +kernel⟩

theorem witness_ResetsKeepCellsAndFuses : (∃ s : State, isReset .functionReset = true ∧ s.dev.pwr.outOfReset = true ∧ s.dev.pwr.railsGood = true ∧ inProgress s.dev = []) := by
  exact ⟨mk (base .ready), by decide +kernel⟩

theorem witness_MemoryAndCellsFrame : (∃ s : State, writesDram (.nop (cmd 1 0)) = false ∧ writesNonVol (.nop (cmd 1 0)) = false) := by
  exact ⟨mk (base .ready), by decide +kernel⟩

theorem witness_RefusedHostCommandsHaveNoEffect :
    (∃ s : State, hostRow (.nop (cmd 1 1)) = some (1, cmd 1 1) ∧ serves s.dev (cmd 1 1).ring = true ∧ (cmd 1 1).opcode = 1 ∧ (cmd 1 1).wrOk = true ∧ formatOk (cmd 1 1) = false) ∧
    (∃ s : State, hostRow (.serveStop (cmd 0x24 0)) = some (0x24, cmd 0x24 0) ∧ serves s.dev (cmd 0x24 0).ring = true ∧ (cmd 0x24 0).opcode = 0x24 ∧ (cmd 0x24 0).wrOk = true ∧ formatOk (cmd 0x24 0) = true ∧ legal 0x24 s.dev.state (fwRuns s.dev) = false) := by
  refine ⟨?_, ?_⟩
  · exact ⟨mk (base .ready), by decide +kernel⟩
  · exact ⟨mk (base .ready), by decide +kernel⟩

theorem witness_HostQueriesComplete :
    (∃ s : State, Accepted 0x01 (cmd 1 0) s) ∧
    (∃ s : State, Accepted 0x02 (cmd 2 (pb 8 4096 + pb 16 7720)) s ∧ param (cmd 2 (pb 8 4096 + pb 16 7720)).params 8 8 % 4096 = 0 ∧ 7720 ≤ param (cmd 2 (pb 8 4096 + pb 16 7720)).params 16 4) ∧
    (∃ s : State, Accepted 0x03 (cmd 3 (pb 8 64 + pb 16 1 + pb 20 64)) s ∧ param (cmd 3 (pb 8 64 + pb 16 1 + pb 20 64)).params 8 8 % 64 = 0 ∧ 1 ≤ param (cmd 3 (pb 8 64 + pb 16 1 + pb 20 64)).params 20 2 ∧ param (cmd 3 (pb 8 64 + pb 16 1 + pb 20 64)).params 20 2 ≤ 64) ∧
    (∃ s : State, Accepted 0x04 (cmd 4 (pb 8 64 + pb 16 2049)) s ∧ param (cmd 4 (pb 8 64 + pb 16 2049)).params 8 8 % 64 = 0 ∧ ticketOf s.dev (param (cmd 4 (pb 8 64 + pb 16 2049)).params 16 4) = some 1) ∧
    (∃ s : State, Accepted 0x02 (cmd 2 (pb 8 4097 + pb 16 7720)) s ∧ (param (cmd 2 (pb 8 4097 + pb 16 7720)).params 8 8 % 4096 ≠ 0 ∨ param (cmd 2 (pb 8 4097 + pb 16 7720)).params 16 4 < 7720)) ∧
    (∃ s : State, Accepted 0x02 (cmd 2 (pb 8 4096 + pb 16 7719)) s ∧ (param (cmd 2 (pb 8 4096 + pb 16 7719)).params 8 8 % 4096 ≠ 0 ∨ param (cmd 2 (pb 8 4096 + pb 16 7719)).params 16 4 < 7720)) ∧
    (∃ s : State, Accepted 0x03 (cmd 3 (pb 8 64 + pb 20 65)) s ∧ (param (cmd 3 (pb 8 64 + pb 20 65)).params 8 8 % 64 ≠ 0 ∨ param (cmd 3 (pb 8 64 + pb 20 65)).params 20 2 = 0 ∨ 64 < param (cmd 3 (pb 8 64 + pb 20 65)).params 20 2)) ∧
    (∃ s : State, Accepted 0x03 (cmd 3 (pb 8 64)) s ∧ (param (cmd 3 (pb 8 64)).params 8 8 % 64 ≠ 0 ∨ param (cmd 3 (pb 8 64)).params 20 2 = 0 ∨ 64 < param (cmd 3 (pb 8 64)).params 20 2)) ∧
    (∃ s : State, Accepted 0x04 (cmd 4 (pb 8 64 + pb 16 2049)) s ∧ param (cmd 4 (pb 8 64 + pb 16 2049)).params 8 8 % 64 = 0 ∧ ticketOf s.dev (param (cmd 4 (pb 8 64 + pb 16 2049)).params 16 4) = none) ∧
    (∃ s : State, Accepted 0x04 (cmd 4 (pb 8 63 + pb 16 2049)) s ∧ param (cmd 4 (pb 8 63 + pb 16 2049)).params 8 8 % 64 ≠ 0) := by
  refine ⟨?_, ?_, ?_, ?_, ?_, ?_, ?_, ?_, ?_, ?_⟩
  · exact ⟨mk (base .ready), by unfold Accepted; decide +kernel⟩
  · exact ⟨mk (base .ready), by unfold Accepted; decide +kernel⟩
  · exact ⟨mk { base .ready with faults := { log := [{ blankRec with seq := 1 }], head := 1 } }, by unfold Accepted; decide +kernel⟩
  · exact ⟨mk { base .ready with srv := { tickets := [(1, { gen := 1, state := .ended })] } }, by unfold Accepted; decide +kernel⟩
  · exact ⟨mk (base .ready), by unfold Accepted; decide +kernel⟩
  · exact ⟨mk (base .ready), by unfold Accepted; decide +kernel⟩
  · exact ⟨mk (base .ready), by unfold Accepted; decide +kernel⟩
  · exact ⟨mk (base .ready), by unfold Accepted; decide +kernel⟩
  · exact ⟨mk (base .ready), by unfold Accepted; decide +kernel⟩
  · exact ⟨mk (base .ready), by unfold Accepted; decide +kernel⟩

theorem witness_RingRegistersComplete :
    (∃ s : State, barOpen s.dev = true ∧ (getRing s.dev 0).enable = true ∧ 3 % 4096 < ringSize (getRing s.dev 0)) ∧
    (∃ s : State, barOpen s.dev = true ∧ ringSize (getRing s.dev 0) ≤ 16 % 4096) ∧
    (∃ s : State, barOpen s.dev = true ∧ (getRing s.dev 7).enable = false) ∧
    (∃ s : State, barOpen s.dev = true ∧ (getRing s.dev 0).job ≠ none) := by
  refine ⟨?_, ?_, ?_, ?_⟩
  · exact ⟨mk (base .ready), by decide +kernel⟩
  · exact ⟨mk (base .ready), by decide +kernel⟩
  · exact ⟨mk (base .ready), by decide +kernel⟩
  · exact ⟨mk (busy .ready), by decide +kernel⟩

theorem witness_RingDmaErrorStopsTheRing :
    (∃ s : State, serves s.dev 0 = true) ∧
    (∃ s : State, (getRing s.dev 0).job ≠ none) := by
  refine ⟨?_, ?_⟩
  · exact ⟨mk (base .ready), by decide +kernel⟩
  · exact ⟨mk (busy .ready), by decide +kernel⟩

theorem witness_W1cSetWins : (∃ s : State, barFull s.dev = true) := by
  exact ⟨mk (base .ready), by decide +kernel⟩

theorem witness_CvRegisterWritesComplete : (∃ s : State, barFull s.dev = true) := by
  exact ⟨mk (base .ready), by decide +kernel⟩

theorem witness_InterruptCommandsComplete :
    (∃ s : State, barFull s.dev = true ∧ summary s.dev &&& (1 &&& 0x3FFF) &&& ~~~s.dev.host.irqMask ≠ 0 ∧ s.dev.host.vec2Open = false ∧ s.dev.host.msixUnmasked.getLsbD 2 = false) ∧
    (∃ s : State, s.dev.host.vec2Open = true ∧ s.dev.host.vec2Due = true ∧ s.dev.host.msixUnmasked.getLsbD 2 = true) ∧
    (∃ s : State, (getRing s.dev 0).irqEn = true ∧ 0 < (getRing s.dev 0).posted ∧ (getRing s.dev 0).time ≠ 0) := by
  refine ⟨?_, ?_, ?_⟩
  · exact ⟨mk { base .ready with evs := [{ flags := 1 }] }, by decide +kernel⟩
  · exact ⟨mk { base .ready with host := { vec2Open := true, vec2Due := true, msixUnmasked := 4 } }, by decide +kernel⟩
  · exact ⟨mk { base .ready with host := { rings := [(0, { posted := 1, time := 4, count := 9 })], msixUnmasked := 0x100 } }, by decide +kernel⟩

theorem witness_CheckUnitWritesComplete :
    (∃ s : State, barFull s.dev = true ∧ (getChk s.dev 11).active = false) ∧
    (∃ s : State, barFull s.dev = true ∧ (getChk s.dev 0).active = false) ∧
    (∃ s : State, barFull s.dev = true ∧ ((chkChan s.dev 12).state = .faulted ∨ (chkChan s.dev 12).state = .aborted)) := by
  refine ⟨?_, ?_, ?_⟩
  · exact ⟨mk (base .ready), by decide +kernel⟩
  · exact ⟨mk (base .ready), by decide +kernel⟩
  · exact ⟨mk { base .ready with dram := { chans := [(0, { state := .faulted })] } }, by decide +kernel⟩

theorem witness_RegisterAccessComplete :
    (∃ s : State, barFull s.dev = true) ∧
    (∃ s : State, barOpen s.dev = true ∧ ¬ (1 = 4 ∧ 0x10 % 4 = 0) ∧ ¬ (1 = 8 ∧ 0x10 % 8 = 0)) ∧
    (∃ s : State, barFull s.dev = true ∧ 0x100100 % 8 = 0 ∧ (reg64 s.dev 0x100100).isSome = true) := by
  refine ⟨?_, ?_, ?_⟩
  · exact ⟨mk (base .ready), by decide +kernel⟩
  · exact ⟨mk (base .ready), by decide +kernel⟩
  · exact ⟨mk { base .ready with tick := 2 ^ 33, plan := planOf doc, doms := [(0, { going with step := 2 ^ 33 })] }, by decide +kernel⟩

theorem witness_StagingWriteComplete : (∃ s : State, barOpen s.dev = true ∧ 0x0FFFFFFC + [1, 2, 3, (4 : Byte)].length ≤ 0x10000000 ∧ lockedByte (lockedRanges s.dev) 0x0FFFFFFF = false) := by
  exact ⟨mk (base .ready), by decide +kernel⟩

theorem witness_ChStateReadsTheState : (∃ s : State, barOpen s.dev = true) := by
  exact ⟨mk (base .ready), by decide +kernel⟩

theorem witness_ChCoverReadsTheCover : (∃ s : State, barFull s.dev = true) := by
  exact ⟨mk { base .ready with net := { covered := [1919] }, plan := planOf { doc with scripts := [{ stall := 1919, words := [], cover := some (1918, []) }] } }, by decide +kernel⟩

theorem witness_SidebandTransfersComplete :
    (∃ s : State, s.dev.state ≠ .cold) ∧
    (∃ s : State, s.dev.state ≠ .cold ∧ [(5 : Byte), 0, 0, 0].length = 4) ∧
    (∃ s : State, s.dev.state ≠ .cold ∧ [(5 : Byte)] ≠ [] ∧ (0x1000 : W16) ≠ 0x1064) := by
  refine ⟨?_, ?_, ?_⟩
  · exact ⟨mk { base .ready with side := { ptr := 0x1000 } }, by decide +kernel⟩
  · exact ⟨mk (base .ready), by decide +kernel⟩
  · exact ⟨mk (base .ready), by decide +kernel⟩

theorem witness_SidebandCommonCommandsComplete :
    (∃ s : State, s.dev.state ≠ .cold ∧ s.dev.side.dynAddr = none ∧ (0x53 : BitVec 7).toNat = 0x50 + s.dev.pwr.slot ∧ (1 : Byte).getLsbD 0 = true ∧ s.dev.side.ibis = 1 :: [2]) ∧
    (∃ s : State, s.dev.side.dynAddr = none) ∧
    (∃ s : State, s.dev.state ≠ .cold) := by
  refine ⟨?_, ?_, ?_⟩
  · exact ⟨mk { base .ready with side := { ibis := [1, 2], ibiOn := true }, pwr := { (base .ready).pwr with slot := 3 } }, by decide +kernel⟩
  · exact ⟨mk { base .ready with pwr := { (base .ready).pwr with slot := 3 } }, by decide +kernel⟩
  · exact ⟨mk (base .ready), by decide +kernel⟩

theorem witness_SupplyUpCompletes :
    (∃ s : State, railsUp s.dev.pwr = false ∧ s.dev.pwr.tripped = false) ∧
    (∃ s : State, railsUp s.dev.pwr = true ∨ s.dev.pwr.tripped = true) ∧
    (∃ s : State, s.dev.pwr.sequencing = true ∧ s.dev.pwr.perstWaits = some (5, 2)) ∧
    (∃ s : State, s.dev.pwr.perst = true ∧ s.dev.pwr.railsGood = true) ∧
    (∃ s : State, s.dev.pwr.perst = true ∧ s.dev.pwr.railsGood = false) := by
  refine ⟨?_, ?_, ?_, ?_, ?_⟩
  · exact ⟨State.reset, by decide +kernel⟩
  · exact ⟨mk (base .ready), by decide +kernel⟩
  · exact ⟨mk { state := .cold, pwr := { sequencing := true, perstWaits := some (5, 2), perst := false } }, by decide +kernel⟩
  · exact ⟨mk { state := .cold, pwr := { railsGood := true } }, by decide +kernel⟩
  · exact ⟨State.reset, by decide +kernel⟩

theorem witness_ResetsAndTripsComplete : (∃ s : State, s.dev.pwr.outOfReset = true ∧ s.dev.pwr.railsGood = true) := by
  exact ⟨mk (base .ready), by decide +kernel⟩

theorem witness_InputAndClockEventsComplete :
    (∃ s : State, s.dev.pwr.inputLow = false ∧ s.dev.pwr.outOfReset = true) ∧
    (∃ s : State, s.dev.pwr.inputLow = true) ∧
    (∃ s : State, s.dev.pwr.refLost = false ∧ s.dev.pwr.outOfReset = true ∧ 0 ∈ runningDoms s.dev) ∧
    (∃ s : State, isIsland 3967 = true ∧ s.dev.pwr.railsGood = true) ∧
    (∃ s : State, isIsland 0 = true ∧ islandStopped s.dev 0 = false ∧ s.dev.pwr.refLost = false ∧ s.dev.pwr.railsGood = true) := by
  refine ⟨?_, ?_, ?_, ?_, ?_⟩
  · exact ⟨mk (base .ready), by decide +kernel⟩
  · exact ⟨mk { base .ready with pwr := { (base .ready).pwr with inputLow := true } }, by decide +kernel⟩
  · exact ⟨mk (run doc going), by decide +kernel⟩
  · exact ⟨mk (base .ready), by decide +kernel⟩
  · exact ⟨mk (base .ready), by decide +kernel⟩

theorem witness_ThermalCommandsComplete :
    (∃ s : State, 63 < 64 ∧ s.dev.pwr.railsGood = true) ∧
    (∃ s : State, s.dev.pwr.outOfReset = true ∧ s.dev.therm.overTemp = false ∧ (dieTemp s.dev).1 < 1160 ∧ after (exec (.thermalEvaluation (List.replicate 16 94)) s) (fun t => decide (hbmMax t.dev < 105)) = true) ∧
    (∃ s : State, s.dev.pwr.outOfReset = true ∧ s.dev.therm.overTemp = false ∧ ((dieTemp s.dev).1 < 1160 ∧ after (exec (.thermalEvaluation (List.replicate 16 105)) s) (fun t => decide (105 ≤ hbmMax t.dev)) = true)) := by
  refine ⟨?_, ?_, ?_⟩
  · exact ⟨mk (base .ready), by decide +kernel⟩
  · exact ⟨mk { base .ready with therm := { sensors := [(0, 980)] } }, by decide +kernel⟩
  · exact ⟨mk { run doc going with therm := { stackMap := [(0, 105)] } }, by decide +kernel⟩

theorem witness_WeighbridgeCommandsComplete :
    (∃ s : State, s.dev.pwr.outOfReset = true ∧ s.dev.wb.burst = false) ∧
    (∃ s : State, s.dev.pwr.outOfReset = true ∧ s.dev.wb.burst = true ∧ s.dev.wb.implausible = false ∧ s.dev.wb.badRun < 15 ∧ s.dev.wb.fresh = true ∧ s.dev.wb.alertHold = true ∧ barOpen s.dev = true) ∧
    (∃ s : State, s.dev.wb.fresh = true) ∧
    (∃ s : State, s.dev.pwr.outOfReset = true ∧ s.dev.wb.burst = true) := by
  refine ⟨?_, ?_, ?_, ?_⟩
  · exact ⟨mk (base .ready), by decide +kernel⟩
  · exact ⟨mk { base .ready with wb := { burst := true, burstNo := 65535, fresh := true, alert := true, alertHold := true } }, by decide +kernel⟩
  · exact ⟨mk { base .ready with wb := { fresh := true } }, by decide +kernel⟩
  · exact ⟨mk { base .ready with wb := { burst := true, overlaps := 255 } }, by decide +kernel⟩

theorem witness_BootStepsComplete :
    (∃ s : State, s.dev.state = .cold ∧ s.dev.pwr.outOfReset = true ∧ s.dev.sec.hbmDone = false ∧ (∀ h, h < 16 → ((List.replicate 16 (HbmTrain.full 5))[h]?).getD .failed ≠ .failed)) ∧
    (∃ s : State, s.dev.state = .cold ∧ s.dev.pwr.outOfReset = true ∧ s.dev.sec.hbmDone = false ∧ (∃ h, h < 16 ∧ ([HbmTrain.full 5][h]?).getD .failed = .failed)) ∧
    (∃ s : State, s.dev.state = .cold ∧ s.dev.pwr.outOfReset = true ∧ s.dev.sec.romDone = false) ∧
    (∃ s : State, s.dev.state = .cold ∧ s.dev.pwr.outOfReset = true) := by
  refine ⟨?_, ?_, ?_, ?_⟩
  · exact ⟨mk { state := .cold, pwr := { outOfReset := true, railsGood := true }, sec := { romDone := true, romOk := true, idDone := true } }, by decide +kernel⟩
  · exact ⟨mk { state := .cold, pwr := { outOfReset := true, railsGood := true } }, by refine ⟨rfl, rfl, rfl, 15, by decide, rfl⟩⟩
  · exact ⟨mk { state := .cold, pwr := { outOfReset := true, railsGood := true } }, by decide +kernel⟩
  · exact ⟨mk { state := .cold, pwr := { outOfReset := true, railsGood := true }, sec := { romDone := true, romOk := true, hbmDone := true, hbmOk := true } }, by decide +kernel⟩

theorem witness_FirmwareCommandsComplete :
    (∃ s : State, Accepted 0x10 (cmd 0x10 (pb 8 0x0F000000 + pb 12 4032)) s) ∧
    (∃ s : State, Accepted 0x11 (cmd 0x11 (pb 8 0x0F000000 + pb 12 4032 + pb 24 0 + pb 26 5)) s ∧ s.dev.sec.armed = none ∧ s.dev.sec.windowOpen = false) ∧
    (∃ s : State, s.dev.sec.fwJobs = [fwJob none] ∧ (fwJob none).activate = none ∧ s.dev.state = .awaitFw ∧ fwCheck s.dev s.nv s.mem (fwJob none) true = none) ∧
    (∃ s : State, s.dev.sec.fwJobs = [(fwJob (some (ArmedFw.mk 0 0 5)))] ∧ (fwJob (some (ArmedFw.mk 0 0 5))).activate = some (ArmedFw.mk 0 0 5) ∧ s.dev.sec.armed = none ∧ s.dev.sec.windowOpen = false ∧ s.dev.state = .serving ∧ fwCheck s.dev s.nv s.mem (fwJob (some (ArmedFw.mk 0 0 5))) true = none) ∧
    (∃ s : State, s.dev.sec.fwJobs = [{ fwJob none with len := 4033 }] ∧ s.dev.sec.armed = none ∧ s.dev.sec.windowOpen = false ∧ fwCheck s.dev s.nv s.mem { fwJob none with len := 4033 } true = some (1, .badArg)) ∧
    (∃ s : State, s.dev.sec.starting = true ∧ s.dev.state = .awaitFw) ∧
    (∃ s : State, Accepted 0x12 (cmd 0x12 0) s ∧ s.dev.sec.armed ≠ none) ∧
    (∃ s : State, s.dev.sec.switching = true) := by
  refine ⟨?_, ?_, ?_, ?_, ?_, ?_, ?_, ?_⟩
  · exact ⟨mk { base .awaitFw with sec := {} }, by unfold Accepted; decide +kernel⟩
  · exact ⟨mk (base .serving), by unfold Accepted; decide +kernel⟩
  · exact ⟨{ pending := [], nv := fwRom, mem := fwMem, dev := loadDev }, by exact ⟨rfl, rfl, rfl, fw_passes⟩⟩
  · exact ⟨{ pending := [], nv := fwRom, mem := fwMem, dev := armDev }, by exact ⟨rfl, rfl, rfl, rfl, rfl, fw_passes_armed⟩⟩
  · exact ⟨{ pending := [], nv := fwRom, mem := fwMem, dev := { busy .awaitFw with sec := { fwJobs := [{ fwJob none with len := 4033 }] } } }, by decide +kernel⟩
  · exact ⟨mk { base .awaitFw with sec := { starting := true, running := some img } }, by decide +kernel⟩
  · exact ⟨mk { base .ready with sec := { running := some img, armed := some (ArmedFw.mk 0 9 5), pend := some img } }, by unfold Accepted; decide +kernel⟩
  · exact ⟨mk { run doc going with sec := { switching := true } }, by decide +kernel⟩

theorem witness_ConfirmationWindowCompletes :
    (∃ s : State, s.dev.sec.windowOpen = true ∧ s.dev.sec.switching = false ∧ s.dev.sec.running = some { img with svn := 3, flags := 2 } ∧ bitOf ({ img with svn := 3, flags := 2 } : FwImage).flags.toNat 1 = true ∧ ({ img with svn := 3, flags := 2 } : FwImage).svn ≤ 64) ∧
    (∃ s : State, s.dev.sec.windowOpen = true ∧ fwRuns s.dev = true ∧ Instr.clerkTrap ∈ [Instr.confirmationWindowExpiry, .clerkTrap]) ∧
    (∃ s : State, fwRuns s.dev = true ∧ s.dev.sec.windowOpen = false ∧ runningDoms s.dev ≠ []) := by
  refine ⟨?_, ?_, ?_⟩
  · exact ⟨mk { base .serving with sec := { windowOpen := true, running := some { img with svn := 3, flags := 2 } } }, by decide +kernel⟩
  · exact ⟨mk { base .serving with sec := { windowOpen := true, running := some img } }, by decide +kernel⟩
  · exact ⟨mk (run doc going), by decide +kernel⟩

theorem witness_PatternCommandsComplete :
    (∃ s : State, Accepted 0x13 (cmd 0x13 (pb 8 0x0F000000 + pb 12 6592)) s) ∧
    (∃ s : State, s.dev.sec.patJobs = [(0, 0x0F000000, 6592)] ∧ 0x0F000000 + 6592 ≤ 0x10000000 ∧ 6592 ≤ 0x400000 ∧ patParse (staged s.mem 0x0F000000 6592) ≠ none ∧ (patParse (staged s.mem 0x0F000000 6592)).map (·.serial) = some 8 ∧ patSerial s.dev ≤ 8) := by
  refine ⟨?_, ?_⟩
  · exact ⟨mk (base .ready), by unfold Accepted; decide +kernel⟩
  · exact ⟨{ pending := [], nv := {}, mem := stage [(0x0F000000, asciiBytes "DXFLPATS" ++ [1, 0, 1, 0, 8]), (0x0F000010, leBytes 8 6592)], dev := { busy .serving with sec := { running := some img, patJobs := [(0, 0x0F000000, 6592)] } } }, by decide +kernel⟩

theorem witness_PlanCommandsComplete :
    (∃ s : State, Accepted 0x20 (cmd 0x20 0) s ∧ s.dev.plan.validating = false ∧ (s.dev.state ≠ .faulted ∨ s.dev.pwr.refLost = false) ∧ inProgress s.dev = []) ∧
    (∃ s : State, Accepted 0x20 (cmd 0x20 0) s ∧ s.dev.plan.validating = true) ∧
    (∃ s : State, Accepted 0x20 (cmd 0x20 0) s ∧ s.dev.plan.validating = false ∧ s.dev.state = .faulted ∧ s.dev.pwr.refLost = true) ∧
    (∃ s : State, s.dev.plan.validating = true ∧ planCheck (stagedPlan s.dev s.mem) s.dev.host.stagedEnd s.nv.fuses (sha3 (deviceIdKey s.nv)) (readTables (stagedPlan s.dev s.mem) small) true true = none) ∧
    (∃ s : State, s.dev.plan.validating = true ∧ planCheck (stagedPlan s.dev s.mem) s.dev.host.stagedEnd s.nv.fuses (sha3 (deviceIdKey s.nv)) (readTables (stagedPlan s.dev s.mem) small) true true = some (1, 0, 0) ∧ (∀ j, (getRing s.dev s.dev.plan.ring).job = some j → j.opcode = 0x20)) ∧
    (∃ s : State, theDoc s.dev = some small ∧ s.dev.state = .awaitPlan ∧ s.dev.plan.validating = false) := by
  refine ⟨?_, ?_, ?_, ?_, ?_, ?_⟩
  · exact ⟨mk (base .held), by unfold Accepted; decide +kernel⟩
  · exact ⟨mk { base .awaitPlan with plan := { validating := true } }, by unfold Accepted; decide +kernel⟩
  · exact ⟨mk { base .faulted with pwr := { (base .faulted).pwr with refLost := true } }, by unfold Accepted; decide +kernel⟩
  · exact ⟨{ pending := [], nv := { fuses := { roots := [rootDigest], rootsValid := 1 } }, mem := planMem, dev := { planBusy with plan := { validating := true }, host := { (busy .awaitPlan).host with stagedEnd := 10032 } } }, by exact ⟨rfl, plan_passes _ _ rfl⟩⟩
  · exact ⟨mk { planBusy with plan := { validating := true } }, by refine ⟨rfl, by decide +kernel, fun j h => ?_⟩; cases h; rfl⟩
  · exact ⟨{ pending := [], nv := {}, mem := [(5, 1)], dev := { base .awaitPlan with plan := planOf small } }, by decide +kernel⟩

theorem witness_EpochSetCompletes :
    (∃ s : State, Accepted 0x21 (cmd 0x21 (pb 8 5 + pb 12 0x0FFF1000)) s ∧ ¬ (param (cmd 0x21 (pb 8 5 + pb 12 0x0FFF1000)).params 8 4 ≤ s.dev.epochs.cur ∨ 0x10000000 < param (cmd 0x21 (pb 8 5 + pb 12 0x0FFF1000)).params 12 4 + 61440 ∨ (staged s.mem (param (cmd 0x21 (pb 8 5 + pb 12 0x0FFF1000)).params 12 4) 61440).any floorBad = true) ∧ (s.dev.epochs.pins.any fun e => decide (e.1 < s.dev.epochs.cur) && decide (0 < e.2)) = false) ∧
    (∃ s : State, Accepted 0x21 (cmd 0x21 (pb 8 5 + pb 12 0x0FFF1000)) s ∧ (param (cmd 0x21 (pb 8 5 + pb 12 0x0FFF1000)).params 8 4 ≤ s.dev.epochs.cur ∨ 0x10000000 < param (cmd 0x21 (pb 8 5 + pb 12 0x0FFF1000)).params 12 4 + 61440 ∨ (staged s.mem (param (cmd 0x21 (pb 8 5 + pb 12 0x0FFF1000)).params 12 4) 61440).any floorBad = true)) ∧
    (∃ s : State, Accepted 0x21 (cmd 0x21 (pb 8 5 + pb 12 0x0FFF1000)) s ∧ ¬ (param (cmd 0x21 (pb 8 5 + pb 12 0x0FFF1000)).params 8 4 ≤ s.dev.epochs.cur ∨ 0x10000000 < param (cmd 0x21 (pb 8 5 + pb 12 0x0FFF1000)).params 12 4 + 61440 ∨ (staged s.mem (param (cmd 0x21 (pb 8 5 + pb 12 0x0FFF1000)).params 12 4) 61440).any floorBad = true) ∧ (s.dev.epochs.pins.any fun e => decide (e.1 < s.dev.epochs.cur) && decide (0 < e.2)) = true) := by
  refine ⟨?_, ?_, ?_⟩
  · exact ⟨mk { base .ready with epochs := { cur := 4 } }, by refine ⟨by unfold Accepted; decide +kernel, by refine not_or.mpr ⟨by decide, not_or.mpr ⟨by decide +kernel, ?_⟩⟩; rw [mk, staged_nil, List.any_replicate]; decide +kernel, by decide⟩⟩
  · exact ⟨mk { base .ready with epochs := { cur := 5 } }, by exact ⟨by unfold Accepted; decide +kernel, Or.inl (by decide)⟩⟩
  · exact ⟨mk { base .ready with epochs := { cur := 4, pins := [(3, 1)] } }, by refine ⟨by unfold Accepted; decide +kernel, by refine not_or.mpr ⟨by decide, not_or.mpr ⟨by decide +kernel, ?_⟩⟩; rw [mk, staged_nil, List.any_replicate]; decide +kernel, by decide⟩⟩

theorem witness_ServeStateCommandsComplete :
    (∃ s : State, Accepted 0x22 (cmd 0x22 0) s ∧ (∀ e ∈ planDomains s.dev, e.machine = true → parentOf s.dev e.num ≠ none)) ∧
    (∃ s : State, Accepted 0x22 (cmd 0x22 0) s ∧ planDomains s.dev = [{ dom0 with machine := true }] ∧ (getDom s.dev 0).running = false ∧ (getDom s.dev 0).faultRaised = false) ∧
    (∃ s : State, Accepted 0x23 (cmd 0x23 0) s ∧ runningDoms s.dev ≠ []) ∧
    (∃ s : State, Accepted 0x23 (cmd 0x23 0) s ∧ runningDoms s.dev = []) ∧
    (∃ s : State, Accepted 0x24 (cmd 0x24 0) s ∧ countState s.dev admitted = 0 ∧ runningDoms s.dev ≠ []) ∧
    (∃ s : State, Accepted 0x24 (cmd 0x24 0) s ∧ countState s.dev admitted = 0 ∧ runningDoms s.dev = []) ∧
    (∃ s : State, Accepted 0x24 (cmd 0x24 0) s ∧ 0 < countState s.dev admitted) := by
  refine ⟨?_, ?_, ?_, ?_, ?_, ?_, ?_⟩
  · exact ⟨mk { base .ready with plan := planOf doc }, by unfold Accepted; decide +kernel⟩
  · exact ⟨mk { base .ready with plan := planOf { doc with domains := [{ dom0 with machine := true }] } }, by unfold Accepted; decide +kernel⟩
  · exact ⟨mk (run doc going), by unfold Accepted; decide +kernel⟩
  · exact ⟨mk (base .serving), by unfold Accepted; decide +kernel⟩
  · exact ⟨mk { run doc going with state := .draining }, by unfold Accepted; decide +kernel⟩
  · exact ⟨mk (base .draining), by unfold Accepted; decide +kernel⟩
  · exact ⟨mk (tickDev .draining (tick .decode)), by unfold Accepted; decide +kernel⟩

theorem witness_CustomerAndAdapterCommandsComplete :
    (∃ s : State, Accepted 0x40 (cmd 0x40 (pb 8 5 + pb 10 1 + pb 12 0 + pb 16 7 + pb 20 9)) s ∧ (bitOf (param (cmd 0x40 (pb 8 5 + pb 10 1 + pb 12 0 + pb 16 7 + pb 20 9)).params 10 1) 4 = true ∨ param (cmd 0x40 (pb 8 5 + pb 10 1 + pb 12 0 + pb 16 7 + pb 20 9)).params 12 2 < (serve s.dev).queues.length)) ∧
    (∃ s : State, Accepted 0x41 (cmd 0x41 (pb 8 2 + pb 12 5 + pb 14 1 + pb 16 6145 + pb 20 0 + pb 28 4096)) s ∧ param (cmd 0x41 (pb 8 2 + pb 12 5 + pb 14 1 + pb 16 6145 + pb 20 0 + pb 28 4096)).params 14 1 ≤ 1 ∧ param (cmd 0x41 (pb 8 2 + pb 12 5 + pb 14 1 + pb 16 6145 + pb 20 0 + pb 28 4096)).params 8 4 ≠ 0xFFFFFFFF ∧ mfind s.dev.srv.adapters (param (cmd 0x41 (pb 8 2 + pb 12 5 + pb 14 1 + pb 16 6145 + pb 20 0 + pb 28 4096)).params 8 4) = none ∧ s.dev.srv.adapterSets = [] ∧ s.dev.srv.adLoads = [] ∧ 0 < param (cmd 0x41 (pb 8 2 + pb 12 5 + pb 14 1 + pb 16 6145 + pb 20 0 + pb 28 4096)).params 28 8 ∧ param (cmd 0x41 (pb 8 2 + pb 12 5 + pb 14 1 + pb 16 6145 + pb 20 0 + pb 28 4096)).params 20 8 + param (cmd 0x41 (pb 8 2 + pb 12 5 + pb 14 1 + pb 16 6145 + pb 20 0 + pb 28 4096)).params 28 8 ≤ ((theDoc s.dev).map fun p => (regionOf p .adapter).size).getD 0 ∧ adapterRanges s.dev = [] ∧ sourceUp s.dev (param (cmd 0x41 (pb 8 2 + pb 12 5 + pb 14 1 + pb 16 6145 + pb 20 0 + pb 28 4096)).params 14 1) (param (cmd 0x41 (pb 8 2 + pb 12 5 + pb 14 1 + pb 16 6145 + pb 20 0 + pb 28 4096)).params 16 4) = true) ∧
    (∃ s : State, Accepted 0x42 (cmd 0x42 (pb 8 2)) s ∧ (mfind s.dev.srv.adapters (param (cmd 0x42 (pb 8 2)).params 8 4)).isSome = true ∧ adapterPinned s.dev (param (cmd 0x42 (pb 8 2)).params 8 4) = false) ∧
    (∃ s : State, Accepted 0x45 (cmd 0x45 (pb 8 5)) s) := by
  refine ⟨?_, ?_, ?_, ?_⟩
  · exact ⟨mk (run doc going), by unfold Accepted; decide +kernel⟩
  · exact ⟨mk { base .ready with plan := planOf { doc with regions := [{ kind := .adapter, base := 0, size := 0x10000 }] }, eth := { flows := [(3, theFlow 1)] } }, by unfold Accepted; decide +kernel⟩
  · exact ⟨mk { base .ready with srv := { adapters := [(2, { customer := 5, rank := 1, offset := 0, length := 9, digest := 0, serial := 0, part := none, usable := true })] } }, by unfold Accepted; decide +kernel⟩
  · exact ⟨mk (base .ready), by unfold Accepted; decide +kernel⟩

theorem witness_TicketCommandsComplete :
    (∃ s : State, Accepted 0x43 (cmd 0x43 (pb 8 2049)) s ∧ liveHandle s.dev (param (cmd 0x43 (pb 8 2049)).params 8 4) ≠ none) ∧
    (∃ s : State, Accepted 0x44 (cmd 0x44 (pb 8 2049)) s ∧ liveHandle s.dev (param (cmd 0x44 (pb 8 2049)).params 8 4) = some 1 ∧ inLane (getTicket s.dev 1) = true) ∧
    (∃ s : State, Accepted 0x43 (cmd 0x43 (pb 8 2049)) s ∧ liveHandle s.dev (param (cmd 0x43 (pb 8 2049)).params 8 4) = none) ∧
    (∃ s : State, (getTicket s.dev 1).state = .ended) := by
  refine ⟨?_, ?_, ?_, ?_⟩
  · exact ⟨mk (tickDev .serving (tick .decode)), by unfold Accepted; decide +kernel⟩
  · exact ⟨mk (tickDev .serving (tick .decode)), by unfold Accepted; decide +kernel⟩
  · exact ⟨mk (run doc going), by unfold Accepted; decide +kernel⟩
  · exact ⟨mk (tickDev .serving (tick .ended)), by decide +kernel⟩

theorem witness_RestockCommandsComplete :
    (∃ s : State, Accepted 0x30 (cmd 0x30 (pb 8 0 + pb 9 0 + pb 10 1 + pb 12 5 + pb 16 6145 + pb 20 0x0F000000)) s ∧ isStockPart s.dev 0 = true ∧ param (cmd 0x30 (pb 8 0 + pb 9 0 + pb 10 1 + pb 12 5 + pb 16 6145 + pb 20 0x0F000000)).params 10 1 ≤ 1 ∧ param (cmd 0x30 (pb 8 0 + pb 9 0 + pb 10 1 + pb 12 5 + pb 16 6145 + pb 20 0x0F000000)).params 12 4 ≠ 0 ∧ (getPart s.dev 0).restock = none ∧ (getPart s.dev 0).refresh = none ∧ sourceUp s.dev (param (cmd 0x30 (pb 8 0 + pb 9 0 + pb 10 1 + pb 12 5 + pb 16 6145 + pb 20 0x0F000000)).params 10 1) (param (cmd 0x30 (pb 8 0 + pb 9 0 + pb 10 1 + pb 12 5 + pb 16 6145 + pb 20 0x0F000000)).params 16 4) = true ∧ param (cmd 0x30 (pb 8 0 + pb 9 0 + pb 10 1 + pb 12 5 + pb 16 6145 + pb 20 0x0F000000)).params 9 1 = 0 ∧ param (cmd 0x30 (pb 8 0 + pb 9 0 + pb 10 1 + pb 12 5 + pb 16 6145 + pb 20 0x0F000000)).params 20 4 + 8 * 1 ≤ 0x10000000 ∧ (chunkDefs s.dev 0).length = 1 ∧ placeFits s.dev s.nv 0 (chunkDefs s.dev 0) (placeEntries 1 (staged s.mem (param (cmd 0x30 (pb 8 0 + pb 9 0 + pb 10 1 + pb 12 5 + pb 16 6145 + pb 20 0x0F000000)).params 20 4) 8)) = true ∧ (getPart s.dev 0).sideState = 0) ∧
    (∃ s : State, Accepted 0x30 (cmd 0x30 (pb 8 0 + pb 9 1 + pb 10 1 + pb 12 4 + pb 16 6145)) s ∧ isStockPart s.dev 0 = true ∧ param (cmd 0x30 (pb 8 0 + pb 9 1 + pb 10 1 + pb 12 4 + pb 16 6145)).params 10 1 ≤ 1 ∧ param (cmd 0x30 (pb 8 0 + pb 9 1 + pb 10 1 + pb 12 4 + pb 16 6145)).params 12 4 ≠ 0 ∧ (getPart s.dev 0).restock = none ∧ (getPart s.dev 0).refresh = none ∧ sourceUp s.dev (param (cmd 0x30 (pb 8 0 + pb 9 1 + pb 10 1 + pb 12 4 + pb 16 6145)).params 10 1) (param (cmd 0x30 (pb 8 0 + pb 9 1 + pb 10 1 + pb 12 4 + pb 16 6145)).params 16 4) = true ∧ param (cmd 0x30 (pb 8 0 + pb 9 1 + pb 10 1 + pb 12 4 + pb 16 6145)).params 9 1 = 1 ∧ (getPart s.dev 0).live = param (cmd 0x30 (pb 8 0 + pb 9 1 + pb 10 1 + pb 12 4 + pb 16 6145)).params 12 4 ∧ (getPart s.dev 0).gone = false ∧ genComplete s.dev 0 4 = false ∧ (∀ e ∈ (getPart s.dev 0).liveMap, isShelf e.2.1 = false) ∧ pinned s.dev 0 4 = 0 ∧ recentlyPinned s.dev 0 4 = false ∧ (∀ e ∈ (getPart s.dev 0).liveMap, planeCount s.dev s.nv (physArr s.dev e.2.1) e.2.2 < 30000)) ∧
    (∃ s : State, Accepted 0x37 (cmd 0x37 (pb 8 1 + pb 12 6145)) s ∧ param (cmd 0x37 (pb 8 1 + pb 12 6145)).params 8 1 ≤ 1 ∧ (theDoc s.dev).bind (·.shelf) = some dig0 ∧ (getPart s.dev 16).restock = none ∧ sourceUp s.dev (param (cmd 0x37 (pb 8 1 + pb 12 6145)).params 8 1) (param (cmd 0x37 (pb 8 1 + pb 12 6145)).params 12 4) = true ∧ shelfWorn s.nv s.dev = false) := by
  refine ⟨?_, ?_, ?_⟩
  · exact ⟨{ mk (stockDev .ready live4) with mem := stage [(0x0F000004, [2, 0, 9])] }, by unfold Accepted; decide +kernel⟩
  · exact ⟨mk (stockDev .ready { live4 with liveDone := [] }), by unfold Accepted; decide +kernel⟩
  · exact ⟨mk { stockDev .stocking live4 with plan := planOf { stockDoc with shelf := some dig0 } }, by unfold Accepted; decide +kernel⟩

theorem witness_RestockHeaderCompletes :
    (∃ s : State, (getPart s.dev 0).restock = some rst ∧ rst.verified = false ∧ rst.halted = false ∧ rst.inPlace = false ∧ headerOk s.dev 0 rst.gen (hdr 5) = true ∧ genAllowed s.dev 0 (getPart s.dev 0) rst = true ∧ (((theDoc s.dev).map (·.pubKeys)).getD []).contains (digestAt (hdr 5) 64) = true ∧ knownRoot s.dev 0 (getPart s.dev 0) rst = none ∧ [(11 : Digest)].length = (chunkDefs s.dev 0).length ∧ merkleRoot [11] = digestAt (hdr 5) 32) ∧
    (∃ s : State, (getPart s.dev 0).restock = some rst ∧ rst.verified = false ∧ rst.halted = false ∧ rst.inPlace = false ∧ headerOk s.dev 0 rst.gen (hdr 6) = false) ∧
    (∃ s : State, (getPart s.dev 0).restock = some rst ∧ rst.verified = false ∧ rst.halted = false ∧ rst.inPlace = false ∧ headerOk s.dev 0 rst.gen (hdr 5) = true ∧ genAllowed s.dev 0 (getPart s.dev 0) rst = true) := by
  refine ⟨?_, ?_, ?_⟩
  · exact ⟨mk { stockDev .ready { live4 with restock := some rst } with host := (busy .ready).host }, by decide +kernel⟩
  · exact ⟨mk { stockDev .ready { live4 with restock := some rst } with host := (busy .ready).host }, by decide +kernel⟩
  · exact ⟨mk { stockDev .ready { live4 with restock := some rst } with host := (busy .ready).host }, by decide +kernel⟩

theorem witness_FlipAndReleaseCommandsComplete :
    (∃ s : State, Accepted 0x31 (cmd 0x31 (pb 8 0 + pb 9 0 + pb 12 5 + pb 16 6)) s ∧ partOf s.dev 0 = some part0 ∧ param (cmd 0x31 (pb 8 0 + pb 9 0 + pb 12 5 + pb 16 6)).params 9 1 = 0 ∧ genComplete s.dev 0 5 = true ∧ (getPart s.dev 0).armed = none ∧ (getDom s.dev part0.domain).step < param (cmd 0x31 (pb 8 0 + pb 9 0 + pb 12 5 + pb 16 6)).params 16 8 ∧ ¬ (s.dev.state = .ready ∧ param (cmd 0x31 (pb 8 0 + pb 9 0 + pb 12 5 + pb 16 6)).params 16 8 = 0)) ∧
    (∃ s : State, Accepted 0x31 (cmd 0x31 (pb 8 0 + pb 9 1)) s ∧ partOf s.dev 0 = some part0 ∧ param (cmd 0x31 (pb 8 0 + pb 9 1)).params 9 1 = 1 ∧ (getPart s.dev 0).armed = none ∧ s.dev.state = .ready ∧ param (cmd 0x31 (pb 8 0 + pb 9 1)).params 16 8 = 0) ∧
    (∃ s : State, Accepted 0x31 (cmd 0x31 (pb 8 0 + pb 9 0 + pb 12 5)) s ∧ partOf s.dev 0 = some part0 ∧ param (cmd 0x31 (pb 8 0 + pb 9 0 + pb 12 5)).params 9 1 = 0 ∧ (getPart s.dev 0).armed = none ∧ s.dev.state = .ready ∧ param (cmd 0x31 (pb 8 0 + pb 9 0 + pb 12 5)).params 16 8 = 0 ∧ (getPart s.dev 0).side = 5 ∧ genComplete s.dev 0 5 = true ∧ (getPart s.dev 0).gone = false) ∧
    (∃ s : State, Accepted 0x32 (cmd 0x32 (pb 8 0)) s ∧ isStockPart s.dev 0 = true ∧ (getPart s.dev 0).armed ≠ none) ∧
    (∃ s : State, Accepted 0x33 (cmd 0x33 (pb 8 0 + pb 12 5)) s ∧ partOf s.dev 0 = some part0 ∧ (getPart s.dev 0).side = 5 ∧ 2 ≤ (getPart s.dev 0).sideState ∧ pinned s.dev 0 5 = 0 ∧ (getPart s.dev 0).armed = none ∧ s.dev.state = .ready) ∧
    (∃ s : State, Accepted 0x33 (cmd 0x33 (pb 8 0 + pb 12 5)) s ∧ partOf s.dev 0 = some part0 ∧ (getPart s.dev 0).side = 5 ∧ 2 ≤ (getPart s.dev 0).sideState ∧ pinned s.dev 0 5 = 0 ∧ (getPart s.dev 0).armed = none ∧ s.dev.state = .serving ∧ (getDom s.dev part0.domain).running = true) ∧
    (∃ s : State, Accepted 0x33 (cmd 0x33 (pb 8 0 + pb 12 5)) s ∧ partOf s.dev 0 = some part0 ∧ (getPart s.dev 0).side = 5 ∧ 2 ≤ (getPart s.dev 0).sideState ∧ pinned s.dev 0 5 = 0 ∧ (getPart s.dev 0).armed = none ∧ s.dev.state = .serving ∧ (getDom s.dev part0.domain).running = false) := by
  refine ⟨?_, ?_, ?_, ?_, ?_, ?_, ?_⟩
  · exact ⟨mk (stockDev .ready side5), by unfold Accepted; decide +kernel⟩
  · exact ⟨mk (stockDev .ready live4), by unfold Accepted; decide +kernel⟩
  · exact ⟨mk (stockDev .ready side5), by unfold Accepted; decide +kernel⟩
  · exact ⟨mk (stockDev .ready { live4 with armed := some (4, 1, 9) }), by unfold Accepted; decide +kernel⟩
  · exact ⟨mk (stockDev .ready side5), by unfold Accepted; decide +kernel⟩
  · exact ⟨mk { stockDev .serving side5 with doms := [(0, going)] }, by unfold Accepted; decide +kernel⟩
  · exact ⟨mk (stockDev .serving side5), by unfold Accepted; decide +kernel⟩

theorem witness_AbortStocktakeAndRefreshComplete :
    (∃ s : State, Accepted 0x34 (cmd 0x34 (pb 8 0)) s ∧ isStockPart s.dev 0 = true ∧ (getPart s.dev 0).restock = some { rst with verified := true } ∧ (getPart s.dev 0).side = rst.gen ∧ (getPart s.dev 0).sideState = 1) ∧
    (∃ s : State, Accepted 0x34 (cmd 0x34 (pb 8 0)) s ∧ isStockPart s.dev 0 = true ∧ (getPart s.dev 0).restock = none) ∧
    (∃ s : State, Accepted 0x35 (cmd 0x35 (pb 8 1)) s ∧ s.dev.stock.takeRunning = false ∧ bitOf (param (cmd 0x35 (pb 8 1)).params 8 2) 0 = true ∧ isStockPart s.dev 0 = true ∧ (getPart s.dev 0).liveMap ≠ []) ∧
    (∃ s : State, Accepted 0x35 (cmd 0x35 (pb 8 1)) s ∧ s.dev.stock.takeRunning = true) ∧
    (∃ s : State, Accepted 0x36 (cmd 0x36 (pb 8 0 + pb 12 2 + pb 14 2 + pb 16 0x0F000000)) s ∧ isStockPart s.dev 0 = true ∧ param (cmd 0x36 (pb 8 0 + pb 12 2 + pb 14 2 + pb 16 0x0F000000)).params 12 2 ≤ param (cmd 0x36 (pb 8 0 + pb 12 2 + pb 14 2 + pb 16 0x0F000000)).params 14 2 ∧ (getPart s.dev 0).restock = none ∧ (getPart s.dev 0).refresh = none ∧ param (cmd 0x36 (pb 8 0 + pb 12 2 + pb 14 2 + pb 16 0x0F000000)).params 16 4 + 8 ≤ 0x10000000 ∧ ((chunkDefs s.dev 0).filter fun k => (getPart s.dev 0).liveMap.any fun e => decide (e.1.1 = k.chunk) && decide (param (cmd 0x36 (pb 8 0 + pb 12 2 + pb 14 2 + pb 16 0x0F000000)).params 12 2 ≤ e.2.1) && decide (e.2.1 ≤ param (cmd 0x36 (pb 8 0 + pb 12 2 + pb 14 2 + pb 16 0x0F000000)).params 14 2)) = chunkDefs s.dev 0 ∧ placeFits s.dev s.nv 0 (chunkDefs s.dev 0) (placeEntries 1 (staged s.mem (param (cmd 0x36 (pb 8 0 + pb 12 2 + pb 14 2 + pb 16 0x0F000000)).params 16 4) 8)) = true) := by
  refine ⟨?_, ?_, ?_, ?_, ?_⟩
  · exact ⟨mk (stockDev .ready { live4 with side := 5, sideState := 1, restock := some { rst with verified := true } }), by unfold Accepted; decide +kernel⟩
  · exact ⟨mk (stockDev .ready live4), by unfold Accepted; decide +kernel⟩
  · exact ⟨mk (stockDev .ready live4), by unfold Accepted; decide +kernel⟩
  · exact ⟨mk { stockDev .ready live4 with stock := { takeRunning := true } }, by unfold Accepted; decide +kernel⟩
  · exact ⟨{ mk (stockDev .ready live4) with mem := stage [(0x0F000004, [2, 0, 9])] }, by unfold Accepted; decide +kernel⟩

theorem witness_PorterUnitStoresItsBytes :
    (∃ s : State, (getChan s.dev 0 0).d = some (desc0) ∧ (getChan s.dev 0 0).state = .running ∧ 0 = (getChan s.dev 0 0).unitsDone ∧ 0 < unitsOut (getChan s.dev 0 0) ∧ (getChan s.dev 0 0).early.contains 0 = false ∧ addrError s.dev (desc0) (getChan s.dev 0 0) 0 = false ∧ (desc0 : Desc).check = false ∧ (desc0 : Desc).dstSpace = 0 ∧ desc0.op = 0 ∧ desc0.srcSpace = 0 ∧ unitLost s.dev desc0 (getChan s.dev 0 0) 0 = false) ∧
    (∃ s : State, (getChan s.dev 0 0).d = some ({ desc0 with op := 1, length := 4, count := 2, stride := 12 }) ∧ (getChan s.dev 0 0).state = .running ∧ 0 = (getChan s.dev 0 0).unitsDone ∧ 0 < unitsOut (getChan s.dev 0 0) ∧ (getChan s.dev 0 0).early.contains 0 = false ∧ addrError s.dev ({ desc0 with op := 1, length := 4, count := 2, stride := 12 }) (getChan s.dev 0 0) 0 = false ∧ ({ desc0 with op := 1, length := 4, count := 2, stride := 12 } : Desc).check = false ∧ ({ desc0 with op := 1, length := 4, count := 2, stride := 12 } : Desc).dstSpace = 0 ∧ ({ desc0 with op := 1, length := 4, count := 2, stride := 12 } : Desc).op = 1 ∧ unitLost s.dev ({ desc0 with op := 1, length := 4, count := 2, stride := 12 }) (getChan s.dev 0 0) 0 = false) ∧
    (∃ s : State, (getChan s.dev 0 0).d = some ({ desc0 with op := 3, expect := 0x0102030405060708 }) ∧ (getChan s.dev 0 0).state = .running ∧ 0 = (getChan s.dev 0 0).unitsDone ∧ 0 < unitsOut (getChan s.dev 0 0) ∧ (getChan s.dev 0 0).early.contains 0 = false ∧ addrError s.dev ({ desc0 with op := 3, expect := 0x0102030405060708 }) (getChan s.dev 0 0) 0 = false ∧ ({ desc0 with op := 3, expect := 0x0102030405060708 } : Desc).check = false ∧ ({ desc0 with op := 3, expect := 0x0102030405060708 } : Desc).dstSpace = 0 ∧ ({ desc0 with op := 3, expect := 0x0102030405060708 } : Desc).op = 3 ∧ unitLost s.dev ({ desc0 with op := 3, expect := 0x0102030405060708 }) (getChan s.dev 0 0) 0 = false) ∧
    (∃ s : State, (getChan s.dev 0 0).d = some (desc0) ∧ (getChan s.dev 0 0).state = .running ∧ 0 = (getChan s.dev 0 0).unitsDone ∧ 0 < unitsOut (getChan s.dev 0 0) ∧ (getChan s.dev 0 0).early.contains 0 = false ∧ addrError s.dev (desc0) (getChan s.dev 0 0) 0 = false ∧ (desc0 : Desc).check = false ∧ (desc0 : Desc).dstSpace = 0 ∧ desc0.op = 0 ∧ desc0.srcSpace = 0 ∧ unitLost s.dev desc0 (getChan s.dev 0 0) 0 = true) := by
  refine ⟨?_, ?_, ?_, ?_⟩
  · exact ⟨{ pending := [], nv := {}, mem := [(0x1000, 7), (0x100F, 8)], dev := chanDev .serving (chan0 .running desc0) }, by decide +kernel⟩
  · exact ⟨{ pending := [], nv := {}, mem := [(0x1000, 7), (0x100F, 8)], dev := chanDev .serving { chan0 .running ({ desc0 with op := 1, length := 4, count := 2, stride := 12 }) with total := 8, bytes := 4 } }, by decide +kernel⟩
  · exact ⟨mk (chanDev .serving (chan0 .running ({ desc0 with op := 3, expect := 0x0102030405060708 }))), by decide +kernel⟩
  · exact ⟨mk { chanDev .serving (chan0 .running desc0) with dram := { chans := [(0, chan0 .running desc0)], lost := [0x1000 / 64] } }, by decide +kernel⟩

theorem witness_PorterCommandsComplete :
    (∃ s : State, 0 < 16 ∧ ((getChan s.dev 0 0).state = .faulted ∨ (getChan s.dev 0 0).state = .aborted) ∧ (getChan s.dev 0 0).d.map (·.inSlot) = some false ∧ Accepted 0x50 (cmd 0x50 0) s) ∧
    (∃ s : State, 0 < 16 ∧ ((getChan s.dev 0 0).state = .faulted ∨ (getChan s.dev 0 0).state = .aborted) ∧ (getChan s.dev 0 0).d.map (·.inSlot) = some false ∧ Accepted 0x51 (cmd 0x51 0) s) ∧
    (∃ s : State, ¬ (param (cmd 0x51 (pb 9 16)).params 9 1 < 16) ∧ Accepted 0x51 (cmd 0x51 (pb 9 16)) s) ∧
    (∃ s : State, ¬ ((getChan s.dev 0 15).state = .faulted ∨ (getChan s.dev 0 15).state = .aborted) ∧ Accepted 0x50 (cmd 0x50 (pb 9 15)) s) := by
  refine ⟨?_, ?_, ?_, ?_⟩
  · exact ⟨mk (chanDev .serving { chan0 .faulted desc0 with cause := 1 }), by unfold Accepted; decide +kernel⟩
  · exact ⟨mk (chanDev .serving { chan0 .aborted desc0 with cause := 1 }), by unfold Accepted; decide +kernel⟩
  · exact ⟨mk (base .serving), by unfold Accepted; decide +kernel⟩
  · exact ⟨mk (base .serving), by unfold Accepted; decide +kernel⟩

theorem witness_PageRequestsComplete :
    (∃ s : State, s.dev.plan.plan ≠ none ∧ s.dev.dram.reserved + 5 ≤ s.dev.dram.free) ∧
    (∃ s : State, s.dev.plan.plan ≠ none ∧ s.dev.dram.free < s.dev.dram.reserved + 6) ∧
    (∃ s : State, s.dev.plan.plan ≠ none ∧ 0 < (getTicket s.dev 1).kvReserved ∧ s.dev.dram.pushed = 101 :: []) ∧
    (∃ s : State, s.dev.plan.plan ≠ none ∧ inPool s.dev 100 = true ∧ (getFrame s.dev 100).refs = 0 ∧ (getFrame s.dev 100).indexed = false ∧ (getFrame s.dev 100).retired = false ∧ 100 ∉ s.dev.dram.pushed ∧ 100 < s.dev.dram.kvBase + s.dev.dram.fresh) ∧
    (∃ s : State, s.dev.plan.plan ≠ none ∧ inPool s.dev 108 = true ∧ (getFrame s.dev 108).retired = false ∧ (mget s.dev.dram.dirs ((1 * 8192 * 8192 + 3) / 8192) {}).valid = true ∧ (getTicket s.dev 1).dirPpn ≠ 0 ∧ (mget s.dev.dram.maps (1 * 8192 * 8192 + 3) {}).valid = false) ∧
    (∃ s : State, s.dev.plan.plan ≠ none ∧ ticketIdle s.dev 1 = true) ∧
    (∃ s : State, s.dev.plan.plan ≠ none ∧ ticketIdle s.dev 1 = true ∧ 1 * 8192 * 8192 + 3 = 67108867 ∧ 67108867 / 8192 % 8192 ≠ 8191 ∧ 3 ≤ 67108867 % 8192) := by
  refine ⟨?_, ?_, ?_, ?_, ?_, ?_, ?_⟩
  · exact ⟨mk { run doc going with dram := { kvBase := 100, kvPages := 9, fresh := 2, pushed := [101], free := 8, reserved := 3 }, srv := { tickets := [(1, { tick .decode with kvReserved := 2 })] } }, by decide +kernel⟩
  · exact ⟨mk { run doc going with dram := { kvBase := 100, kvPages := 9, fresh := 2, pushed := [101], free := 8, reserved := 3 }, srv := { tickets := [(1, { tick .decode with kvReserved := 2 })] } }, by decide +kernel⟩
  · exact ⟨mk { run doc going with dram := { kvBase := 100, kvPages := 9, fresh := 2, pushed := [101], free := 8, reserved := 3 }, srv := { tickets := [(1, { tick .decode with kvReserved := 2 })] } }, by decide +kernel⟩
  · exact ⟨mk { run doc going with dram := { kvBase := 100, kvPages := 9, fresh := 2, pushed := [101], free := 8, reserved := 3 }, srv := { tickets := [(1, { tick .decode with kvReserved := 2 })] } }, by decide +kernel⟩
  · exact ⟨mk { run doc going with dram := { kvBase := 100, kvPages := 9, dirs := [(8192, { valid := true, ppn := 102 })] }, srv := { tickets := [(1, { tick .decode with dirPpn := 101 })] } }, by decide +kernel⟩
  · exact ⟨mk { run doc going with dram := { kvBase := 100, kvPages := 9, dirs := [(8192, { valid := true, ppn := 102 })], maps := [(67108867, { valid := true, ppn := 103 })] }, srv := { tickets := [(1, { tick .decode with dirPpn := 101 })] } }, by decide +kernel⟩
  · exact ⟨mk { run doc going with dram := { kvBase := 100, kvPages := 9, dirs := [(8192, { valid := true, ppn := 102 })], maps := [(67108867, { valid := true, ppn := 103 })] }, srv := { tickets := [(1, { tick .decode with dirPpn := 101 })] } }, by decide +kernel⟩

theorem witness_TranslationEventsComplete :
    (∃ s : State, (getChan s.dev 0 0).state = .running ∧ chanUsesKv (getChan s.dev 0 0) true = true ∧ (getMap s.dev (kvaKey 1 0)).valid = true ∧ (getMap s.dev (kvaKey 1 0)).shared = false) ∧
    (∃ s : State, (getChan s.dev 0 0).state = .running ∧ chanUsesKv (getChan s.dev 0 0) true = true ∧ (getMap s.dev (kvaKey 1 0)).valid = true ∧ (getMap s.dev (kvaKey 1 0)).shared = true) ∧
    (∃ s : State, (getChan s.dev 0 0).state = .running ∧ chanUsesKv (getChan s.dev 0 0) false = true ∧ (getMap s.dev (kvaKey 1 0)).valid = false) ∧
    (∃ s : State, (getChan s.dev 0 0).state = .running ∧ chanUsesKv (getChan s.dev 0 0) false = true ∧ (getMap s.dev (kvaKey 1 0)).valid = true) := by
  refine ⟨?_, ?_, ?_, ?_⟩
  · exact ⟨mk { run doc going with dram := { chans := [(0, { chan0 .running { desc0 with srcSpace := 1, dstSpace := 1 } with ticket := 1 })], dirs := [(8192, { valid := true, ppn := 102 })], maps := [(67108864, { valid := true, ppn := 103 })] } }, by decide +kernel⟩
  · exact ⟨mk { run doc going with dram := { chans := [(0, { chan0 .running { desc0 with srcSpace := 1, dstSpace := 1 } with ticket := 1 })], dirs := [(8192, { valid := true, ppn := 102 })], maps := [(67108864, { valid := true, shared := true, ppn := 103 })] } }, by decide +kernel⟩
  · exact ⟨mk { run doc going with dram := { chans := [(0, { chan0 .running { desc0 with srcSpace := 1, dstSpace := 1 } with ticket := 1 })], dirs := [(8192, { valid := true, ppn := 102 })], maps := [(67108864, { valid := false, ppn := 103 })] } }, by decide +kernel⟩
  · exact ⟨mk { run doc going with dram := { chans := [(0, { chan0 .running { desc0 with srcSpace := 1, dstSpace := 1 } with ticket := 1 })], dirs := [(8192, { valid := true, ppn := 102 })], maps := [(67108864, { valid := true, ppn := 103 })], fwQueue := [(9, 0, 0xFFFFFFFF)] } }, by decide +kernel⟩

theorem witness_DramErrorEventsComplete :
    (∃ s : State, s.dev.pwr.outOfReset = true ∧ stagingBase - 1 < dramTop ∧ stagingBase - 1 < stagingBase) ∧
    (∃ s : State, s.dev.pwr.outOfReset = true ∧ dramTop - 1 < dramTop) ∧
    (∃ s : State, s.dev.pwr.outOfReset = true ∧ 0 < dramTop) ∧
    (∃ s : State, s.dev.pwr.outOfReset = true ∧ dramTop ≤ dramTop) := by
  refine ⟨?_, ?_, ?_, ?_⟩
  · exact ⟨mk (base .serving), by decide +kernel⟩
  · exact ⟨mk (base .serving), by decide +kernel⟩
  · exact ⟨mk (base .serving), by decide +kernel⟩
  · exact ⟨mk (base .serving), by decide +kernel⟩

theorem witness_CalibrationAndGrantsComplete :
    (∃ s : State, s.dev.state = .stocking ∧ s.dev.mkt.initDone = false ∧ s.dev.mkt.calRound < 3 ∧ stallOf 2 / 480 = s.dev.mkt.calRound ∧ (getArr s.dev 2).retired = false ∧ convOn s.dev (stallOf 2) = true) ∧
    (∃ s : State, inInitialCal s.dev = false ∧ convOn s.dev (stallOf 2) = true ∧ (getArr s.dev 2).calibrated = true ∧ (getArr s.dev 2).retired = false ∧ (getArr s.dev 2).phase = .idle ∧ (getArr s.dev 2).window = 0) ∧
    (∃ s : State, inInitialCal s.dev = false ∧ convOn s.dev (stallOf 2) = true ∧ (getArr s.dev 2).calibrated = true ∧ (getArr s.dev 2).retired = false ∧ (getArr s.dev 2).phase = .idle ∧ (getArr s.dev 2).window ≠ 0) ∧
    (∃ s : State, inInitialCal s.dev = false ∧ convOn s.dev (stallOf 2) = true ∧ (getArr s.dev 2).phase = .reference) ∧
    (∃ s : State, inInitialCal s.dev = false ∧ convOn s.dev (stallOf 2) = true ∧ (getArr s.dev 2).phase = .margin ∧ servesStock s.dev 2 = true ∧ (getArr s.dev 2).winZero = false ∧ shadowDiffers { n := 1, err := 0, delivered := 2 } = true) ∧
    (∃ s : State, inInitialCal s.dev = false ∧ convOn s.dev (stallOf 2) = true ∧ (getArr s.dev 2).phase = .confirm ∧ ([{ n := 63, err := 63, times := 1 }] : List RefSample).all refOk = true ∧ 4096 ≤ (getArr s.dev 2).refCount ∧ s.dev.mkt.trimMode = false) ∧
    (∃ s : State, inInitialCal s.dev = false ∧ convOn s.dev (stallOf 2) = true ∧ (getArr s.dev 2).phase = .confirm ∧ ([{ n := 63, err := 63, times := 1 }] : List RefSample).all refOk = true ∧ (getArr s.dev 2).refCount < 4096 ∧ (getArr s.dev 2).winZero = false) ∧
    (∃ s : State, inInitialCal s.dev = false ∧ convOn s.dev (stallOf 2) = true ∧ (getArr s.dev 2).phase = .confirm ∧ ([{ n := 62, err := 64, times := 1 }] : List RefSample).all refOk = false ∧ (getArr s.dev 2).repeated = false) ∧
    (∃ s : State, inInitialCal s.dev = false ∧ convOn s.dev (stallOf 2) = true ∧ (getArr s.dev 2).phase = .confirm ∧ ([{ n := 62, err := 64, times := 1 }] : List RefSample).all refOk = false ∧ (getArr s.dev 2).repeated = true) ∧
    (∃ s : State, inInitialCal s.dev = false ∧ convOn s.dev (stallOf 2) = true ∧ (getArr s.dev 2).phase = .closing ∧ (getArr s.dev 2).refCount < 4096 ∧ (getArr s.dev 2).winZero = false ∧ (getArr s.dev 2).window < 68) ∧
    (∃ s : State, inInitialCal s.dev = false ∧ convOn s.dev (stallOf 2) = true ∧ (getArr s.dev 2).phase = .closing ∧ 4096 ≤ (getArr s.dev 2).refCount ∧ (getArr s.dev 2).winZero = false ∧ (getArr s.dev 2).window < 68 ∧ servesStock s.dev 2 = true ∧ 3 ≤ minMargin ((min 127 (getArr s.dev 2).winMin :: (getArr s.dev 2).hist).take 69) ∧ (getArr s.dev 2).lStep < rungOf 4) ∧
    (∃ s : State, inInitialCal s.dev = false ∧ convOn s.dev (stallOf 2) = true ∧ (getArr s.dev 2).phase = .closing ∧ 4096 ≤ (getArr s.dev 2).refCount ∧ (getArr s.dev 2).winZero = false ∧ (getArr s.dev 2).window < 68 ∧ servesStock s.dev 2 = true ∧ 3 ≤ minMargin ((min 127 (getArr s.dev 2).winMin :: (getArr s.dev 2).hist).take 69) ∧ rungOf 12 ≤ (getArr s.dev 2).lStep) ∧
    (∃ s : State, inInitialCal s.dev = false ∧ convOn s.dev (stallOf 2) = true ∧ (getArr s.dev 2).grant = none ∧ (getArr s.dev 2).phase = .margin ∧ servesStock s.dev 2 = true) ∧
    (∃ s : State, grantable (getArr s.dev 2) .mvm = true ∧ s.dev.therm.overTemp = false ∧ inInitialCal s.dev = false ∧ waitsFor s.mem s.dev 2 .mvm = true ∧ (getArr s.dev 2).grant = none ∧ shareUsed s.dev (stallOf 2) < stallShare s.dev (stallOf 2)) ∧
    (∃ s : State, grantable (getArr s.dev 2) .mvm = true ∧ s.dev.therm.overTemp = false ∧ inInitialCal s.dev = false ∧ waitsFor s.mem s.dev 2 .mvm = true ∧ (getArr s.dev 2).grant = some .verifyRead ∧ shareUsed (endGrant 2 s.dev) (stallOf 2) < stallShare (endGrant 2 s.dev) (stallOf 2)) ∧
    (∃ s : State, grantable (getArr s.dev 2) .mvm = true ∧ s.dev.therm.overTemp = false ∧ inInitialCal s.dev = false ∧ waitsFor s.mem s.dev 2 .mvm = true ∧ (getArr s.dev 2).grant = none ∧ stallShare s.dev (stallOf 2) ≤ shareUsed s.dev (stallOf 2) ∧ poolSize s.dev ≤ poolUsed s.dev) ∧
    (∃ s : State, grantable (getArr s.dev 2) .mvm = true ∧ s.dev.therm.overTemp = false ∧ inInitialCal s.dev = false ∧ waitsFor s.mem s.dev 2 .mvm = true ∧ (getArr s.dev 2).grant = none ∧ stallShare s.dev (stallOf 2) ≤ shareUsed s.dev (stallOf 2) ∧ poolUsed s.dev < poolSize s.dev ∧ poolTurn s.mem s.dev 2 .mvm = true) := by
  refine ⟨?_, ?_, ?_, ?_, ?_, ?_, ?_, ?_, ?_, ?_, ?_, ?_, ?_, ?_, ?_, ?_, ?_⟩
  · exact ⟨mk { base .stocking with plan := planOf doc }, by decide +kernel⟩
  · exact ⟨mk (arrDev .ready { calibrated := true, retries := 3 }), by decide +kernel⟩
  · exact ⟨mk (arrDev .ready { calibrated := true, retries := 3, window := 68 }), by decide +kernel⟩
  · exact ⟨mk (arrDev .ready { phase := .reference }), by decide +kernel⟩
  · exact ⟨mk (arrDev .ready { phase := .margin, refCount := 4000 }), by decide +kernel⟩
  · exact ⟨mk (arrDev .ready { phase := .confirm, refCount := 4096, newOffset := -1, newGain := 33 }), by decide +kernel⟩
  · exact ⟨mk (arrDev .ready { phase := .confirm, refCount := 4095, newOffset := -1, newGain := 33 }), by decide +kernel⟩
  · exact ⟨mk (arrDev .ready { phase := .confirm, refCount := 4096 }), by decide +kernel⟩
  · exact ⟨mk (arrDev .ready { phase := .confirm, refCount := 4096, repeated := true }), by decide +kernel⟩
  · exact ⟨mk (arrDev .ready { phase := .closing, refCount := 4095, window := 67 }), by decide +kernel⟩
  · exact ⟨mk (arrDev .ready { phase := .closing, refCount := 4096, winMin := 4, hist := [20, 19], lStep := 0 }), by decide +kernel⟩
  · exact ⟨mk (arrDev .ready { phase := .closing, refCount := 4096, winMin := 12, lStep := 0 }), by decide +kernel⟩
  · exact ⟨mk (arrDev .ready { phase := .margin }), by decide +kernel⟩
  · exact ⟨mk { withBlock 1 (wordDev mvmWord) with stock := { parts := [(0, live4)] } }, by decide +kernel⟩
  · exact ⟨mk (withArr 2 { grant := some .verifyRead } ({ withBlock 1 (wordDev mvmWord) with stock := { parts := [(0, live4)] } })), by decide +kernel⟩
  · exact ⟨mk (withArr 1 { grant := some .verifyRead } ({ withBlock 1 (wordDev mvmWord) with stock := { parts := [(0, live4)] } })), by decide +kernel⟩
  · exact ⟨mk { { withBlock 1 (wordDev mvmWord) with stock := { parts := [(0, live4)] } } with plan := planOf { doc with scripts := [{ stall := 0, words := [mvmWord], cover := none }], chunks := [chunk0, { chunk0 with chunk := 1, array := 18 }, { chunk0 with chunk := 2, array := 19 }] } }, by decide +kernel⟩

theorem witness_ScriptIssueAndDoneComplete :
    (∃ s : State, stallActive s.dev 0 = true ∧ (allWords s.dev 0)[0]? = some (sw 3 7 0 0 0) ∧ (swOf (sw 3 7 0 0 0)).op ≠ 8 ∧ (swOf (sw 3 7 0 0 0)).op ≠ 9 ∧ (getStall s.dev 0).masked.contains (getStall s.dev 0).curSlot = false ∧ unitRoom (getStall s.dev 0) (swOf (sw 3 7 0 0 0)) = true) ∧
    (∃ s : State, stallActive s.dev 0 = true ∧ (allWords s.dev 0)[0]? = some (sw 8 2 5 0 0) ∧ (swOf (sw 8 2 5 0 0)).op = 8) ∧
    (∃ s : State, stallActive s.dev 0 = true ∧ (allWords s.dev 0)[0]? = some (sw 9 0 0 0 0) ∧ (swOf (sw 9 0 0 0 0)).op = 9) ∧
    (∃ s : State, stallActive s.dev 0 = true ∧ (allWords s.dev 0)[0]? = some (sw 3 7 0 0 0) ∧ (swOf (sw 3 7 0 0 0)).op = 3 ∧ (getStall s.dev 0).masked.contains (getStall s.dev 0).curSlot = true) ∧
    (∃ s : State, stallActive s.dev 0 = true ∧ (allWords s.dev 0)[0]? = some (sw 3 7 0 0 0) ∧ (swOf (sw 3 7 0 0 0)).op ≠ 8 ∧ (swOf (sw 3 7 0 0 0)).op ≠ 9 ∧ (getStall s.dev 0).masked.contains (getStall s.dev 0).curSlot = false ∧ unitRoom (getStall s.dev 0) (swOf (sw 3 7 0 0 0)) = true) ∧
    (∃ s : State, stallActive s.dev 0 = true ∧ (allWords s.dev 0)[0]? = some (sw 3 7 0 0 0)) ∧
    (∃ s : State, stallActive s.dev 0 = true ∧ (allWords s.dev 0)[0]? = some (sw 5 4 10 1 0) ∧ (swOf (sw 5 4 10 1 0)).op = 5 ∧ (getStall s.dev 0).masked.contains (getStall s.dev 0).curSlot = true ∧ unitRoom (getStall s.dev 0) (swOf (sw 5 4 10 1 0)) = true) ∧
    (∃ s : State, unitWord s.dev 0 (fun y => decide (y.op = 8)) = some (word (sw 8 2 5 0 0) 2) ∧ isMasked s.dev 0 2 = false) ∧
    (∃ s : State, unitWord s.dev 0 (fun y => decide (y.op = 9)) = some (word (sw 9 0 0 0 0) 0xFFFF)) ∧
    (∃ s : State, stallActive s.dev 0 = true ∧ (getStall s.dev 0).doneIssued = true ∧ (getStall s.dev 0).done = false ∧ (getStall s.dev 0).issued = []) := by
  refine ⟨?_, ?_, ?_, ?_, ?_, ?_, ?_, ?_, ?_, ?_⟩
  · exact ⟨mk (scriptDev [(sw 3 7 0 0 0)] {}), by decide +kernel⟩
  · exact ⟨mk (scriptDev [(sw 8 2 5 0 0)] {}), by decide +kernel⟩
  · exact ⟨mk (scriptDev [(sw 9 0 0 0 0)] {}), by decide +kernel⟩
  · exact ⟨mk (scriptDev [(sw 3 7 0 0 0)] { curSlot := 2, masked := [2] }), by decide +kernel⟩
  · exact ⟨mk (scriptDev [(sw 3 7 0 0 0)] {}), by decide +kernel⟩
  · exact ⟨mk (scriptDev [(sw 3 7 0 0 0)] {}), by decide +kernel⟩
  · exact ⟨mk (scriptDev [(sw 5 4 10 1 0)] { curSlot := 2, masked := [2] }), by decide +kernel⟩
  · exact ⟨mk (scriptDev [(sw 8 2 5 0 0)] (issued (sw 8 2 5 0 0) 2)), by decide +kernel⟩
  · exact ⟨mk (wordDev (sw 9 0 0 0 0)), by decide +kernel⟩
  · exact ⟨mk (scriptDev [(sw 9 0 0 0 0)] { pc := 1, doneIssued := true }), by decide +kernel⟩

theorem witness_UnitWordsComplete :
    (∃ s : State, isMasked s.dev 0 0xFFFF = false ∧ unitWord s.dev 0 (fun y => decide (y.op = 2)) = some (word (sw 2 2 40 80 0) 0xFFFF) ∧ combineOf s.dev 0 40 = some (CombineList.mk 0 40 3 [20, 20])) ∧
    (∃ s : State, isMasked s.dev 0 0xFFFF = false ∧ unitWord s.dev 0 (fun y => decide (y.op = 2)) = some (word (sw 2 2 40 80 0) 0xFFFF) ∧ combineOf s.dev 0 40 = some (CombineList.mk 0 40 3 [20, 20])) ∧
    (∃ s : State, isMasked s.dev 0 0xFFFF = false ∧ unitWord s.dev 0 (fun y => decide (y.op = 3)) = some (word (sw 3 7 20 30 40) 0xFFFF) ∧ kernelOf s.dev 0 7 = [.add 0 0 3 0]) ∧
    (∃ s : State, isMasked s.dev 0 0xFFFF = false ∧ unitWord s.dev 0 (fun y => decide (y.op = 4)) = some (word (sw 4 0 20 100 0) 0xFFFF)) := by
  refine ⟨?_, ?_, ?_, ?_⟩
  · exact ⟨mk { setLines (wordDev (sw 2 2 40 80 0)) 0 20 [BitVec.ofNat 512 0x3F800000] with plan := planOf { doc with scripts := [{ stall := 0, words := [(sw 2 2 40 80 0)], cover := none }], combines := [{ stall := 0, line := 40, n := 3, terms := [20, 20] }] } }, by decide +kernel⟩
  · exact ⟨mk { setLines (wordDev (sw 2 2 40 80 0)) 0 20 [BitVec.ofNat 512 0x3F800000] with plan := planOf { doc with scripts := [{ stall := 0, words := [(sw 2 2 40 80 0)], cover := none }], combines := [{ stall := 0, line := 40, n := 3, terms := [20, 20] }] } }, by decide +kernel⟩
  · exact ⟨mk { setLines (wordDev (sw 3 7 20 30 40)) 0 20 [BitVec.ofNat 512 0x3F800000] with plan := planOf { doc with scripts := [{ stall := 0, words := [(sw 3 7 20 30 40)], cover := none }], kernels := [{ stall := 0, idx := 7, ops := [.add 0 0 3 0] }] } }, by decide +kernel⟩
  · exact ⟨mk (wordDev (sw 4 0 20 100 0)), by decide +kernel⟩

theorem witness_SendRecvAndPortComplete :
    (∃ s : State, unitWord s.dev 0 (fun y => decide (y.op = 5)) = some (word sendWord 0xFFFF) ∧ routeAt s.dev 0 4 = some route0 ∧ (sendDests s.dev (word sendWord 0xFFFF) route0).all (hasCredit s.dev) = true ∧ (outgoing (sendCart s.dev 0 (word sendWord 0xFFFF) route0) (sendDests s.dev (word sendWord 0xFFFF) route0)).length = 1 ∧ sendDests s.dev (word sendWord 0xFFFF) route0 = [(1, 6)]) ∧
    (∃ s : State, unitWord s.dev 0 (fun y => decide (y.op = 5)) = some (word sendWord 0xFFFF) ∧ routeAt s.dev 0 4 = some route0 ∧ (sendDests s.dev (word sendWord 0xFFFF) route0).all (hasCredit s.dev) = false) ∧
    (∃ s : State, unitWord s.dev 0 (fun y => decide (y.op = 6)) = some (word (sw 6 6 50 2 0) 0xFFFF) ∧ isMasked s.dev 0 0xFFFF = false ∧ (getStall s.dev 0).inq.find? (fun e => decide (e.1 = recvQueue (word (sw 6 6 50 2 0) 0xFFFF)) && decide (e.2.slot = 0xFFFF)) = some (6, cart0) ∧ cart0.typ ≠ 5 ∧ cart0.typ ≠ 7) ∧
    (∃ s : State, unitWord s.dev 0 (fun y => decide (y.op = 6)) = some (word (sw 6 6 50 2 0) 0xFFFF) ∧ isMasked s.dev 0 0xFFFF = false ∧ (getStall s.dev 0).inq.find? (fun e => decide (e.1 = recvQueue (word (sw 6 6 50 2 0) 0xFFFF)) && decide (e.2.slot = 0xFFFF)) = some (6, { cart0 with typ := 5 }) ∧ expertQueue s.dev 0 (recvQueue (word (sw 6 6 50 2 0) 0xFFFF)) = none) ∧
    (∃ s : State, unitWord s.dev 0 (fun y => decide (y.op = 6)) = some (word (sw 6 6 50 2 0) 0xFFFF) ∧ isMasked s.dev 0 0xFFFF = false ∧ (getStall s.dev 0).inq.find? (fun e => decide (e.1 = recvQueue (word (sw 6 6 50 2 0) 0xFFFF)) && decide (e.2.slot = 0xFFFF)) = none) ∧
    (∃ s : State, unitWord s.dev 0 (fun y => decide (y.op = 7)) = some (word (sw 7 3 0 1 0) 0xFFFF) ∧ isMasked s.dev 0 0xFFFF = false ∧ descOf s.dev (0 / 8) 3 = some desc0 ∧ freeChan s.dev (0 / 8) = some 0 ∧ replyFree s.dev (0 / 8) = true) := by
  refine ⟨?_, ?_, ?_, ?_, ?_, ?_⟩
  · exact ⟨mk sendDev, by decide +kernel⟩
  · exact ⟨mk { sendDev with net := { credits := [((0, 1, 6), 1)] } }, by decide +kernel⟩
  · exact ⟨mk (scriptDev [(sw 6 6 50 2 0)] { issued (sw 6 6 50 2 0) 0xFFFF with inq := [(6, cart0)] }), by decide +kernel⟩
  · exact ⟨mk (scriptDev [(sw 6 6 50 2 0)] { issued (sw 6 6 50 2 0) 0xFFFF with inq := [(6, { cart0 with typ := 5 })] }), by decide +kernel⟩
  · exact ⟨mk (wordDev (sw 6 6 50 2 0)), by decide +kernel⟩
  · exact ⟨mk { wordDev (sw 7 3 0 1 0) with plan := planOf { doc with scripts := [{ stall := 0, words := [(sw 7 3 0 1 0)], cover := none }], descs := [desc0], queues := [{ stall := porterEndpoint 0, regions := [], queues := [], carried := [], reply := 1 }] } }, by decide +kernel⟩

theorem witness_MvmsComplete :
    (∃ s : State, (stallOf 2 = 0 ∧ convOn s.dev 0 = true ∧ (getArr s.dev 2).esc = none ∧ (getArr s.dev 2).suspect = false ∧ (getArr s.dev 2).stopped = false ∧ unitWord s.dev 0 (fun y => decide (y.op = 1) && decide (bits y.sel 10 7 = 2)) = some (word mvmWord 0xFFFF) ∧ wordPlane s.dev 0 (word mvmWord 0xFFFF) = some (2, 3) ∧ skipsPlane s.mem s.dev 0 (word mvmWord 0xFFFF) = false ∧ (getArr s.dev 2).grant = some .mvm ∧ slotQuery s.dev 0 0xFFFF = none) ∧ wordBlock s.dev 0 (word mvmWord 0xFFFF) = some (blkOf 1) ∧ SealGood (jobOf s.dev s.nv 0 (word mvmWord 0xFFFF) 2 3 (blkOf 1)) (jobRows s.dev s.nv (jobOf s.dev s.nv 0 (word mvmWord 0xFFFF) 2 3 (blkOf 1))) ∧ (isMasked s.dev 0 0xFFFF = false ∧ (blkOf 1).mark = false)) ∧
    (∃ s : State, (stallOf 2 = 0 ∧ convOn s.dev 0 = true ∧ (getArr s.dev 2).esc = none ∧ (getArr s.dev 2).suspect = false ∧ (getArr s.dev 2).stopped = false ∧ unitWord s.dev 0 (fun y => decide (y.op = 1) && decide (bits y.sel 10 7 = 2)) = some (word mvmWord 0xFFFF) ∧ wordPlane s.dev 0 (word mvmWord 0xFFFF) = some (2, 3) ∧ skipsPlane s.mem s.dev 0 (word mvmWord 0xFFFF) = false ∧ (getArr s.dev 2).grant = some .mvm ∧ slotQuery s.dev 0 0xFFFF = none) ∧ wordBlock s.dev 0 (word mvmWord 0xFFFF) = some (blkOf 1) ∧ ¬ SealGood (jobOf s.dev s.nv 0 (word mvmWord 0xFFFF) 2 3 (blkOf 1)) (jobRows s.dev s.nv (jobOf s.dev s.nv 0 (word mvmWord 0xFFFF) 2 3 (blkOf 1)))) ∧
    (∃ s : State, (stallOf 33 = 2 ∧ convOn s.dev 2 = true ∧ (getArr s.dev 33).esc = none ∧ (getArr s.dev 33).suspect = false ∧ (getArr s.dev 33).stopped = false ∧ s.dev.net.fenced.contains 2 = false ∧ islandStopped s.dev 2 = false ∧ (getStall s.dev 2).guests = [(0, 0, guestCart)] ∧ (getStall s.dev 0).issued.find? (fun e => decide (e.pos = 0)) = some (word mvmWord 0xFFFF) ∧ wordPlane s.dev 0 (word mvmWord 0xFFFF) = some (33, 3) ∧ (getArr s.dev 33).grant = some .guest) ∧ readBlock (setLines s.dev 1920 0 guestCart.flits) 1920 0 = some (blkOf 1) ∧ SealGood (jobOf s.dev s.nv 0 (word mvmWord 0xFFFF) 33 3 (blkOf 1)) (jobRows s.dev s.nv (jobOf s.dev s.nv 0 (word mvmWord 0xFFFF) 33 3 (blkOf 1)))) := by
  refine ⟨?_, ?_, ?_⟩
  · exact ⟨mk (mvmDev 1), by exact ⟨by decide +kernel, word_block (by decide +kernel) (by decide +kernel), seal_good (by decide +kernel) rfl (rows_at rfl rfl (by decide +kernel)).1, by decide +kernel⟩⟩
  · exact ⟨{ pending := [], nv := plane1, mem := [], dev := mvmDev 1 }, by exact ⟨by decide +kernel, word_block (by decide +kernel) (by decide +kernel), seal_bad (by decide +kernel) rfl (rows_at rfl rfl (by decide +kernel)).1 (by decide +kernel)⟩⟩
  · exact ⟨mk guestDev, by exact ⟨by decide +kernel, (readBlock_lines (e := withBlock 1 {}) (i' := 0) (l' := 10) (by decide +kernel)).trans block1, seal_good (by decide +kernel) rfl ((rows_at rfl rfl (by decide +kernel)).1.trans (readPlane_empty _ _ 33 3))⟩⟩

theorem witness_EscalationCompletes :
    (∃ s : State, (arithOn s.dev (stallOf 2) = true ∧ convOn s.dev (stallOf 2) = true ∧ (getArr s.dev 2).esc = some (esc0 1 1) ∧ (esc0 1 1).pat = none ∧ (esc0 1 1).guest = false ∧ (getArr s.dev 2).retries + 1 ≠ 8) ∧ escJob s.dev s.nv 2 (esc0 1 1) = some (jobOf s.dev s.nv 0 (word mvmWord 0xFFFF) 2 3 (blkOf 1), slotHandle s.dev 0 0xFFFF) ∧ SealGood (jobOf s.dev s.nv 0 (word mvmWord 0xFFFF) 2 3 (blkOf 1)) (jobRead s.dev s.nv (jobOf s.dev s.nv 0 (word mvmWord 0xFFFF) 2 3 (blkOf 1)) [])) ∧
    (∃ s : State, (arithOn s.dev (stallOf 2) = true ∧ convOn s.dev (stallOf 2) = true ∧ (getArr s.dev 2).esc = some (esc0 1 1) ∧ (esc0 1 1).pat = none ∧ (esc0 1 1).guest = false) ∧ escJob s.dev s.nv 2 (esc0 1 1) = some (jobOf s.dev s.nv 0 (word mvmWord 0xFFFF) 2 3 (blkOf 1), slotHandle s.dev 0 0xFFFF) ∧ ¬ SealGood (jobOf s.dev s.nv 0 (word mvmWord 0xFFFF) 2 3 (blkOf 1)) (jobRead s.dev s.nv (jobOf s.dev s.nv 0 (word mvmWord 0xFFFF) 2 3 (blkOf 1)) [])) ∧
    (∃ s : State, (arithOn s.dev (stallOf 2) = true ∧ convOn s.dev (stallOf 2) = true ∧ (getArr s.dev 2).esc = some (esc0 2 1) ∧ (esc0 2 1).pat = none ∧ (esc0 2 1).guest = false ∧ (getArr s.dev 2).grant = some .verifyRead ∧ (esc0 2 1).kind ≠ 0) ∧ escJob s.dev s.nv 2 (esc0 2 1) = some (jobOf s.dev s.nv 0 (word mvmWord 0xFFFF) 2 3 (blkOf 1), slotHandle s.dev 0 0xFFFF) ∧ SealGood (jobOf s.dev s.nv 0 (word mvmWord 0xFFFF) 2 3 (blkOf 1)) (jobRead s.dev s.nv (jobOf s.dev s.nv 0 (word mvmWord 0xFFFF) 2 3 (blkOf 1)) [])) ∧
    (∃ s : State, (arithOn s.dev (stallOf 2) = true ∧ convOn s.dev (stallOf 2) = true ∧ (getArr s.dev 2).esc = some (esc0 2 1) ∧ (esc0 2 1).pat = none ∧ (esc0 2 1).guest = false ∧ (getArr s.dev 2).grant = some .verifyRead) ∧ escJob s.dev s.nv 2 (esc0 2 1) = some (jobOf s.dev s.nv 0 (word mvmWord 0xFFFF) 2 3 (blkOf 1), slotHandle s.dev 0 0xFFFF) ∧ ¬ SealGood (jobOf s.dev s.nv 0 (word mvmWord 0xFFFF) 2 3 (blkOf 1)) (jobRead s.dev s.nv (jobOf s.dev s.nv 0 (word mvmWord 0xFFFF) 2 3 (blkOf 1)) [])) := by
  refine ⟨?_, ?_, ?_, ?_⟩
  · exact ⟨mk (escDev 1 (some .mvm) 1), by exact ⟨by decide +kernel, esc_job (by decide +kernel) (word_block (by decide +kernel) (by decide +kernel)), seal_good (by decide +kernel) rfl (rows_at rfl rfl (by decide +kernel)).2⟩⟩
  · exact ⟨{ pending := [], nv := plane1, mem := [], dev := escDev 1 (some .mvm) 1 }, by exact ⟨by decide +kernel, esc_job (by decide +kernel) (word_block (by decide +kernel) (by decide +kernel)), seal_bad (by decide +kernel) rfl (rows_at rfl rfl (by decide +kernel)).2 (by decide +kernel)⟩⟩
  · exact ⟨mk (escDev 2 (some .verifyRead) 1), by exact ⟨by decide +kernel, esc_job (by decide +kernel) (word_block (by decide +kernel) (by decide +kernel)), seal_good (by decide +kernel) rfl (rows_at rfl rfl (by decide +kernel)).2⟩⟩
  · exact ⟨{ pending := [], nv := plane1, mem := [], dev := escDev 2 (some .verifyRead) 1 }, by exact ⟨by decide +kernel, esc_job (by decide +kernel) (word_block (by decide +kernel) (by decide +kernel)), seal_bad (by decide +kernel) rfl (rows_at rfl rfl (by decide +kernel)).2 (by decide +kernel)⟩⟩

theorem witness_AuditsAndPatternTestsComplete :
    (∃ s : State, ((getStall s.dev 0).audits = [{ slot := 0x10000, array := 2, plane := 3, lines := blockOut (blkOf 1), sums := [], lStep := 0, ticket := 0 }] ∧ (getArr s.dev 2).grant = some .verifyRead ∧ unitWord s.dev 0 (fun y => decide (y.op = 3)) = none ∧ s.dev.net.fenced.contains 0 = false ∧ arithOn s.dev 0 = true ∧ convOn s.dev 0 = true) ∧ blockOf s.dev (blockOut (blkOf 1)) = some (blkOf 1)) ∧
    (∃ s : State, ((getArr s.dev 2).grant = some .pattern ∧ arithOn s.dev (stallOf 2) = true ∧ convOn s.dev (stallOf 2) = true ∧ s.dev.mkt.pats = some patSet ∧ patKind patSet 0 = [patEntry] ∧ stockedPlanes s.dev 2 = [3] ∧ isShelf 2 = false ∧ (getArr s.dev 2).esc = none ∧ (getArr s.dev 2).patTests = 0) ∧ ∀ j l, patJob s.dev s.nv 2 3 0 = some (j, l) → SealGood j (jobRows s.dev s.nv j)) ∧
    (∃ s : State, s.dev.mkt.pats = some (PatSet.mk 8 [1 :: List.replicate 63 (0 : Byte)]) ∧ (patKind (PatSet.mk 8 [1 :: List.replicate 63 (0 : Byte)]) 1)[0]? ≠ none ∧ s.dev.mkt.patData = true ∧ arithOn s.dev 1919 = true ∧ s.dev.net.fenced.contains 1919 = false ∧ unitWord s.dev 1919 (fun z => decide (z.op = 3) || decide (z.op = 4)) = none) := by
  refine ⟨?_, ?_, ?_⟩
  · exact ⟨mk (withArr 2 { grant := some .verifyRead } (scriptDev [] { audits := [{ slot := 0x10000, array := 2, plane := 3, lines := blockOut (blkOf 1), sums := [], lStep := 0, ticket := 0 }] })), by exact ⟨by decide +kernel, guest_block (by decide +kernel)⟩⟩
  · exact ⟨mk patDev, by exact ⟨by decide +kernel, pat_job⟩⟩
  · exact ⟨mk { base .ready with plan := planOf doc, mkt := { pats := some (PatSet.mk 8 [1 :: List.replicate 63 (0 : Byte)]) } }, by decide +kernel⟩

theorem witness_RecoveryEventsComplete :
    (∃ s : State, (getDom s.dev 0).faultRaised = false ∧ (getDom s.dev 0).replaying = true ∧ (∀ r ∈ s.dev.net.recoveries, r.domain ≠ 0) ∧ mwf ({} : Stall) none s.dev.mkt.stalls = true ∧ membersOf s.dev 0 = [0, 1]) ∧
    (∃ s : State, (∃ r ∈ s.dev.net.recoveries, r.domain = 0) ∧ (getDom s.dev 0).running = true) ∧
    (∃ s : State, islandStopped s.dev 1 = true ∧ s.dev.wb.supplyOk = true ∧ s.dev.net.fenced.contains 1 = false) ∧
    (∃ s : State, s.dev.net.routerFail.contains 1919 = false ∧ s.dev.plan.plan ≠ none) := by
  refine ⟨?_, ?_, ?_, ?_⟩
  · exact ⟨mk (withStall { pc := 7 } (run doc { going with replaying := true, halted := true })), by decide +kernel⟩
  · exact ⟨mk { run doc going with net := { fenced := [1], recoveries := [{ stall := 1, domain := 0, array := none, plane := 0, kind := 20, startTick := 0, phase := 2, moves := [] }] } }, by decide +kernel⟩
  · exact ⟨mk { run doc going with pwr := { (base .ready).pwr with stopped := [1] }, wb := { supplyOk := true } }, by decide +kernel⟩
  · exact ⟨mk (run doc going), by decide +kernel⟩

theorem witness_CartsAndNotesComplete :
    (∃ s : State, s.dev.plan.plan ≠ none ∧ cartHeadOk cart0 = true ∧ endpointOn s.dev cart0.dest = true ∧ cart0.dest < 1920 ∧ cartHere (settleNets s.dev) cart0 = true ∧ s.dev.net.fenced.contains cart0.dest = false ∧ staleCart s.dev cart0 = false ∧ stepCart cart0.typ = true ∧ cart0.queue ≠ 4095) ∧
    (∃ s : State, s.dev.plan.plan ≠ none ∧ cartHeadOk cart0 = true ∧ endpointOn s.dev cart0.dest = true ∧ cart0.dest < 1920 ∧ cartHere (settleNets s.dev) cart0 = true ∧ s.dev.net.fenced.contains cart0.dest = false ∧ staleCart s.dev cart0 = false ∧ stepCart cart0.typ = true ∧ cart0.queue ≠ 4095) ∧
    (∃ s : State, s.dev.plan.plan ≠ none ∧ cartHeadOk cart0 = true ∧ endpointOn s.dev cart0.dest = true ∧ cart0.dest < 1920 ∧ cartHere (settleNets s.dev) cart0 = true ∧ s.dev.net.fenced.contains cart0.dest = true) ∧
    (∃ s : State, s.dev.plan.plan ≠ none ∧ cartHeadOk cart0 = true ∧ endpointOn s.dev cart0.dest = true ∧ cart0.dest < 1920 ∧ cartHere (settleNets s.dev) cart0 = true) ∧
    (∃ s : State, s.dev.plan.plan ≠ none ∧ cartHeadOk cart0 = true ∧ endpointOn s.dev cart0.dest = true ∧ cart0.dest < 1920 ∧ cartHere (settleNets s.dev) cart0 = false) ∧
    (∃ s : State, s.dev.plan.plan ≠ none ∧ endpointOn s.dev (({ note0 2 with body := BitVec.ofNat 34 (1 * 4096 + 6) } : Note)).dest = true ∧ noteHeadOk (({ note0 2 with body := BitVec.ofNat 34 (1 * 4096 + 6) } : Note)) = true ∧ bits ({ note0 2 with body := BitVec.ofNat 34 (1 * 4096 + 6) } : Note).body.toNat 16 12 = 1 ∧ 1 ≤ notesHere (settleNets s.dev) (creditUnit ({ note0 2 with body := BitVec.ofNat 34 (1 * 4096 + 6) } : Note)) ∧ s.dev.net.waiting = [] ∧ sendWaiting s.dev 0 (1, 6) = some ({ word sendWord 0xFFFF with owed := [owedKey (1, 6)], sent := [(owedKey (1, 6), 0)] })) ∧
    (∃ s : State, s.dev.plan.plan ≠ none ∧ endpointOn s.dev (({ note0 2 with body := BitVec.ofNat 34 (1 * 4096 + 6) } : Note)).dest = true ∧ noteHeadOk (({ note0 2 with body := BitVec.ofNat 34 (1 * 4096 + 6) } : Note)) = true ∧ bits ({ note0 2 with body := BitVec.ofNat 34 (1 * 4096 + 6) } : Note).body.toNat 16 12 = 1 ∧ 1 ≤ notesHere (settleNets s.dev) (creditUnit ({ note0 2 with body := BitVec.ofNat 34 (1 * 4096 + 6) } : Note)) ∧ s.dev.net.waiting = [] ∧ sendWaiting s.dev 0 (1, 6) = some ({ word sendWord 0xFFFF with owed := [owedKey (1, 6), owedKey (2, 6)], sent := [(owedKey (1, 6), 0), (owedKey (2, 6), 0)] }) ∧ removeFirst (owedKey (1, 6)) [owedKey (1, 6), owedKey (2, 6)] ≠ []) ∧
    (∃ s : State, s.dev.plan.plan ≠ none ∧ endpointOn s.dev (fencedOf { cart0 with src := 0, dest := 1 }).dest = true ∧ noteHeadOk (fencedOf { cart0 with src := 0, dest := 1 }) = true ∧ 1 ≤ notesHere (settleNets s.dev) (fencedOf { cart0 with src := 0, dest := 1 }) ∧ (fencedOf { cart0 with src := 0, dest := 1 }).typ = 3 ∧ fencedWord s.dev (fencedOf { cart0 with src := 0, dest := 1 }) = some ({ word sendWord 0xFFFF with owed := [owedKey (1, 6)], sent := [(owedKey (1, 6), 0)] })) ∧
    (∃ s : State, s.dev.plan.plan ≠ none ∧ endpointOn s.dev (note0 1).dest = true ∧ noteHeadOk (note0 1) = true ∧ 1 ≤ notesHere (settleNets s.dev) (note0 1) ∧ (note0 1).typ = 1) ∧
    (∃ s : State, s.dev.plan.plan ≠ none ∧ endpointOn s.dev (note0 4).dest = true ∧ noteHeadOk (note0 4) = true ∧ 1 ≤ notesHere (settleNets s.dev) (note0 4) ∧ (getChan s.dev 0 0).state = .running ∧ (getChan s.dev 0 0).d.map (·.inSlot) = some false) ∧
    (∃ s : State, s.dev.plan.plan ≠ none ∧ endpointOn s.dev (({ note0 5 with dest := 2304, body := 3 } : Note)).dest = true ∧ noteHeadOk (({ note0 5 with dest := 2304, body := 3 } : Note)) = true ∧ porterAt ({ note0 5 with dest := 2304, body := 3 } : Note).dest = some 0 ∧ s.dev.dram.fwQueue = [] ∧ descOf s.dev 0 (bits ({ note0 5 with dest := 2304, body := 3 } : Note).body.toNat 10 0) = some desc0 ∧ freeChan s.dev 0 = some 0) ∧
    (∃ s : State, s.dev.plan.plan ≠ none ∧ endpointOn s.dev (({ note0 5 with dest := 2304, body := 3 } : Note)).dest = true ∧ noteHeadOk (({ note0 5 with dest := 2304, body := 3 } : Note)) = true ∧ porterAt ({ note0 5 with dest := 2304, body := 3 } : Note).dest = some 0 ∧ s.dev.dram.fwQueue = [] ∧ descOf s.dev 0 (bits ({ note0 5 with dest := 2304, body := 3 } : Note).body.toNat 10 0) = some desc0 ∧ freeChan s.dev 0 = none) ∧
    (∃ s : State, s.dev.plan.plan ≠ none ∧ endpointOn s.dev (note0 1).dest = true ∧ noteHeadOk (note0 1) = true ∧ 1 ≤ notesHere (settleNets s.dev) (note0 1) ∧ (note0 1).typ = 1) ∧
    (∃ s : State, s.dev.plan.plan ≠ none ∧ endpointOn s.dev ({ note0 2 with dest := 2047 } : Note).dest = true ∧ noteHeadOk ({ note0 2 with dest := 2047 } : Note) = false) := by
  refine ⟨?_, ?_, ?_, ?_, ?_, ?_, ?_, ?_, ?_, ?_, ?_, ?_, ?_, ?_⟩
  · exact ⟨mk (landed (.cart cart0 [cart0]) (run doc going)), by decide +kernel⟩
  · exact ⟨mk (landed (.cart cart0 [cart0]) (run doc going)), by decide +kernel⟩
  · exact ⟨mk (let d := landed (.cart cart0 [cart0]) (run doc going); { d with net := { d.net with fenced := [0] } }), by decide +kernel⟩
  · exact ⟨mk (landed (.cart cart0 [cart0]) (run doc going)), by decide +kernel⟩
  · exact ⟨mk (run doc going), by decide +kernel⟩
  · exact ⟨mk (landed (.note ({ note0 2 with body := BitVec.ofNat 34 (1 * 4096 + 6) } : Note)) (withStall { issued sendWord 0xFFFF with issued := [{ word sendWord 0xFFFF with owed := [owedKey (1, 6)], sent := [(owedKey (1, 6), 0)] }] } { sendDev with net := { credits := [((0, 1, 6), 1)] } })), by decide +kernel⟩
  · exact ⟨mk (landed (.note ({ note0 2 with body := BitVec.ofNat 34 (1 * 4096 + 6) } : Note)) (withStall { issued sendWord 0xFFFF with issued := [{ word sendWord 0xFFFF with owed := [owedKey (1, 6), owedKey (2, 6)], sent := [(owedKey (1, 6), 0), (owedKey (2, 6), 0)] }] } sendDev)), by decide +kernel⟩
  · exact ⟨mk (landed (.note (fencedOf { cart0 with src := 0, dest := 1 })) (withStall { issued sendWord 0xFFFF with issued := [{ word sendWord 0xFFFF with owed := [owedKey (1, 6)], sent := [(owedKey (1, 6), 0)] }] } { sendDev with net := { credits := [((0, 1, 6), 1)] } })), by decide +kernel⟩
  · exact ⟨mk (landed (.note (note0 1)) (run doc going)), by decide +kernel⟩
  · exact ⟨mk (landed (.note (note0 4)) (chanDev .serving (chan0 .running desc0))), by decide +kernel⟩
  · exact ⟨mk { base .serving with plan := planOf { doc with descs := [desc0] } }, by decide +kernel⟩
  · exact ⟨mk { base .serving with plan := planOf { doc with descs := [desc0] }, dram := { chans := (List.range 16).map fun c => (c, chan0 .running desc0) } }, by decide +kernel⟩
  · exact ⟨mk (landed (.note (note0 1)) (run doc going)), by decide +kernel⟩
  · exact ⟨mk (run doc going), by decide +kernel⟩

theorem witness_ProgrammingStepsComplete :
    (∃ s : State, (prog0 (.erase 31)).plane < 64 ∧ activeProg s.dev 2 isErase = some (prog0 (.erase 31)) ∧ erasePinned s.dev (prog0 (.erase 31)) = false) ∧
    (∃ s : State, activeProg s.dev 2 isErase = some (prog0 (.erase 0)) ∧ planeCount s.dev s.nv 2 3 < 30000 ∧ erasePinned s.dev (prog0 (.erase 0)) = false) ∧
    (∃ s : State, activeProg s.dev 2 isErase = some (prog0 (.erase 0)) ∧ planeCount s.dev s.nv 2 3 < 30000 ∧ erasePinned s.dev (prog0 (.erase 0)) = true) ∧
    (∃ s : State, activeProg s.dev 2 isRow = some (prog0 (.tag))) ∧
    (∃ s : State, activeProg s.dev 2 isRow = some { prog0 (.row 511) with again := true, todo := [511] } ∧ 511 < 512) ∧
    (∃ s : State, activeProg s.dev 2 isRow = some (prog0 (.row 0)) ∧ (prog0 (.row 0)).again = false) ∧
    (∃ s : State, ((getArr s.dev 2).grant = some .verifyRead ∧ convOn s.dev (stallOf 2) = true ∧ compares s.dev 2 3 = some ({ prog0 .compare with rows := [] }) ∧ s.dev.net.recoveries = [] ∧ (getArr s.dev 2).remaps = []) ∧ failRows ({ prog0 .compare with rows := [] }) [] (readPlane s.nv.cells [] [] 2 3) = []) ∧
    (∃ s : State, (getArr s.dev 2).grant = some .verifyRead ∧ convOn s.dev (stallOf 2) = true ∧ compares s.dev 2 3 = some (prog0 (.compare)) ∧ s.dev.net.recoveries = [] ∧ (failRows (prog0 (.compare)) (getArr s.dev 2).remaps (readPlane s.nv.cells (getArr s.dev 2).remaps [] 2 3)).head? = some 0 ∧ (prog0 (.compare)).again = false) ∧
    (∃ s : State, activeProg s.dev 2 isHash = some (prog0 (.hash)) ∧ s.dev.net.recoveries = [] ∧ mwf ({} : Arr) none s.dev.mkt.arrays = true ∧ isStock s.dev 2 = true ∧ (prog0 (.hash)).why = .restock 0 0 0 ∧ (∃ y ∈ s.dev.stock.progs, isRestockProg 0 y = true ∧ y.chunk = 0 ∧ (y.array, y.plane) ≠ (2, 3))) := by
  refine ⟨?_, ?_, ?_, ?_, ?_, ?_, ?_, ?_, ?_⟩
  · exact ⟨mk (progDev .program [prog0 (.erase 31)]), by decide +kernel⟩
  · exact ⟨mk (progDev .program [prog0 (.erase 0)]), by decide +kernel⟩
  · exact ⟨mk { progDev .program [prog0 (.erase 0)] with stock := { parts := [(0, { live4 with restock := some { rst with inPlace := true } })], progs := [prog0 (.erase 0)] }, srv := { tickets := [(1, { tick .decode with genModel := 4 })] } }, by decide +kernel⟩
  · exact ⟨mk (progDev .program [prog0 (.tag)]), by decide +kernel⟩
  · exact ⟨mk (progDev .program [{ prog0 (.row 511) with again := true, todo := [511] }]), by decide +kernel⟩
  · exact ⟨mk (progDev .program [prog0 (.row 0)]), by decide +kernel⟩
  · exact ⟨{ pending := [], nv := { cells := tagOnly }, mem := [], dev := progDev .verifyRead [{ prog0 .compare with rows := [] }] }, by refine ⟨by decide +kernel, ?_⟩; dsimp only; exact failRows_none⟩
  · exact ⟨mk (progDev .verifyRead [prog0 (.compare)]), by decide +kernel⟩
  · exact ⟨mk (progDev .program [prog0 (.hash), { prog0 (.erase 0) with plane := 4, why := .restock 0 0 1 }]), by decide +kernel⟩

theorem witness_SubPortCommandsComplete :
    (∃ s : State, ringOn s.dev 1 = true ∧ (getSub s.dev 1 0).state = .training ∧ subRole s.dev 1 0 = 1) ∧
    (∃ s : State, ringOn s.dev 1 = true ∧ (getSub s.dev 1 0).state = .training ∧ subRole s.dev 1 0 = 2) ∧
    (∃ s : State, (bellRx 8 1 3 [1, 2]).port = 1 ∧ (bellRx 8 1 3 [1, 2]).sub = 0 ∧ ringOn s.dev 1 = true ∧ (getSub s.dev 1 0).state = .probing ∧ (bellRx 8 1 3 [1, 2]).crc = rxCrc (bellRx 8 1 3 [1, 2]) ∧ (bellRx 8 1 3 [1, 2]).typ = 8 ∧ (bellRx 8 1 3 [1, 2]).cls = 0 ∧ subRole s.dev 1 0 ≠ 2 ∧ (bellRx 8 1 3 [1, 2]).aux.toNat % 256 ≠ 0) ∧
    (∃ s : State, (bellRx 8 1 0 [1, 2]).port = 1 ∧ (bellRx 8 1 0 [1, 2]).sub = 0 ∧ ringOn s.dev 1 = true ∧ (getSub s.dev 1 0).state = .probing ∧ (bellRx 8 1 0 [1, 2]).crc = rxCrc (bellRx 8 1 0 [1, 2]) ∧ (bellRx 8 1 0 [1, 2]).typ = 8 ∧ (bellRx 8 1 0 [1, 2]).cls = 0 ∧ subRole s.dev 1 0 ≠ 2 ∧ (bellRx 8 1 0 [1, 2]).aux.toNat % 256 = 0) ∧
    (∃ s : State, ringOn s.dev 1 = true ∧ (getSub s.dev 1 0).state = .probing ∧ subRole s.dev 1 0 = 1 ∧ (∀ k ∈ List.range 4, ∃ q ∈ (getSub s.dev 1 0).parts, q.1 = k) ∧ portEntry s.dev 1 0 = some { port0 with flags := 0x0E } ∧ probeFault s.dev { port0 with flags := 0x0E } (aget (getSub s.dev 1 0).parts 0 []) true = none) ∧
    (∃ s : State, ringOn s.dev 1 = true ∧ (getSub s.dev 1 0).state = .probing ∧ subRole s.dev 1 0 = 1 ∧ (∀ k ∈ List.range 4, ∃ q ∈ (getSub s.dev 1 0).parts, q.1 = k) ∧ portEntry s.dev 1 0 = some { port0 with flags := 0x0E } ∧ probeFault s.dev { port0 with flags := 0x0E } (aget (getSub s.dev 1 0).parts 0 []) true = some 1) ∧
    (∃ s : State, ringOn s.dev 1 = true ∧ (getSub s.dev 1 0).state = .probing) ∧
    (∃ s : State, ringOn s.dev 1 = true ∧ (getSub s.dev 1 0).state = .heldDown ∧ subRole s.dev 1 0 = 1 ∧ (∀ k ∈ List.range 4, ∃ q ∈ (getSub s.dev 1 0).parts, q.1 = k) ∧ portEntry s.dev 1 0 = some { port0 with flags := 0x0E } ∧ probeFault s.dev { port0 with flags := 0x0E } (aget (getSub s.dev 1 0).parts 0 []) true = some 1) ∧
    (∃ s : State, ringOn s.dev 1 = true ∧ (getSub s.dev 1 0).state = .heldDown) ∧
    (∃ s : State, ringOn s.dev 1 = true ∧ (getSub s.dev 1 0).state = .heldDown ∧ Instr.pfcFrame 1 0 255 ∈ [Instr.frameDrop 1 0 .notUp, .pfcFrame 1 0 255, .lldpFrame 1 0 true]) ∧
    (∃ s : State, ringOn s.dev 1 = true ∧ (getSub s.dev 1 0).state = .up ∧ (getSub s.dev 1 0).txq = []) ∧
    (∃ s : State, ringOn s.dev 1 = true ∧ (getSub s.dev 1 0).state = .up) ∧
    (∃ s : State, ringOn s.dev 1 = true ∧ (getSub s.dev 1 0).state = .probing) ∧
    (∃ s : State, (getSub s.dev 1 0).state ≠ .down) := by
  refine ⟨?_, ?_, ?_, ?_, ?_, ?_, ?_, ?_, ?_, ?_, ?_, ?_, ?_, ?_⟩
  · exact ⟨mk (portDev { state := .training }), by decide +kernel⟩
  · exact ⟨mk { portDev { state := .training } with plan := planOf { doc with ports := [service0] } }, by decide +kernel⟩
  · exact ⟨mk (portDev { state := .probing }), by simp only [bellRx_crc, true_and]; decide +kernel⟩
  · exact ⟨mk (portDev { state := .probing }), by simp only [bellRx_crc, true_and]; decide +kernel⟩
  · exact ⟨mk (portDev { state := .probing, parts := [(0, beBytes 8 2 ++ beBytes 8 1 ++ beBytes 2 1 ++ [1, 0]), (1, []), (2, []), (3, [])] }), by decide +kernel⟩
  · exact ⟨mk (portDev { state := .probing, parts := [(0, [9]), (1, []), (2, []), (3, [])] }), by decide +kernel⟩
  · exact ⟨mk (portDev { state := .probing }), by decide +kernel⟩
  · exact ⟨mk (portDev { state := .heldDown, parts := [(0, [9]), (1, []), (2, []), (3, [])] }), by decide +kernel⟩
  · exact ⟨mk (portDev { state := .heldDown }), by decide +kernel⟩
  · exact ⟨mk (portDev { state := .heldDown }), by decide +kernel⟩
  · exact ⟨mk (portDev { state := .up }), by decide +kernel⟩
  · exact ⟨mk (portDev { state := .up }), by decide +kernel⟩
  · exact ⟨mk (portDev { state := .probing }), by decide +kernel⟩
  · exact ⟨mk (portDev { state := .up }), by decide +kernel⟩

theorem witness_FlowMessagesComplete :
    (∃ s : State, Arrives 1 (stepRx 1 1 0 [7]) s ∧ OnFlow 3 (stepRx 1 1 0 [7]) s ∧ WholeMessage 3 (stepRx 1 1 0 [7]) s ∧ s.dev.state ≠ .faulted ∧ flowEntry s.dev 3 = some flow0 ∧ fullStep s.dev 0 (stepRx 1 1 0 [7]).step = some 5 ∧ (getFlow s.dev 3).accepted = [] ∧ (getDom s.dev 0).running = true ∧ (getDom s.dev 0).belled = true ∧ (getDom s.dev 0).step = 5 ∧ routeAt s.dev (2048 + flow0.port) flow0.route = none ∧ hasCredit s.dev (coverDest s.dev flow0.dest flow0.queue) = true ∧ (∀ y ∈ s.dev.net.waiting, y.src ≠ 2048 + flow0.port)) ∧
    (∃ s : State, Arrives 1 (stepRx 1 1 0 [7]) s ∧ OnFlow 3 (stepRx 1 1 0 [7]) s ∧ WholeMessage 3 (stepRx 1 1 0 [7]) s ∧ s.dev.state ≠ .faulted ∧ flowEntry s.dev 3 = some flow0 ∧ fullStep s.dev 0 (stepRx 1 1 0 [7]).step = some 5 ∧ (getFlow s.dev 3).accepted = [] ∧ (getDom s.dev 0).running = true ∧ (getDom s.dev 0).belled = true ∧ (getDom s.dev 0).step = 5 ∧ routeAt s.dev (2048 + flow0.port) flow0.route = none ∧ hasCredit s.dev (coverDest s.dev flow0.dest flow0.queue) = false) ∧
    (∃ s : State, Arrives 1 (stepRx 1 1 0 [7]) s ∧ OnFlow 3 (stepRx 1 1 0 [7]) s ∧ WholeMessage 3 (stepRx 1 1 0 [7]) s ∧ s.dev.state ≠ .faulted ∧ flowEntry s.dev 3 = some flow0 ∧ fullStep s.dev 0 (stepRx 1 1 0 [7]).step = some 5 ∧ (getFlow s.dev 3).accepted = [] ∧ (getDom s.dev 0).running = false) ∧
    (∃ s : State, Arrives 2 (stepRx 2 1 0 (contribBytes 21)) s ∧ OnFlow 3 (stepRx 2 1 0 (contribBytes 21)) s ∧ WholeMessage 3 (stepRx 2 1 0 (contribBytes 21)) s ∧ s.dev.state ≠ .faulted ∧ flowEntry s.dev 3 = some flow0 ∧ fullStep s.dev 0 (stepRx 2 1 0 (contribBytes 21)).step = some 5 ∧ (getFlow s.dev 3).accepted = [] ∧ contribOk s.dev (stepRx 2 1 0 (contribBytes 21)).payload = some [(2, 0, [7])] ∧ (getDom s.dev 0).running = true ∧ (getDom s.dev 0).belled = true ∧ (getDom s.dev 0).step = 5 ∧ routeAt s.dev (2048 + flow0.port) flow0.route = none ∧ hasCredit s.dev (coverDest s.dev flow0.dest flow0.queue) = true ∧ (∀ y ∈ s.dev.net.waiting, y.src ≠ 2048 + flow0.port)) ∧
    (∃ s : State, Arrives 2 (stepRx 2 1 0 (contribBytes 22)) s ∧ OnFlow 3 (stepRx 2 1 0 (contribBytes 22)) s ∧ WholeMessage 3 (stepRx 2 1 0 (contribBytes 22)) s ∧ s.dev.state ≠ .faulted ∧ flowEntry s.dev 3 = some flow0 ∧ fullStep s.dev 0 (stepRx 2 1 0 (contribBytes 22)).step = some 5 ∧ (getFlow s.dev 3).accepted = [] ∧ contribOk s.dev (stepRx 2 1 0 (contribBytes 22)).payload = none ∧ (getDom s.dev 0).belled = true ∧ (getDom s.dev 0).step = 5) ∧
    (∃ s : State, Arrives 3 (stepRx 3 2 0 [7, 8]) s ∧ OnFlow 3 (stepRx 3 2 0 [7, 8]) s ∧ WholeMessage 3 (stepRx 3 2 0 [7, 8]) s ∧ s.dev.state ≠ .faulted ∧ fetchFor s.dev 3 = none ∧ restockFor s.dev 3 = none ∧ adapterFor s.dev 3 = none ∧ chanFor s.dev 3 = some 5) ∧
    (∃ s : State, Arrives 11 (stepRx 11 1 5 []) s ∧ OnFlow 3 (stepRx 11 1 5 []) s ∧ WholeMessage 3 (stepRx 11 1 5 []) s ∧ s.dev.state ≠ .faulted ∧ (getDom s.dev 0).running = true ∧ (getDom s.dev 0).step = (stepRx 11 1 5 []).aux.toNat ∧ (getDom s.dev 0).faultRaised = false ∧ (getDom s.dev 0).replaying = false ∧ (getDom s.dev 0).replayed = false) := by
  refine ⟨?_, ?_, ?_, ?_, ?_, ?_, ?_⟩
  · exact ⟨mk (flowDev 1), by unfold Arrives OnFlow WholeMessage; decide +kernel⟩
  · exact ⟨mk { flowDev 1 with net := { credits := [((7, 1, 6), 4)] } }, by unfold Arrives OnFlow WholeMessage; decide +kernel⟩
  · exact ⟨mk { flowDev 1 with doms := [(0, { going with running := false, step := 4 })] }, by unfold Arrives OnFlow WholeMessage; decide +kernel⟩
  · exact ⟨mk (flowDev 1), by unfold Arrives OnFlow WholeMessage; decide +kernel⟩
  · exact ⟨mk (flowDev 1), by unfold Arrives OnFlow WholeMessage; decide +kernel⟩
  · exact ⟨mk { flowDev 2 with dram := { chans := [(5, { chan0 .running { desc0 with srcSpace := 4, src := 6145 } with total := 2 })] } }, by unfold Arrives OnFlow WholeMessage; decide +kernel⟩
  · exact ⟨mk (flowDev 1), by unfold Arrives OnFlow WholeMessage; decide +kernel⟩

theorem witness_ServiceMessagesComplete :
    (∃ s : State, Arrives 12 (serviceRx 1 orderBytes) s ∧ OnFlow 3 (serviceRx 1 orderBytes) s ∧ WholeMessage 3 (serviceRx 1 orderBytes) s ∧ isFront s.dev = true ∧ (serviceRx 1 orderBytes).payload.length ≤ 4194304 ∧ (serviceRx 1 orderBytes).aux.toNat / 2 ^ 56 = 1 ∧ 64 ≤ (serviceRx 1 orderBytes).payload.length ∧ orderCheck (serviceRx 1 orderBytes).payload (orderOf (serviceRx 1 orderBytes).payload) s.dev = none) ∧
    (∃ s : State, Arrives 12 (serviceRx 1 orderBytes) s ∧ OnFlow 3 (serviceRx 1 orderBytes) s ∧ WholeMessage 3 (serviceRx 1 orderBytes) s ∧ isFront s.dev = true ∧ (serviceRx 1 orderBytes).payload.length ≤ 4194304 ∧ (serviceRx 1 orderBytes).aux.toNat / 2 ^ 56 = 1 ∧ 64 ≤ (serviceRx 1 orderBytes).payload.length ∧ orderCheck (serviceRx 1 orderBytes).payload (orderOf (serviceRx 1 orderBytes).payload) s.dev = some 1) ∧
    (∃ s : State, Arrives 12 (serviceRx 2 (beBytes 4 77 ++ beBytes 4 2049)) s ∧ OnFlow 3 (serviceRx 2 (beBytes 4 77 ++ beBytes 4 2049)) s ∧ WholeMessage 3 (serviceRx 2 (beBytes 4 77 ++ beBytes 4 2049)) s ∧ isFront s.dev = true ∧ (serviceRx 2 (beBytes 4 77 ++ beBytes 4 2049)).payload.length ≤ 4194304 ∧ (serviceRx 2 (beBytes 4 77 ++ beBytes 4 2049)).aux.toNat / 2 ^ 56 = 2 ∧ ticketOf s.dev (beAt (serviceRx 2 (beBytes 4 77 ++ beBytes 4 2049)).payload 4 4) = some 1 ∧ liveT (getTicket s.dev 1) = true) ∧
    (∃ s : State, Arrives 12 (serviceRx 2 (beBytes 4 77 ++ beBytes 4 2049)) s ∧ OnFlow 3 (serviceRx 2 (beBytes 4 77 ++ beBytes 4 2049)) s ∧ WholeMessage 3 (serviceRx 2 (beBytes 4 77 ++ beBytes 4 2049)) s ∧ isFront s.dev = true ∧ (serviceRx 2 (beBytes 4 77 ++ beBytes 4 2049)).payload.length ≤ 4194304 ∧ (serviceRx 2 (beBytes 4 77 ++ beBytes 4 2049)).aux.toNat / 2 ^ 56 = 2 ∧ ticketOf s.dev (beAt (serviceRx 2 (beBytes 4 77 ++ beBytes 4 2049)).payload 4 4) = none) ∧
    (∃ s : State, Arrives 12 (serviceRx 0x40 queryBytes) s ∧ OnFlow 3 (serviceRx 0x40 queryBytes) s ∧ WholeMessage 3 (serviceRx 0x40 queryBytes) s ∧ isFront s.dev = true ∧ (serviceRx 0x40 queryBytes).payload.length ≤ 4194304 ∧ (serviceRx 0x40 queryBytes).aux.toNat / 2 ^ 56 = 0x40 ∧ s.dev.state = .serving ∧ catFront s.dev = true ∧ 32 ≤ (serviceRx 0x40 queryBytes).payload.length ∧ catOf s.dev (beAt (serviceRx 0x40 queryBytes).payload 8 1) = some cat0 ∧ queryOk (serviceRx 0x40 queryBytes).payload cat0 = true ∧ (getCust s.dev (beAt (serviceRx 0x40 queryBytes).payload 4 2)).enable = true ∧ cat0.queryCost ≤ (getCust s.dev (beAt (serviceRx 0x40 queryBytes).payload 4 2)).burst ∧ waitWithin s.dev (queriesAhead s.dev (prioOf s.dev 0)) (8 * (serve s.dev).waitCapUs) = true ∧ (mget s.dev.srv.catQueues 0 []).length < depthOf s.dev 0) ∧
    (∃ s : State, Arrives 12 (serviceRx 0x41 (maskBytes 5)) s ∧ OnFlow 3 (serviceRx 0x41 (maskBytes 5)) s ∧ WholeMessage 3 (serviceRx 0x41 (maskBytes 5)) s ∧ isFront s.dev = true ∧ (serviceRx 0x41 (maskBytes 5)).payload.length ≤ 4194304 ∧ (serviceRx 0x41 (maskBytes 5)).aux.toNat / 2 ^ 56 = 0x41 ∧ maskStatus (serviceRx 0x41 (maskBytes 5)).payload s.dev = 0) ∧
    (∃ s : State, Arrives 12 (serviceRx 0x41 (maskBytes 6)) s ∧ OnFlow 3 (serviceRx 0x41 (maskBytes 6)) s ∧ WholeMessage 3 (serviceRx 0x41 (maskBytes 6)) s ∧ isFront s.dev = true ∧ (serviceRx 0x41 (maskBytes 6)).payload.length ≤ 4194304 ∧ (serviceRx 0x41 (maskBytes 6)).aux.toNat / 2 ^ 56 = 0x41 ∧ maskStatus (serviceRx 0x41 (maskBytes 6)).payload s.dev ≠ 0) := by
  refine ⟨?_, ?_, ?_, ?_, ?_, ?_, ?_⟩
  · exact ⟨mk frontDev, by unfold Arrives OnFlow WholeMessage; simp only [serviceRx_crc, true_and]; decide +kernel⟩
  · exact ⟨mk { frontDev with srv := {} }, by unfold Arrives OnFlow WholeMessage; simp only [serviceRx_crc, true_and]; decide +kernel⟩
  · exact ⟨mk { frontDev with srv := { tickets := [(1, tick .decode)] } }, by unfold Arrives OnFlow WholeMessage; simp only [serviceRx_crc, true_and]; decide +kernel⟩
  · exact ⟨mk frontDev, by unfold Arrives OnFlow WholeMessage; simp only [serviceRx_crc, true_and]; decide +kernel⟩
  · exact ⟨mk catDev, by unfold Arrives OnFlow WholeMessage; simp only [serviceRx_crc, true_and]; decide +kernel⟩
  · exact ⟨mk catDev, by unfold Arrives OnFlow WholeMessage; simp only [serviceRx_crc, true_and]; decide +kernel⟩
  · exact ⟨mk catDev, by unfold Arrives OnFlow WholeMessage; simp only [serviceRx_crc, true_and]; decide +kernel⟩

theorem witness_FlowCommandsComplete :
    (∃ s : State, Arrives 4 (let r : Rx := { rx 4 1 1 0 [] with ack := 1 }; { r with crc := rxCrc r }) s ∧ OnFlow 3 (let r : Rx := { rx 4 1 1 0 [] with ack := 1 }; { r with crc := rxCrc r }) s ∧ ((let r : Rx := { rx 4 1 1 0 [] with ack := 1 }; { r with crc := rxCrc r }) : Rx).flags.getLsbD 0 = true) ∧
    (∃ s : State, Arrives 4 (rx 4 2 2 0 []) s ∧ hIndex (rx 4 2 2 0 []).handle.toNat = 3 ∧ (getFlow s.dev 3).inUse = true ∧ (getFlow s.dev 3).gen = hGen (rx 4 2 2 0 []).handle.toNat ∧ (getFlow s.dev 3).cls = (rx 4 2 2 0 []).cls ∧ 2 ≤ (getFlow s.dev 3).cls ∧ (rx 4 2 2 0 []).flags.getLsbD 1 = true) ∧
    (∃ s : State, Arrives 5 (let r : Rx := { rx 5 1 0 9 [] with handle := 3 * 2048 }; { r with crc := rxCrc r }) s ∧ hIndex ((let r : Rx := { rx 5 1 0 9 [] with handle := 3 * 2048 }; { r with crc := rxCrc r }) : Rx).handle.toNat = 3 ∧ hGen ((let r : Rx := { rx 5 1 0 9 [] with handle := 3 * 2048 }; { r with crc := rxCrc r }) : Rx).handle.toNat = 0 ∧ (getFlow s.dev 3).quarantine = false ∧ (getFlow s.dev 3).opened = false ∧ (getFlow s.dev 3).inUse = false) ∧
    (∃ s : State, Arrives 5 (let r : Rx := { rx 5 1 0 9 [] with handle := 3 * 2048 }; { r with crc := rxCrc r }) s ∧ hIndex ((let r : Rx := { rx 5 1 0 9 [] with handle := 3 * 2048 }; { r with crc := rxCrc r }) : Rx).handle.toNat = 3 ∧ (getFlow s.dev 3).quarantine = true) ∧
    (∃ s : State, Arrives 6 (rx 6 1 0 9 []) s ∧ OnFlow 3 (rx 6 1 0 9 []) s ∧ (rx 6 1 0 9 []).flags.getLsbD 0 = false ∧ (getFlow s.dev 3).opened = false) ∧
    (∃ s : State, Arrives 7 (rx 7 1 0 0 []) s ∧ OnFlow 3 (rx 7 1 0 0 []) s ∧ (rx 7 1 0 0 []).flags.getLsbD 0 = false) ∧
    (∃ s : State, (getFlow s.dev 3).opened = true ∧ 0 < (getFlow s.dev 3).sinceAck) ∧
    (∃ s : State, (getFlow s.dev 3).opened = true ∧ (getFlow s.dev 3).unacked.find? (fun v => decide (v.t.psn = 0)) = some (Unacked.mk { port := 1, sub := 0, typ := 1, cls := 1, cart := 0, flags := 4, handle := 0, psn := 0, ack := 0, alive := 0, step := 5, aux := 0, payload := [7] } 2) ∧ ¬ ((getFlow s.dev 3).badHome = true ∧ (getFlow s.dev 3).badAlt = true) ∧ (Unacked.mk { port := 1, sub := 0, typ := 1, cls := 1, cart := 0, flags := 4, handle := 0, psn := 0, ack := 0, alive := 0, step := 5, aux := 0, payload := [7] } 2).timeouts < 3) ∧
    (∃ s : State, (getFlow s.dev 3).inUse = true ∧ (getFlow s.dev 3).opened = true ∧ (getFlow s.dev 3).cls = 1 ∧ (getFlow s.dev 3).unacked.find? (fun v => decide (v.t.psn = 0)) = some (Unacked.mk { port := 1, sub := 0, typ := 1, cls := 1, cart := 0, flags := 4, handle := 0, psn := 0, ack := 0, alive := 0, step := 5, aux := 0, payload := [7] } 3) ∧ (getFlow s.dev 3).onAlt = false ∧ (getFlow s.dev 3).badHome = false ∧ (getFlow s.dev 3).badAlt = false ∧ 3 ≤ (Unacked.mk { port := 1, sub := 0, typ := 1, cls := 1, cart := 0, flags := 4, handle := 0, psn := 0, ack := 0, alive := 0, step := 5, aux := 0, payload := [7] } 3).timeouts ∧ subUp s.dev (otherPath s.dev 3) = true) ∧
    (∃ s : State, (getFlow s.dev 3).inUse = true ∧ (getFlow s.dev 3).opened = true ∧ (getFlow s.dev 3).cls = 1 ∧ (getFlow s.dev 3).unacked.find? (fun v => decide (v.t.psn = 0)) = some (Unacked.mk { port := 1, sub := 0, typ := 1, cls := 1, cart := 0, flags := 4, handle := 0, psn := 0, ack := 0, alive := 0, step := 5, aux := 0, payload := [7] } 3) ∧ (getFlow s.dev 3).onAlt = false ∧ (getFlow s.dev 3).badHome = false ∧ (getFlow s.dev 3).badAlt = false ∧ 3 ≤ (Unacked.mk { port := 1, sub := 0, typ := 1, cls := 1, cart := 0, flags := 4, handle := 0, psn := 0, ack := 0, alive := 0, step := 5, aux := 0, payload := [7] } 3).timeouts ∧ subUp s.dev (otherPath s.dev 3) = false) ∧
    (∃ s : State, (getFlow s.dev 3).inUse = true ∧ (getFlow s.dev 3).cls = 1 ∧ (getFlow s.dev 3).badHome = true ∧ (getFlow s.dev 3).badAlt = true ∧ (getFlow s.dev 3).failed = false ∧ (getDom s.dev (getFlow s.dev 3).domain).running = true) ∧
    (∃ s : State, (getFlow s.dev 9).quarantine = true ∧ flowEntry s.dev 9 = none) ∧
    (∃ s : State, (getFlow s.dev 3).inUse = true ∧ 2 ≤ (getFlow s.dev 3).cls) := by
  refine ⟨?_, ?_, ?_, ?_, ?_, ?_, ?_, ?_, ?_, ?_, ?_, ?_, ?_⟩
  · exact ⟨mk (withFlow { theFlow 1 with txPsn := 1, unacked := [{ t := { port := 1, sub := 0, typ := 1, cls := 1, cart := 0, flags := 4, handle := 0, psn := 0, ack := 0, alive := 0, step := 5, aux := 0, payload := [7] }, timeouts := 0 }] } (run flowDoc going)), by unfold Arrives OnFlow; decide +kernel⟩
  · exact ⟨mk (withFlow { theFlow 2 with rate := 40000000000 } (run flowDoc going)), by unfold Arrives; decide +kernel⟩
  · exact ⟨mk (withFlow { gen := 4 } (run flowDoc going)), by unfold Arrives; decide +kernel⟩
  · exact ⟨mk (withFlow { gen := 4, quarantine := true } (run flowDoc going)), by unfold Arrives; decide +kernel⟩
  · exact ⟨mk (withFlow { theFlow 1 with opened := false } (run flowDoc going)), by unfold Arrives OnFlow; decide +kernel⟩
  · exact ⟨mk (flowDev 1), by unfold Arrives OnFlow; decide +kernel⟩
  · exact ⟨mk (withFlow { theFlow 1 with sinceAck := 1 } (run flowDoc going)), by decide +kernel⟩
  · exact ⟨mk (withFlow { theFlow 1 with txPsn := 1, unacked := [{ t := { port := 1, sub := 0, typ := 1, cls := 1, cart := 0, flags := 4, handle := 0, psn := 0, ack := 0, alive := 0, step := 5, aux := 0, payload := [7] }, timeouts := 2 }] } (run flowDoc going)), by decide +kernel⟩
  · exact ⟨mk (let d := withFlow { theFlow 1 with txPsn := 1, unacked := [{ t := { port := 1, sub := 0, typ := 1, cls := 1, cart := 0, flags := 4, handle := 0, psn := 0, ack := 0, alive := 0, step := 5, aux := 0, payload := [7] }, timeouts := 3 }] } (run flowDoc going); { d with eth := { d.eth with subs := [(8, { state := .up }), (16, { state := .up })] } }), by decide +kernel⟩
  · exact ⟨mk (withFlow { theFlow 1 with txPsn := 1, unacked := [{ t := { port := 1, sub := 0, typ := 1, cls := 1, cart := 0, flags := 4, handle := 0, psn := 0, ack := 0, alive := 0, step := 5, aux := 0, payload := [7] }, timeouts := 3 }] } (run flowDoc going)), by decide +kernel⟩
  · exact ⟨mk (withFlow { theFlow 1 with badHome := true, badAlt := true } (run flowDoc going)), by decide +kernel⟩
  · exact ⟨mk { base .ready with eth := { flows := [(9, { quarantine := true, gen := 7 })] } }, by decide +kernel⟩
  · exact ⟨mk (withFlow { theFlow 2 with rate := 1590000000000 } (run flowDoc going)), by decide +kernel⟩

theorem witness_BellCommandsComplete :
    (∃ s : State, (getDom s.dev 0).running = true ∧ atPace s.dev 0 = true) ∧
    (∃ s : State, (getDom s.dev 0).running = true ∧ (getDom s.dev 0).done = false ∧ (getDom s.dev 0).paced = true ∧ workDone s.dev 0 = true ∧ (membersOf s.dev 0).all (columnOn s.dev) = true ∧ isMachine s.dev 0 = false) ∧
    (∃ s : State, (getDom s.dev 0).running = true ∧ (getDom s.dev 0).done = false ∧ (getDom s.dev 0).paced = true ∧ workDone s.dev 0 = true ∧ (membersOf s.dev 0).all (columnOn s.dev) = true ∧ isMachine s.dev 0 = true ∧ parentOf s.dev 0 = some 1 ∧ (∀ c ∈ childrenOf s.dev 0, ∃ e ∈ (getDom s.dev 0).kids, e.1 = c)) ∧
    (∃ s : State, (getDom s.dev 0).running = true ∧ (getDom s.dev 0).done = false ∧ (getDom s.dev 0).paced = true ∧ workDone s.dev 0 = true ∧ (membersOf s.dev 0).all (columnOn s.dev) = true) ∧
    (∃ s : State, (domEntry s.dev 0).isSome = true ∧ isMachine s.dev 0 = false ∧ (membersOf s.dev 0).all (columnOn s.dev) = true ∧ (getDom s.dev 0).running = true ∧ (getDom s.dev 0).done = true ∧ atPeriod s.dev 0 = true ∧ (getDom s.dev 0).snapshot.contains (8 * 0) = false) ∧
    (∃ s : State, (domEntry s.dev 0).isSome = true ∧ isMachine s.dev 0 = false ∧ (membersOf s.dev 0).all (columnOn s.dev) = true ∧ (getDom s.dev 0).running = false ∧ isReady s.dev 0 = true) ∧
    (∃ s : State, Arrives 9 (bellRx 9 3 5 (bellBytes 2 2)) s ∧ (bellRx 9 3 5 (bellBytes 2 2)).payload.length = 96 ∧ leAt (bellRx 9 3 5 (bellBytes 2 2)).payload 0 1 = 0 ∧ leAt (bellRx 9 3 5 (bellBytes 2 2)).payload 8 1 = 0 ∧ isMachine s.dev 0 = true ∧ (childrenOf s.dev 0).contains (beAt (bellRx 9 3 5 (bellBytes 2 2)).payload 2 2) = true ∧ (getDom s.dev 0).running = true ∧ (getDom s.dev 0).done = false ∧ (bellRx 9 3 5 (bellBytes 2 2)).aux.toNat = (getDom s.dev 0).step ∧ (∀ e ∈ (getDom s.dev 0).kids, e.1 ≠ 2)) ∧
    (∃ s : State, Arrives 10 (bellRx 10 1 6 (bellBytes 1 2)) s ∧ (bellRx 10 1 6 (bellBytes 1 2)).payload.length = 96 ∧ leAt (bellRx 10 1 6 (bellBytes 1 2)).payload 0 1 = 0 ∧ leAt (bellRx 10 1 6 (bellBytes 1 2)).payload 8 1 = 0 ∧ isMachine s.dev 0 = true ∧ parentOf s.dev 0 = some 1 ∧ steps s.dev.state = true ∧ (getDom s.dev 0).running = true ∧ (getDom s.dev 0).done = true ∧ (bellRx 10 1 6 (bellBytes 1 2)).aux.toNat = (getDom s.dev 0).step + 1 ∧ (flagsOf (bellRx 10 1 6 (bellBytes 1 2)).payload).contains (8 * 0) = false) ∧
    (∃ s : State, Arrives 10 (bellRx 10 1 6 (bellBytes 1 1)) s ∧ (bellRx 10 1 6 (bellBytes 1 1)).payload.length = 96 ∧ leAt (bellRx 10 1 6 (bellBytes 1 1)).payload 0 1 = 0 ∧ leAt (bellRx 10 1 6 (bellBytes 1 1)).payload 8 1 = 0 ∧ isMachine s.dev 0 = true ∧ parentOf s.dev 0 = some 1 ∧ steps s.dev.state = true ∧ (getDom s.dev 0).running = true ∧ (getDom s.dev 0).done = true ∧ (bellRx 10 1 6 (bellBytes 1 1)).aux.toNat = (getDom s.dev 0).step + 1 ∧ (flagsOf (bellRx 10 1 6 (bellBytes 1 1)).payload).contains (8 * 0) = true) ∧
    (∃ s : State, (getDom s.dev 0).running = true ∧ (getDom s.dev 0).sentUp = true ∧ parentOf s.dev 0 = some 1) ∧
    (∃ s : State, isReady s.dev 0 = true ∧ (getDom s.dev 0).readySent ≠ none ∧ parentOf s.dev 0 = some 1) ∧
    (∃ s : State, isFront s.dev = true ∧ frontDom s.dev = 0 ∧ (getDom s.dev 0).running = true ∧ (getDom s.dev 0).halted = false ∧ (getDom s.dev 0).done = false ∧ s.dev.srv.schedSent = false ∧ recordsIn s.dev = true ∧ flowsReady s.dev (scheduleFrames (scheduleNext (getDom s.dev 0).step s.dev)) = true) ∧
    (∃ s : State, isFront s.dev = true ∧ frontDom s.dev = 0 ∧ (getDom s.dev 0).running = true ∧ (getDom s.dev 0).halted = false ∧ (getDom s.dev 0).done = false ∧ s.dev.srv.schedSent = false ∧ recordsIn s.dev = true ∧ flowsReady s.dev (scheduleFrames (scheduleNext (getDom s.dev 0).step s.dev)) = false) := by
  refine ⟨?_, ?_, ?_, ?_, ?_, ?_, ?_, ?_, ?_, ?_, ?_, ?_, ?_⟩
  · exact ⟨mk { run doc going with tick := 100 }, by decide +kernel⟩
  · exact ⟨mk { stallsDoneDev (run { doc with parts := [{ part0 with role := 0 }] } { going with paced := true }) with tick := 100 }, by decide +kernel⟩
  · exact ⟨mk { stallsDoneDev (treeDev { going with paced := true, kids := [(2, 0, [])] }) with tick := 100, srv := { schedSent := true } }, by decide +kernel⟩
  · exact ⟨mk { stallsDoneDev (run { doc with parts := [{ part0 with role := 0 }] } { going with paced := true }) with tick := 100 }, by decide +kernel⟩
  · exact ⟨mk { run doc { going with done := true, snapshot := [1] } with tick := 100, srv := { schedSent := true } }, by decide +kernel⟩
  · exact ⟨mk (run doc {}), by decide +kernel⟩
  · exact ⟨mk (treeDev going), by unfold Arrives; simp only [bellRx_crc, true_and]; decide +kernel⟩
  · exact ⟨mk { treeDev { going with done := true, sentUp := true } with tick := 100, srv := { schedSent := true } }, by unfold Arrives; simp only [bellRx_crc, true_and]; decide +kernel⟩
  · exact ⟨mk { treeDev { going with done := true, sentUp := true } with tick := 100, srv := { schedSent := true } }, by unfold Arrives; simp only [bellRx_crc, true_and]; decide +kernel⟩
  · exact ⟨mk { treeDev { going with done := true, sentUp := true } with tick := 100, srv := { schedSent := true } }, by decide +kernel⟩
  · exact ⟨mk (treeDev { readies := [{ rank := 2, proposal := 9, epoch := 0 }], readySent := some 8 }), by decide +kernel⟩
  · exact ⟨mk (run doc going), by decide +kernel⟩
  · exact ⟨mk (run { doc with flows := [{ flow0 with dest := countingHouse }] } going), by decide +kernel⟩

end Sys2Proof.Tests
end

section
/-! What the meaning of a command may change (Ops.lean: the device, the device and DRAM, or the device and the cells and fuses), said once
for every command, and the frames of DRAM and of the cells and fuses that follow from it; then what a reset leaves (R2, R397, R452). -/
namespace Sys2Proof.Machine

/-! ### What a command may change -/

/-- What is new after command c in state s: the device alone, or with it the part whose list names c (Safety.lean). Resets and the
commands at a bell are on both lists, which leaves nothing to say of them here. -/
inductive Changes (c : Instr) (s : State) : Prop
  | device (d : Dev) (h : exec c s = .next { s with dev := d })
  | dram (d : Dev) (m : List Host.Cell) (h : exec c s = .next { s with dev := d, mem := m }) (hd : writesDram c = true)
  | nonVol (d : Dev) (nv : NonVol) (h : exec c s = .next { s with dev := d, nv := nv }) (hn : writesNonVol c = true)
  | both (hd : writesDram c = true) (hn : writesNonVol c = true)

theorem exec_changes (c : Instr) (s : State) : Changes c s := by
  cases c with
  | stagingWrite | dramInitEnd | porterUnitComplete | porterDiscard | hbmReread | dataFrame | contrib | unitFrame | replayReq | order
  | cancel | query | maskWrite => exact .dram _ _ rfl rfl
  | erasePulseEnd | rowProgramEnd | verifyReadEnd | planeHashWrite | planLoad | fwConfirm => exact .nonVol _ _ rfl rfl
  | serveStart | deviceDone | localBell | bellUp | bellDown => exact .both rfl rfl
  | undervoltageLockout | inputBelow20v | inputOverCurrentTrip | inputOverVoltageTrip | railOverCurrentTrip | dieOverTemperatureTrip
  | perstAssert | functionReset => exact .both rfl rfl
  | _ => exact .device _ rfl

theorem exec_mem_frame {c : Instr} {s t : State} (hc : writesDram c = false) (h : exec c s = .next t) : t.mem = s.mem := by
  cases exec_changes c s with
  | device d he | nonVol d nv he => cases he.symm.trans h; rfl
  | dram _ _ _ hd | both hd => simp [hc] at hd

theorem exec_nv_frame {c : Instr} {s t : State} (hc : writesNonVol c = false) (h : exec c s = .next t) : t.nv = s.nv := by
  cases exec_changes c s with
  | device d he | dram d m he => cases he.symm.trans h; rfl
  | nonVol _ _ _ hn | both _ hn => simp [hc] at hn

/-- Settles O7: a command on neither list changes the device alone, and one on a single list leaves what the other list is about. -/
theorem memoryAndCellsFrame : Obligations.MemoryAndCellsFrame :=
  ⟨fun _ _ _ hc h a => congrArg (memRead · a) (exec_mem_frame hc h), fun _ _ _ hc h => exec_nv_frame hc h⟩

/-! ### What a reset leaves -/

/-- The module after a reset with supply and pins p: a fresh device, DRAM unlisted, the cells and fuses as they are. -/
def coldState (p : Power) (s : State) : State := { s with dev := coldDev (tickCycle s.dev) p, mem := [] }

/-- The supply after the rails have gone down (R452). -/
def downPower (p : Power) : Power :=
  { resetPower p with sequencing := false, railsGood := false, refLost := false, tray := 0, slot := 0 }

@[simp] theorem downPower_outOfReset (p : Power) : (downPower p).outOfReset = false := rfl

@[simp] theorem inProgress_tickCycle (d : Dev) : inProgress (tickCycle d) = inProgress d := rfl

theorem endOps_of_none_inProgress {d : Dev} (h : inProgress d = []) (whole : Bool) (nv : NonVol) : endOps whole d nv = nv := by
  simp [endOps, h]

theorem dieReset_cold {s : State} (h : inProgress s.dev = []) (p : Power) : dieReset p s = .next (coldState p s) := by
  simp [dieReset, coldState, endOps_of_none_inProgress, h]

theorem railsDown_cold {s : State} (h : inProgress s.dev = []) (whole : Bool) (p : Power) :
    railsDown whole p s = .next (coldState (downPower p) s) := by
  simp [railsDown, downPower, coldState, endOps_of_none_inProgress, h]

theorem railsUp_of_railsGood {p : Power} (h : p.railsGood = true) : railsUp p = true := by simp [railsUp, h]

theorem trip_cold {s : State} (h : inProgress s.dev = []) (hg : s.dev.pwr.railsGood = true) (therm : Bool) :
    trip therm s = .next (coldState (downPower { s.dev.pwr with tripped := true, thermtrip := s.dev.pwr.thermtrip || therm }) s) :=
  (if_pos (railsUp_of_railsGood hg)).trans (railsDown_cold h false _)

/-- Out of reset with good rails and no operation in progress, every reset makes the module cold; only a function reset releases the
die at once (R397). -/
theorem exec_reset_cold {c : Instr} {s : State} (hr : isReset c = true) (ho : s.dev.pwr.outOfReset = true)
    (hg : s.dev.pwr.railsGood = true) (h : inProgress s.dev = []) :
    ∃ p, exec c s = .next (coldState p s) ∧ (p.outOfReset = true ↔ c = .functionReset) := by
  have hup := railsUp_of_railsGood hg
  cases c with
  | undervoltageLockout | inputBelow20v => exact ⟨_, (if_pos hup).trans (railsDown_cold h true _), by simp⟩
  | inputOverCurrentTrip | inputOverVoltageTrip => exact ⟨_, trip_cold h hg false, by simp⟩
  | railOverCurrentTrip => exact ⟨_, (if_pos hup).trans (trip_cold h hg false), by simp⟩
  | dieOverTemperatureTrip => exact ⟨_, (if_pos hup).trans (trip_cold h hg true), by simp⟩
  | perstAssert => exact ⟨_, (if_pos ho).trans (dieReset_cold h _), by simp [resetPower]⟩
  | functionReset => exact ⟨_, (if_pos ho).trans (dieReset_cold h _), by simp⟩
  | _ => cases hr

/-- Settles O8: with no operation in progress a reset has nothing to end in the cells, and builds the rest of the device anew. -/
theorem resetsKeepCellsAndFuses : Obligations.ResetsKeepCellsAndFuses := by
  intro c s hr ho hg h
  obtain ⟨p, he, hp⟩ := exec_reset_cold hr ho hg h
  exact ⟨coldState p s, p, he, rfl, rfl, rfl, rfl, hp⟩

end Sys2Proof.Machine
end

section
/-! Supply and resets (sections 1, 14, 16 and 17): what each command leaves of the supply and the pins. -/
namespace Sys2Proof.Machine

/-! ### The supply comes up (R19, R448, R451) -/

/-- Settles O23: each command meets its guard and changes the supply alone, or leaves it; a deassertion that waits is released with the
last rail. -/
theorem supplyUpCompletes : Obligations.SupplyUpCompletes := by
  intro a b s
  refine ⟨fun hu ht => ⟨_, rfl, ?_⟩, fun h => ⟨_, rfl, ?_⟩, fun h => ⟨_, rfl, ?_⟩, fun h => ⟨_, rfl, ?_⟩⟩
  · simp [hu, ht, tickCycle]
  · have hno : (railsUp s.dev.pwr || s.dev.pwr.tripped) = true := by simpa using h
    simp [hno, tickCycle, Nothing]
  · cases hw : s.dev.pwr.perstWaits with
    | none => simp [h, hw, tickCycle]
    | some e =>
      obtain ⟨t, k⟩ := e
      simp only [h, hw, tickCycle, release]
      simp +contextual
  · cases hg : s.dev.pwr.railsGood with
    | true => simp [h, hg, tickCycle, deassert, release]
    | false => simp [h, hg, tickCycle, deassert]

/-! ### Resets and trips (R397, R448, R452, R466, R482) -/

/-- With the rails up, a trip takes them down and stays (R466). -/
theorem trip_of_railsGood {s : State} (hg : s.dev.pwr.railsGood = true) (therm : Bool) :
    trip therm s = railsDown false { s.dev.pwr with tripped := true, thermtrip := s.dev.pwr.thermtrip || therm } s :=
  if_pos (railsUp_of_railsGood hg)

/-- What a trip leaves of the pins: THERMTRIP# rises with the die diodes' trip alone. -/
theorem trip_pins {s : State} (hg : s.dev.pwr.railsGood = true) (therm : Bool) :
    ∃ t, trip therm s = .next t ∧ t.dev.state = .cold ∧ t.dev.pwr.railsGood = false ∧ t.dev.pwr.tripped = true ∧
      t.dev.pwr.thermtrip = (s.dev.pwr.thermtrip || therm) :=
  ⟨_, trip_of_railsGood hg therm, rfl, rfl, rfl, rfl⟩

/-- Settles O24: the rails go down with every loss of supply and every trip (railsDown), and stand through the two resets of the die. -/
theorem resetsAndTripsComplete : Obligations.ResetsAndTripsComplete := by
  intro s ho hg
  have hup : railsUp s.dev.pwr = true := railsUp_of_railsGood hg
  refine ⟨⟨_, if_pos hup, rfl, rfl, rfl⟩, ⟨_, if_pos hup, rfl, rfl, rfl, rfl⟩, fun c hc => ?_, ?_,
    ⟨_, if_pos ho, rfl, hg, rfl, rfl, rfl, rfl⟩, ⟨_, if_pos ho, rfl, hg, rfl, rfl, rfl⟩⟩
  · have hexec : exec c s = trip false s := by
      simp only [List.mem_cons, List.not_mem_nil, or_false] at hc
      obtain rfl | rfl | rfl := hc
      · rfl
      · rfl
      · exact if_pos hup
    simpa [hexec] using trip_pins hg false
  · have hexec : exec .dieOverTemperatureTrip s = trip true s := if_pos hup
    simpa [hexec] using trip_pins hg true

end Sys2Proof.Machine
end

section
/-! Events and what follows them: which registers and which domains each touches (R402, R214); input, reference and island clocks (sections 1 and 16). -/
namespace Sys2Proof.Machine

/-! ### What an event leaves (R402) -/

/-- From d to d' the supply stays as it is, and only registers on the list l have had an event. -/
structure Quiet (l : List EvId) (d d' : Dev) : Prop where
  pwr : d'.pwr = d.pwr
  events : ∀ e, e ∉ l → getEv d' e = getEv d e

namespace Quiet
variable {l l' : List EvId} {d d' d'' : Dev}

theorem refl (d : Dev) : Quiet l d d := ⟨rfl, fun _ _ => rfl⟩

theorem of_evs (hp : d'.pwr = d.pwr) (he : d'.evs = d.evs) : Quiet l d d' := ⟨hp, fun _ _ => by simp [getEv, he]⟩

theorem trans (h : Quiet l d d') (h' : Quiet l d' d'') : Quiet l d d'' :=
  ⟨h'.pwr.trans h.pwr, fun e he => (h'.events e he).trans (h.events e he)⟩

/-- An event after a change of neither. -/
theorem after (h : Quiet l d' d'') (hp : d'.pwr = d.pwr) (he : d'.evs = d.evs) : Quiet l d d'' := (of_evs hp he).trans h

theorem mono (h : Quiet l d d') (hl : l ⊆ l') : Quiet l' d d' := ⟨h.pwr, fun e he => h.events e fun hm => he (hl hm)⟩

theorem notify (b : Byte) (v : Nat) (h : Quiet l d d') : Quiet l d (raiseIbi b (msix v d')) := h.trans (of_evs (by simp) (by simp))

theorem foldl {α : Type} {f : Dev → α → Dev} (h : ∀ d a, Quiet l d (f d a)) (as : List α) (d : Dev) : Quiet l d (as.foldl f d) := by
  induction as generalizing d with
  | nil => exact refl d
  | cons a as ih => exact (h d a).trans (ih _)

end Quiet

theorem raise_quiet (e : EvId) (b i a : Nat) (d : Dev) : Quiet [e] d (raise e b i a d) :=
  ⟨raise_pwr e b i a d, fun f hf => getEv_raise_ne e b i a d (by simpa using hf)⟩

/-- One event: its flag reads 1 and its counter has risen by 1 (R402). -/
theorem raise_seen (e : EvId) {b : Nat} (i a : Nat) (d : Dev) (hb : b < 32) :
    (getEv (raise e b i a d) e).flags.getLsbD b = true ∧
      mget (getEv (raise e b i a d) e).cnt b 0 = (mget (getEv d e).cnt b 0 + 1) % 2 ^ 32 := by
  rw [getEv_raise_same]
  exact ⟨by simp [evHit_flags, hb], by simp [evHit_cnt, mmod]⟩

/-- An event is seen after whatever leaves its register alone. -/
theorem eventSeen_of_raise {e : EvId} {b : Nat} {i a : Nat} {s t : State} {d : Dev} (hb : b < 32) (hs : getEv d e = getEv s.dev e)
    (ht : getEv t.dev e = getEv (raise e b i a d) e) : EventSeen e b s t := by
  unfold EventSeen
  rw [ht, ← hs]
  exact raise_seen e i a d hb

/-! ### The FAULT flag of a domain (R214, R217) -/

/-- A machine flag changes its domain's flags alone. -/
theorem raiseFlag_doms (k f : Nat) (d : Dev) : ∃ fl late snap,
    (raiseFlag k f d).doms = (setDom d k { getDom d k with flags := fl, lateFlags := late, snapshot := snap }).doms := by
  unfold raiseFlag
  simp only []
  split
  · exact ⟨_, _, _, rfl⟩
  · split
    · exact ⟨_, _, _, raise_doms ..⟩
    · exact ⟨_, _, _, rfl⟩

theorem getDom_congr {d d' : Dev} (h : d'.doms = d.doms) (j : Nat) : getDom d' j = getDom d j := by simp [getDom, h]

theorem raiseFlag_quiet (k f : Nat) (d : Dev) : Quiet [.bl] d (raiseFlag k f d) := by
  unfold raiseFlag
  simp only []
  split
  · exact .of_evs rfl rfl
  · split
    · exact (raise_quiet ..).after rfl rfl
    · exact .of_evs rfl rfl

theorem faultDom_quiet (k : Nat) (d : Dev) : Quiet [.bl] d (faultDom k d) := (raiseFlag_quiet ..).after rfl rfl

theorem applyQueued_quiet (a : Nat) (d : Dev) : Quiet [.cv] d (applyQueued a d) := by
  unfold applyQueued
  simp only []
  split
  · exact .refl d
  · split
    · exact (raise_quiet ..).after rfl rfl
    · exact .of_evs rfl rfl

theorem applyAllQueued_quiet (d : Dev) : Quiet [.cv] d (applyAllQueued d) := Quiet.foldl (fun d a => applyQueued_quiet a d) _ _

theorem applyTrimMode_quiet (l : List EvId) (d : Dev) : Quiet l d (applyTrimMode d) := by
  unfold applyTrimMode
  split
  · exact .refl d
  · exact .of_evs rfl rfl

theorem enter_quiet (n : DevState) (d : Dev) : Quiet [.cv, .chHost] d (enter n d) := by
  unfold enter
  split
  · exact .refl d
  · simp only []
    have hent : Quiet [.cv, .chHost] d (raiseIbi 0x01 (msix 0 (raise .chHost 0 0 0 { d with previous := d.state, state := n }))) :=
      Quiet.notify _ _ (.mono (l := [.chHost]) ((raise_quiet ..).after rfl rfl) (by simp))
    split
    · exact (hent.trans ((applyAllQueued_quiet _).mono (by simp))).trans (applyTrimMode_quiet ..)
    · exact hent

theorem enterFaulted_quiet (d : Dev) : Quiet [.cv, .chHost] d (enterFaulted d) := (enter_quiet ..).after rfl rfl

theorem raiseFault_quiet (k : Nat) (d : Dev) : Quiet [.bl, .cv, .chHost] d (raiseFault k d) := by
  have hmsg : Quiet [.bl, .cv, .chHost] d (raiseIbi 0x02 (msix 0 d)) := .notify _ _ (.refl d)
  unfold raiseFault
  split
  · split
    · exact hmsg.trans ((enterFaulted_quiet _).mono (by simp))
    · exact .refl d
  · simp only []
    refine hmsg.trans (Quiet.after (Quiet.foldl (fun d j => ?_) _ _) rfl rfl)
    exact (faultDom_quiet j d).mono (by simp)

theorem raiseFaultAll_quiet (d : Dev) : Quiet [.bl, .cv, .chHost] d (raiseFaultAll d) := by
  unfold raiseFaultAll
  split
  · exact raiseFault_quiet 0 d
  · exact Quiet.foldl (fun d k => raiseFault_quiet k d) _ _

theorem updateAlert_quiet (l : List EvId) (d : Dev) : Quiet l d (updateAlert d) := by
  unfold updateAlert
  split
  · split
    · exact .of_evs rfl rfl
    · exact .notify _ _ (.of_evs rfl rfl)
  · split
    · exact .of_evs rfl rfl
    · exact .refl d

/-- A write at k leaves every entry but the one that a read at k finds. -/
theorem mem_mput_of_mem {α : Type} (m : SMap α) (k : Nat) (x : α) {e : Nat × α} (he : e ∈ m) :
    e ∈ mput m k x ∨ (e.1 = k ∧ mfind m k = some e.2) := by
  induction m with
  | nil => simp at he
  | cons c r ih =>
    obtain ⟨a, v⟩ := c
    simp only [mput, mfind]
    split
    · obtain rfl | he := List.mem_cons.mp he
      · exact .inr ⟨‹a = k›, rfl⟩
      · exact .inl (List.mem_cons_of_mem _ he)
    · split
      · exact .inl (List.mem_cons_of_mem _ he)
      · obtain rfl | he := List.mem_cons.mp he
        · exact .inl List.mem_cons_self
        · exact (ih he).imp_left (List.mem_cons_of_mem _)

theorem mem_mput_self {α : Type} (m : SMap α) (k : Nat) (x : α) : (k, x) ∈ mput m k x := by
  induction m with
  | nil => simp [mput]
  | cons c r ih =>
    simp only [mput]
    split
    · simp
    · split
      · simp
      · exact List.mem_cons_of_mem _ ih

/-- A domain of the device runs a step. -/
def RunsAny (d : Dev) : Prop := ∃ e ∈ d.doms, e.2.running = true

theorem runsAny_iff (d : Dev) : RunsAny d ↔ runningDoms d ≠ [] := by simp [RunsAny, runningDoms]

theorem runsAny_of_getDom {d : Dev} {k : Nat} (h : (getDom d k).running = true) : k ∈ runningDoms d := by
  have hf : ∀ m : SMap Dom, (mget m k {}).running = true → (k, mget m k {}) ∈ m := by
    intro m
    induction m with
    | nil => intro h; cases h
    | cons c r ih =>
      obtain ⟨a, v⟩ := c
      intro h
      by_cases ha : a = k
      · simp [mget, mfind, ha]
      · simp only [mget, mfind, if_neg ha] at h ⊢
        exact List.mem_cons_of_mem _ (ih h)
  exact List.mem_map.mpr ⟨_, List.mem_filter.mpr ⟨hf _ h, h⟩, rfl⟩

/-- A domain whose FAULT flag is raised runs on as it ran. -/
theorem runsAny_setDom {d : Dev} {k : Nat} {x : Dom} (hf : x.faultRaised = true) (hr : x.running = (getDom d k).running) (h : RunsAny d) :
    RunsAny (setDom d k x) := by
  have hset : (setDom d k x).doms = mput d.doms k x := if_neg (fun hx => by simp [hx] at hf)
  obtain ⟨e, he, hrun⟩ := h
  unfold RunsAny
  rw [hset]
  obtain hm | ⟨-, hm⟩ := mem_mput_of_mem d.doms k x he
  · exact ⟨e, hm, hrun⟩
  · exact ⟨(k, x), mem_mput_self .., by simpa [hr, getDom, mget, hm] using hrun⟩

theorem runsAny_faultDom {d : Dev} (k : Nat) (h : RunsAny d) : RunsAny (faultDom k d) := by
  obtain ⟨fl, late, snap, hd⟩ := raiseFlag_doms k (8 * k) (modDom k (fun x => { x with faultRaised := true, halted := true }) d)
  have h1 : RunsAny (modDom k (fun x => { x with faultRaised := true, halted := true }) d) := runsAny_setDom rfl rfl h
  unfold RunsAny faultDom
  rw [hd]
  exact runsAny_setDom (by simp [modDom]) rfl h1

theorem faultRaised_faultDom {d : Dev} {j : Nat} (k : Nat) (h : (getDom d j).faultRaised = true) : (getDom (faultDom k d) j).faultRaised = true := by
  obtain ⟨fl, late, snap, hd⟩ := raiseFlag_doms k (8 * k) (modDom k (fun x => { x with faultRaised := true, halted := true }) d)
  unfold faultDom
  rw [getDom_congr hd]
  by_cases hj : j = k
  · simp [hj, modDom]
  · simpa [hj, modDom] using h

/-- While a domain runs, raising FAULT for domain k raises the flags of its targets, k's own mark first (R214). -/
theorem raiseFault_of_runsAny {d : Dev} (k : Nat) (h : RunsAny d) : raiseFault k d =
    (if (runningDoms d).contains k then [k] else runningDoms d).foldl (fun d j => faultDom j d)
      (modDom k (fun x => { x with faultRaised := true }) (raiseIbi 0x02 (msix 0 d))) := by
  unfold raiseFault
  split
  · exact absurd ‹_› ((runsAny_iff d).mp h)
  · rfl

theorem raiseFault_keeps {d : Dev} (k : Nat) (h : RunsAny d) :
    RunsAny (raiseFault k d) ∧ (getDom (raiseFault k d) k).faultRaised = true ∧
      ∀ j, (getDom d j).faultRaised = true → (getDom (raiseFault k d) j).faultRaised = true := by
  have hmark : ∀ j, j = k ∨ (getDom d j).faultRaised = true →
      (getDom (modDom k (fun x => { x with faultRaised := true }) (raiseIbi 0x02 (msix 0 d))) j).faultRaised = true := fun j hj => by
    by_cases hk : j = k
    · simp [hk, modDom]
    · simpa [hk, modDom, getDom_congr (raiseIbi_doms ..)] using hj
  have hfold : ∀ j, j = k ∨ (getDom d j).faultRaised = true → (getDom (raiseFault k d) j).faultRaised = true := fun j hj => by
    rw [raiseFault_of_runsAny k h]
    exact List.foldlRecOn (motive := fun d => (getDom d j).faultRaised = true) _ _ (hmark j hj) fun _ hb a _ => faultRaised_faultDom a hb
  refine ⟨?_, hfold k (.inl rfl), fun j hj => hfold j (.inr hj)⟩
  rw [raiseFault_of_runsAny k h]
  refine List.foldlRecOn (motive := RunsAny) _ _ (runsAny_setDom rfl rfl ?_) fun _ hb a _ => runsAny_faultDom a hb
  simpa [RunsAny] using h

theorem faultRaised_foldl_raiseFault (ks : List Nat) {d : Dev} (h : RunsAny d) {j : Nat} (hj : j ∈ ks ∨ (getDom d j).faultRaised = true) :
    (getDom (ks.foldl (fun d k => raiseFault k d) d) j).faultRaised = true := by
  induction ks generalizing d with
  | nil => simpa using hj
  | cons k ks ih =>
    obtain ⟨hr, hk, hkeep⟩ := raiseFault_keeps k h
    refine ih hr ?_
    obtain hj | hj := hj
    · obtain rfl | hj := List.mem_cons.mp hj
      · exact .inr hk
      · exact .inl hj
    · exact .inr (hkeep j hj)

/-- FAULT in every running domain (R437, R455, R459). -/
theorem faultRaised_raiseFaultAll {d : Dev} {k : Nat} (hk : k ∈ runningDoms d) : (getDom (raiseFaultAll d) k).faultRaised = true := by
  have hr : RunsAny d := (runsAny_iff d).mpr (List.ne_nil_of_mem hk)
  unfold raiseFaultAll
  split
  · exact absurd ‹_› ((runsAny_iff d).mp hr)
  · exact faultRaised_foldl_raiseFault _ hr (.inl hk)

/-! ### Input, reference and island clocks (R14, R449, R454, R455) -/

/-- The input falls low while the die is out of reset: one event, and ALERT# where it is enabled (R449, R467). -/
theorem exec_inputLow {s : State} (hl : s.dev.pwr.inputLow = false) (ho : s.dev.pwr.outOfReset = true) :
    ∃ t, exec .inputLow s = .next t ∧ SameStore s t ∧
      t.dev = updateAlert (raise .wb 2 0 0 { tickCycle s.dev with pwr := { s.dev.pwr with inputLow := true } }) := by
  refine ⟨_, rfl, ⟨rfl, rfl, rfl⟩, ?_⟩
  simp [hl, ho, tickCycle]

theorem exec_inputRecovered_pwr {s : State} (hl : s.dev.pwr.inputLow = true) :
    ∃ t, exec .inputRecovered s = .next t ∧ SameStore s t ∧ t.dev.pwr = { s.dev.pwr with inputLow := false } := by
  refine ⟨_, rfl, ⟨rfl, rfl, rfl⟩, ?_⟩
  cases ho : s.dev.pwr.outOfReset with
  | true => simp [hl, ho, tickCycle, (updateAlert_quiet [] _).pwr]
  | false => simp [hl, ho, tickCycle]

/-- The module reference is lost while the die is out of reset (R455). -/
theorem exec_referenceLost {s : State} (hl : s.dev.pwr.refLost = false) (ho : s.dev.pwr.outOfReset = true) :
    ∃ t, exec .referenceLost s = .next t ∧ SameStore s t ∧
      t.dev = raiseFaultAll (raise .wb 8 0 0 { tickCycle s.dev with pwr := { s.dev.pwr with refLost := true } }) := by
  refine ⟨_, rfl, ⟨rfl, rfl, rfl⟩, ?_⟩
  simp [hl, ho, tickCycle]

@[simp] theorem mem_linsert (l : List Nat) (i j : Nat) : j ∈ linsert l i ↔ j ∈ l ∨ j = i := by
  unfold linsert
  split
  · have hi : i ∈ l := by simpa using ‹l.contains i = true›
    exact ⟨.inl, fun h => h.elim id fun hj => hj ▸ hi⟩
  · simp

@[simp] theorem mem_lremove (l : List Nat) (i j : Nat) : j ∈ lremove l i ↔ j ∈ l ∧ j ≠ i := by simp [lremove]

/-- A write at one key leaves what another reads as, each with a default of its own. -/
theorem mget_mset_other {α : Type} [DecidableEq α] (m : SMap α) {k j : Nat} (d x d' : α) (h : j ≠ k) : mget (mset m k d x) j d' = mget m j d' := by
  unfold mset
  split <;> simp [mget, h]

/-- Where a comparison of an island's loop leaves its clock: between where it is and its target. -/
def movedKhz (i khz : Nat) (d : Dev) : Nat :=
  max (min (islandKhz d i) (islandTarget d i)) (min (max (islandKhz d i) (islandTarget d i)) khz)

/-- One comparison of a running island's loop moves its clock alone (R454). -/
theorem clockMove_eq {i : Nat} {d : Dev} (khz : Nat) (hi : isIsland i = true) (hs : islandStopped d i = false) (hr : d.pwr.refLost = false)
    (hg : d.pwr.railsGood = true) :
    clockMove i khz d = { d with pwr := { d.pwr with khz := mset d.pwr.khz i (islandRange i).1 (movedKhz i khz d) } } := by
  simp [clockMove, movedKhz, hi, hs, hr, hg]

theorem exec_islandClockAdjust {i : Nat} {s : State} (khz : Nat) (hi : isIsland i = true) (hs : islandStopped s.dev i = false)
    (hr : s.dev.pwr.refLost = false) (hg : s.dev.pwr.railsGood = true) : ∃ t, exec (.islandClockAdjust i khz) s = .next t ∧
      t = { s with dev := { s.dev with cycle := s.dev.cycle + 1,
                                       pwr := { s.dev.pwr with khz := mset s.dev.pwr.khz i (islandRange i).1 (movedKhz i khz s.dev) } } } := by
  refine ⟨_, rfl, ?_⟩
  rw [clockMove_eq (d := tickCycle s.dev) khz hi hs hr hg]
  rfl

/-- Settles O25: an event and what follows it are told apart by the registers that each touches (Quiet); the FAULT of every running domain
is faultRaised_raiseFaultAll. -/
theorem inputAndClockEventsComplete : Obligations.InputAndClockEventsComplete := by
  intro i khz s
  refine ⟨fun hl ho => ?_, exec_inputRecovered_pwr, fun hl ho => ?_, ⟨_, rfl, rfl⟩, fun hi hg => ⟨_, rfl, ?_, fun j hj => ?_, ?_⟩,
    ⟨_, rfl, ?_, fun j hj => ?_, rfl⟩, fun hi hs hr hg => ?_⟩
  · obtain ⟨t, he, hst, hd⟩ := exec_inputLow hl ho
    refine ⟨t, he, hst, eventSeen_of_raise (i := 0) (a := 0) (by decide)
      (rfl : getEv { tickCycle s.dev with pwr := { s.dev.pwr with inputLow := true } } .wb = _) ?_, ?_⟩
    · rw [hd, (updateAlert_quiet [] _).events _ (by simp)]
    · rw [hd, (updateAlert_quiet [] _).pwr, raise_pwr]
  · obtain ⟨t, he, hst, hd⟩ := exec_referenceLost hl ho
    refine ⟨t, he, hst, eventSeen_of_raise (i := 0) (a := 0) (by decide)
      (rfl : getEv { tickCycle s.dev with pwr := { s.dev.pwr with refLost := true } } .wb = _) ?_, ?_, fun k hk => ?_⟩
    · rw [hd, (raiseFaultAll_quiet _).events _ (by simp)]
    · rw [hd, (raiseFaultAll_quiet _).pwr, raise_pwr]
    · rw [hd]
      exact faultRaised_raiseFaultAll (by simpa [runningDoms] using hk)
  · simp [hi, hg, tickCycle, islandStopped]
  · simp [hi, hg, tickCycle, islandStopped, hj]
  · simp [hi, hg, tickCycle]
  · simp [tickCycle, islandStopped]
  · simp [tickCycle, islandStopped, hj]
  · obtain ⟨t, he, rfl⟩ := exec_islandClockAdjust khz hi hs hr hg
    have hmoved : islandKhz { s.dev with cycle := s.dev.cycle + 1, pwr := { s.dev.pwr with khz := mset s.dev.pwr.khz i (islandRange i).1 (movedKhz i khz s.dev) } } i =
        movedKhz i khz s.dev := mget_mset_same ..
    refine ⟨_, he, ?_, ?_, ?_, fun j hj => mget_mset_other _ _ _ _ hj, rfl⟩
    all_goals rw [hmoved, movedKhz]; omega

end Sys2Proof.Machine
end

section
/-! What sending changes (R242-R256): the transport's state and the record of outputs alone; and the bell frames that leave on the paths
of a tree edge (R261-R263). -/
namespace Sys2Proof.Machine

/-! ### Sending -/

/-- From d to d' only the transport's state and the record of outputs may differ. -/
def WireOnly (d d' : Dev) : Prop := ∃ e o, d' = { d with eth := e, out := o }

namespace WireOnly
variable {d d' d'' : Dev}

theorem refl (d : Dev) : WireOnly d d := ⟨_, _, rfl⟩

theorem trans (h : WireOnly d d') (h' : WireOnly d' d'') : WireOnly d d'' := by
  obtain ⟨e, o, rfl⟩ := h
  obtain ⟨e', o', rfl⟩ := h'
  exact ⟨e', o', rfl⟩

theorem foldl {α : Type} {f : Dev → α → Dev} (h : ∀ d a, WireOnly d (f d a)) (as : List α) (d : Dev) : WireOnly d (as.foldl f d) := by
  induction as generalizing d with
  | nil => exact refl d
  | cons a as ih => exact (h d a).trans (ih _)

theorem doms (h : WireOnly d d') : d'.doms = d.doms := by obtain ⟨_, _, rfl⟩ := h; rfl
theorem plan (h : WireOnly d d') : d'.plan = d.plan := by obtain ⟨_, _, rfl⟩ := h; rfl
theorem srv (h : WireOnly d d') : d'.srv = d.srv := by obtain ⟨_, _, rfl⟩ := h; rfl
theorem evs (h : WireOnly d d') : d'.evs = d.evs := by obtain ⟨_, _, rfl⟩ := h; rfl
theorem pwr (h : WireOnly d d') : d'.pwr = d.pwr := by obtain ⟨_, _, rfl⟩ := h; rfl

end WireOnly

theorem portCount_wire (n k : Nat) (d : Dev) : WireOnly d (portCount n k d) := ⟨_, _, rfl⟩

theorem putFrame_wire (t : Tx) (d : Dev) : WireOnly d (putFrame t d) := ⟨_, _, rfl⟩

theorem sendFrame_wire (t : Tx) (d : Dev) : WireOnly d (sendFrame t d) := by
  unfold sendFrame
  split
  · exact .refl d
  · split
    · exact ⟨_, _, rfl⟩
    · exact putFrame_wire t d

theorem modFlow_wire (f : Nat) (g : Flow → Flow) (d : Dev) : WireOnly d (modFlow f g d) := ⟨_, _, rfl⟩

theorem sendNew_wire (f typ cart flags alive step : Nat) (aux : W64) (b : List Byte) (d : Dev) :
    WireOnly d (sendNew f typ cart flags alive step aux b d) := (modFlow_wire ..).trans (sendFrame_wire ..)

theorem sendMsg_wire (f typ cart flags step : Nat) (aux : W64) (b : List Byte) (d : Dev) : WireOnly d (sendMsg f typ cart flags step aux b d) :=
  (modFlow_wire ..).trans (.foldl (fun _ _ => sendNew_wire ..) _ _)

theorem sendParts_wire (f step : Nat) (ps : List (Nat × Nat × Nat × List Byte)) (d : Dev) : WireOnly d (sendParts f step ps d) :=
  (modFlow_wire ..).trans (.foldl (fun _ _ => sendNew_wire ..) _ _)

theorem sendData_wire (f typ cart slot step : Nat) (b : List Byte) (d : Dev) : WireOnly d (sendData f typ cart slot step b d) := sendParts_wire ..

theorem sendRecords_wire (step : Nat) (rs : List (List Byte)) (d : Dev) : WireOnly d (sendRecords step rs d) :=
  .foldl (fun _ _ => .foldl (fun _ _ => sendData_wire ..) _ _) _ _

theorem sendPlain_wire (step : Nat) (b : List Byte) (d : Dev) : WireOnly d (sendPlain step b d) := .foldl (fun _ _ => sendData_wire ..) _ _

theorem sendCarts_wire (f : Nat) (cs : List Cart) (d : Dev) : WireOnly d (sendCarts f cs d) := by
  unfold sendCarts
  split
  · exact .refl d
  · simp only []
    split <;> exact sendParts_wire ..

theorem flushFlows_wire (k : Nat) (d : Dev) : WireOnly d (flushFlows k d) :=
  .foldl (fun _ _ => (modFlow_wire ..).trans (sendCarts_wire ..)) _ _

theorem reportUp_wire (k : Nat) (d : Dev) : WireOnly d (reportUp k d) := by
  unfold reportUp
  split
  · exact .refl d
  · exact (sendRecords_wire ..).trans (.foldl (fun _ _ => .foldl (fun _ _ => sendData_wire ..) _ _) _ _)

/-! ### Bell frames (R261-R263) -/

/-- The bell frame that goes out on one path. -/
def bellTx (typ stepNo : Nat) (payload : List Byte) (e : PortEntry) : Tx :=
  { port := e.port, sub := e.sub, typ := typ, cls := 0, cart := 0, flags := 0, handle := 0, psn := 0, ack := 0, alive := 0, step := 0,
    aux := BitVec.ofNat 64 stepNo, payload := payload }

/-- The paths of a tree edge. -/
def edgePaths (d : Dev) (rank : Nat) : List PortEntry := ((theDoc d).map fun p => bellPaths p rank).getD []

def subIsUp (d : Dev) (e : PortEntry) : Bool := decide ((getSub d e.port e.sub).state = .up)

/-- One path of an edge: its frame goes out while the sub-port is UP. -/
def sendOnPath (typ stepNo : Nat) (payload : List Byte) (d : Dev) (e : PortEntry) : Dev :=
  if (getSub d e.port e.sub).state ≠ .up then d else sendFrame (bellTx typ stepNo payload e) d

theorem sendBell_eq (typ rank stepNo : Nat) (payload : List Byte) (d : Dev) :
    sendBell typ rank stepNo payload d = (edgePaths d rank).foldl (sendOnPath typ stepNo payload) d := rfl

theorem sendOnPath_wire (typ stepNo : Nat) (payload : List Byte) (d : Dev) (e : PortEntry) : WireOnly d (sendOnPath typ stepNo payload d e) := by
  unfold sendOnPath
  split
  · exact .refl d
  · exact sendFrame_wire ..

theorem sendBell_wire (typ rank stepNo : Nat) (payload : List Byte) (d : Dev) : WireOnly d (sendBell typ rank stepNo payload d) :=
  .foldl (fun _ _ => sendOnPath_wire ..) _ _

theorem sendDown_wire (k rank : Nat) (d : Dev) : WireOnly d (sendDown k rank d) := sendBell_wire ..

/-- The express class is never paused (R233): on a sub-port that is UP a bell frame goes out at once. -/
theorem sendOnPath_of_up {typ stepNo : Nat} {payload : List Byte} {d : Dev} {e : PortEntry} (h : subIsUp d e = true) :
    sendOnPath typ stepNo payload d e = putFrame (bellTx typ stepNo payload e) d := by
  have hup : (getSub d e.port e.sub).state = .up := by simpa [subIsUp] using h
  simp [sendOnPath, sendFrame, txPasses, pausedFor, bellTx, hup]

theorem sendOnPath_of_not_up {typ stepNo : Nat} {payload : List Byte} {d : Dev} {e : PortEntry} (h : subIsUp d e = false) :
    sendOnPath typ stepNo payload d e = d := by
  have hup : (getSub d e.port e.sub).state ≠ .up := by simpa [subIsUp] using h
  simp [sendOnPath, hup]

/-- A frame on the wire keeps its header, and carries the CRC of it (R242, R244). -/
theorem wired_head (d : Dev) (t : Tx) : (wired d t).typ = t.typ ∧ (wired d t).aux = t.aux ∧ (wired d t).wire.crc = txCrc (wired d t) ∧
    (wired d t).wire.express = decide (t.cls = 0) := by
  unfold wired
  simp only []
  split <;> exact ⟨rfl, rfl, rfl, rfl⟩

/-- What the statements ask of a bell frame: its type, its step, its CRC and its class. -/
def IsBell (typ stepNo : Nat) (f : Tx) : Prop := f.typ = typ ∧ f.aux = BitVec.ofNat 64 stepNo ∧ f.wire.crc = txCrc f ∧ f.wire.express = true

theorem isBell_wired (typ stepNo : Nat) (payload : List Byte) (d : Dev) (e : PortEntry) : IsBell typ stepNo (wired d (bellTx typ stepNo payload e)) := by
  obtain ⟨htyp, haux, hcrc, hexp⟩ := wired_head d (bellTx typ stepNo payload e)
  exact ⟨htyp, haux, hcrc, hexp⟩

theorem foldl_sendOnPath_frames (typ stepNo : Nat) (payload : List Byte) (es : List PortEntry) (d : Dev) : ∃ fs : List Tx,
    (es.foldl (sendOnPath typ stepNo payload) d).out = d.out ++ fs.map Out.frame ∧ fs.length = (es.filter (subIsUp d)).length ∧
      ∀ f ∈ fs, IsBell typ stepNo f := by
  induction es generalizing d with
  | nil => exact ⟨[], by simp, rfl, by simp⟩
  | cons e es ih =>
    cases hu : subIsUp d e with
    | true =>
      obtain ⟨fs, ho, hn, hf⟩ := ih (putFrame (bellTx typ stepNo payload e) d)
      refine ⟨wired d (bellTx typ stepNo payload e) :: fs, ?_, ?_, ?_⟩
      · rw [List.foldl_cons, sendOnPath_of_up hu, ho]
        simp [putFrame, portCount, emit]
      · rw [List.filter_cons_of_pos hu, List.length_cons, List.length_cons, hn]
        rfl
      · intro f hm
        obtain rfl | hm := List.mem_cons.mp hm
        · exact isBell_wired ..
        · exact hf f hm
    | false =>
      obtain ⟨fs, ho, hn, hf⟩ := ih d
      exact ⟨fs, by rw [List.foldl_cons, sendOnPath_of_not_up hu, ho], by rw [hn, List.filter_cons_of_neg (by simp [hu])], hf⟩

/-- A bell goes out once on each path of its edge that is UP, and on no other. -/
theorem sendBell_frames (typ rank stepNo : Nat) (payload : List Byte) (d : Dev) : ∃ fs : List Tx,
    (sendBell typ rank stepNo payload d).out = d.out ++ fs.map Out.frame ∧ fs.length = ((edgePaths d rank).filter (subIsUp d)).length ∧
      ∀ f ∈ fs, IsBell typ stepNo f := foldl_sendOnPath_frames ..

end Sys2Proof.Machine
end

section
/-! The tree of a barrier domain (R150-R152, R209-R214, R261-R263): what the device's done, a child's done, the resends and a bell with the
FAULT flag change. -/
namespace Sys2Proof.Machine

/-! ### What the plan says of a domain -/

theorem isMachine_of_plan {d d' : Dev} (h : d'.plan = d.plan) (k : Nat) : isMachine d' k = isMachine d k := by
  simp [isMachine, domEntry, planDomains, theDoc, h]

theorem parentOf_of_plan {d d' : Dev} (h : d'.plan = d.plan) (k : Nat) : parentOf d' k = parentOf d k := by
  simp [parentOf, domEntry, planDomains, theDoc, h]

theorem childrenOf_of_plan {d d' : Dev} (h : d'.plan = d.plan) (k : Nat) : childrenOf d' k = childrenOf d k := by
  simp [childrenOf, domEntry, planDomains, theDoc, h]

/-! ### The pace point (R208) -/

theorem exec_pacePoint {k : Nat} {s : State} (hr : (getDom s.dev k).running = true) (hp : atPace s.dev k = true) :
    ∃ t, exec (.pacePoint k) s = .next t ∧ SameStore s t ∧ t.dev = modDom k (fun x => { x with paced := true }) (tickCycle s.dev) := by
  refine ⟨_, rfl, ⟨rfl, rfl, rfl⟩, ?_⟩
  have hp' : atPace (tickCycle s.dev) k = true := hp
  simp [hr, hp']

/-! ### The resends (R209, R263) -/

theorem sendUp_of_parent {d : Dev} {k p : Nat} (h : parentOf d k = some p) : sendUp k d =
    sendBell 9 p (getDom d k).step (bellPayload k 0 (ownRank d) (treeEpoch d k) 0 (treeFlags d k))
      (modDom k (fun x => { x with sentUp := true, sentFlags := treeFlags d k }) d) := by
  simp [sendUp, h]

theorem sendReady_of_parent {d : Dev} {k p : Nat} (h : parentOf d k = some p) : sendReady k d =
    sendBell 9 p (readyStep d k) (bellPayload k 0 (ownRank d) (readyEpoch d k) 1 [])
      (modDom k (fun x => { x with readySent := some (readyStep d k) }) d) := by
  simp [sendReady, h]

theorem getDom_sendUp {d : Dev} {k p : Nat} (h : parentOf d k = some p) :
    getDom (sendUp k d) k = { getDom d k with sentUp := true, sentFlags := treeFlags d k } := by
  rw [sendUp_of_parent h, getDom_congr (sendBell_wire ..).doms]
  simp [modDom]

theorem exec_bellResend {k : Nat} {s : State} (hr : (getDom s.dev k).running = true) (hs : (getDom s.dev k).sentUp = true) :
    ∃ t, exec (.bellResend k) s = .next t ∧ SameStore s t ∧ t.dev = sendUp k (tickCycle s.dev) := by
  refine ⟨_, rfl, ⟨rfl, rfl, rfl⟩, ?_⟩
  simp [hr, hs]

theorem exec_readinessResend {k : Nat} {s : State} (hr : isReady s.dev k = true) (hs : (getDom s.dev k).readySent ≠ none) :
    ∃ t, exec (.readinessResend k) s = .next t ∧ SameStore s t ∧ t.dev = sendReady k (tickCycle s.dev) := by
  refine ⟨_, rfl, ⟨rfl, rfl, rfl⟩, ?_⟩
  have hr' : isReady (tickCycle s.dev) k = true := hr
  simp [hr', Option.isSome_iff_ne_none.mpr hs]

/-! ### The device's done (R150-R152, R209) -/

/-- y is at x's place: the same step, at the same level, its done risen or not. -/
structure SamePlace (x y : Dom) : Prop where
  step : y.step = x.step
  level : y.level = x.level
  done : y.done = x.done

/-- y runs on as x does, with the same children's dones: what a machine flag leaves of its domain. -/
structure SameRun (x y : Dom) : Prop extends SamePlace x y where
  running : y.running = x.running
  kids : y.kids = x.kids

theorem SameRun.refl (x : Dom) : SameRun x x := ⟨⟨rfl, rfl, rfl⟩, rfl, rfl⟩

theorem SameRun.trans {x y z : Dom} (h : SameRun x y) (h' : SameRun y z) : SameRun x z :=
  ⟨⟨h'.step.trans h.step, h'.level.trans h.level, h'.done.trans h.done⟩, h'.running.trans h.running, h'.kids.trans h.kids⟩

theorem sameRun_of_doms {d d' : Dev} (h : d'.doms = d.doms) (j : Nat) : SameRun (getDom d j) (getDom d' j) := by
  rw [getDom_congr h]
  exact .refl _

theorem raiseFlag_sameRun (k f : Nat) (d : Dev) (j : Nat) : SameRun (getDom d j) (getDom (raiseFlag k f d) j) := by
  obtain ⟨fl, late, snap, hd⟩ := raiseFlag_doms k f d
  rw [getDom_congr hd]
  by_cases hj : j = k
  · subst hj
    rw [getDom_setDom_same]
    exact ⟨⟨rfl, rfl, rfl⟩, rfl, rfl⟩
  · rw [getDom_setDom_ne _ _ _ hj]
    exact .refl _

theorem raiseFlag_plan (k f : Nat) (d : Dev) : (raiseFlag k f d).plan = d.plan := by
  unfold raiseFlag
  simp only []
  split
  · rfl
  · split
    · exact raise_plan ..
    · rfl

/-- The need for time is told by a machine flag of the domain (R216). -/
theorem raiseStretch_keeps (k : Nat) (d : Dev) :
    (raiseStretch k d).plan = d.plan ∧ ∀ j, SameRun (getDom d j) (getDom (raiseStretch k d) j) := by
  unfold raiseStretch
  simp only []
  split
  · split
    · next f _ => exact ⟨(raise_plan ..).trans (raiseFlag_plan k f d), fun j => (raiseFlag_sameRun k f d j).trans (sameRun_of_doms (raise_doms ..) j)⟩
    · exact ⟨raise_plan .., sameRun_of_doms (raise_doms ..)⟩
  · split
    · next f _ => exact ⟨raiseFlag_plan k f d, raiseFlag_sameRun k f d⟩
    · exact ⟨rfl, fun j => .refl _⟩

/-- The domain's own done has risen (R151); the plan is as before. -/
theorem riseDone_keeps (k : Nat) (d : Dev) : (riseDone k d).plan = d.plan ∧ (getDom (riseDone k d) k).done = true ∧
    (getDom (riseDone k d) k).running = (getDom d k).running ∧ (getDom (riseDone k d) k).kids = (getDom d k).kids ∧
    (getDom (riseDone k d) k).step = (getDom d k).step := by
  have hreport : WireOnly d (if instDom d = k then reportUp k d else d) := by
    split
    · exact reportUp_wire k d
    · exact .refl d
  unfold riseDone
  simp only []
  generalize (if instDom d = k then reportUp k d else d) = d1 at hreport ⊢
  have hstretch : (if workDone d1 k then raiseStretch k d1 else d1).plan = d.plan ∧
      SameRun (getDom d k) (getDom (if workDone d1 k then raiseStretch k d1 else d1) k) := by
    split
    · obtain ⟨hplan, hrun⟩ := raiseStretch_keeps k d1
      exact ⟨hplan.trans hreport.plan, (sameRun_of_doms hreport.doms k).trans (hrun k)⟩
    · exact ⟨hreport.plan, sameRun_of_doms hreport.doms k⟩
  obtain ⟨hplan, hrun⟩ := hstretch
  simp [modDom, hplan, hrun.running, hrun.kids, hrun.step]

/-- Every child of the device has handed its done up. -/
def KidsIn (d : Dev) (k : Nat) : Prop := ∀ c ∈ childrenOf d k, ∃ e ∈ (getDom d k).kids, e.1 = c

theorem tryUp_of_not_machine {d : Dev} {k : Nat} (m : List Host.Cell) (h : isMachine d k = false) : tryUp k d m = (d, m) := by
  simp [tryUp, h]

theorem tryUp_of_not_done {d : Dev} {k : Nat} (m : List Host.Cell) (h : (getDom d k).done = false) : tryUp k d m = (d, m) := by
  simp [tryUp, h]

/-- With its own done and its children's, a device that is not the root hands its done up, once (R209). -/
theorem tryUp_of_parent {d : Dev} {k p : Nat} (m : List Host.Cell) (hr : (getDom d k).running = true) (hd : (getDom d k).done = true)
    (hm : isMachine d k = true) (hp : parentOf d k = some p) (hk : KidsIn d k) :
    ∃ d', tryUp k d m = (d', m) ∧ (getDom d' k).sentUp = true ∧ (getDom d' k).done = true ∧ (getDom d' k).step = (getDom d k).step := by
  have hall : (childrenOf d k).all (fun c => (getDom d k).kids.any fun e => decide (e.1 = c)) = true := by simpa [KidsIn] using hk
  unfold tryUp
  simp only [hr, hd, hm, hp, hall, Bool.not_true, Bool.or_self, Bool.false_eq_true, if_false]
  split
  · next hsent =>
    rw [Bool.and_eq_true] at hsent
    exact ⟨d, rfl, hsent.1, hd, rfl⟩
  · exact ⟨_, rfl, by rw [getDom_sendUp hp], by rw [getDom_sendUp hp]; exact hd, by rw [getDom_sendUp hp]⟩

/-- A domain that runs its step, whose work and hold have ended and whose done has not risen. -/
structure DoneDue (d : Dev) (k : Nat) : Prop where
  running : (getDom d k).running = true
  notDone : (getDom d k).done = false
  paced : (getDom d k).paced = true
  work : workDone d k = true

theorem deviceDone_of_due {d : Dev} {k : Nat} (h : DoneDue d k) (wireError : Bool) (m : List Host.Cell) :
    deviceDone k wireError d m = if wireError then (bellWireError k d, m) else tryUp k (riseDone k (flushFlows k d)) m := by
  simp [deviceDone, h.running, h.notDone, h.paced, h.work]

/-- The routers of the domain's stalls have their clocks, and the tree does its work (R14). -/
theorem exec_deviceDone {k : Nat} {s : State} (hc : (membersOf s.dev k).all (columnOn s.dev) = true) (wireError : Bool) :
    ∃ t, exec (.deviceDone k wireError) s = .next t ∧ (t.dev, t.mem) = deviceDone k wireError (tickCycle s.dev) s.mem := by
  have hc' : (membersOf (tickCycle s.dev) k).all (columnOn (tickCycle s.dev)) = true := hc
  refine ⟨_, rfl, ?_⟩
  show treeClocked k (deviceDone k wireError) (tickCycle s.dev) s.mem = _
  simp [treeClocked, hc']

theorem doneDue_tickCycle {d : Dev} {k : Nat} (h : DoneDue d k) : DoneDue (tickCycle d) k := ⟨h.running, h.notDone, h.paced, h.work⟩

/-- In a domain of this device alone the done stays here (R150). -/
theorem deviceDone_local {k : Nat} {s : State} (h : DoneDue s.dev k) (hc : (membersOf s.dev k).all (columnOn s.dev) = true)
    (hm : isMachine s.dev k = false) :
    ∃ t, exec (.deviceDone k false) s = .next t ∧ t.mem = s.mem ∧ (getDom t.dev k).done = true ∧ (getDom t.dev k).step = (getDom s.dev k).step := by
  obtain ⟨t, he, ht⟩ := exec_deviceDone hc false
  have hflush := flushFlows_wire k (tickCycle s.dev)
  obtain ⟨hplan, hdone, -, -, hstep⟩ := riseDone_keeps k (flushFlows k (tickCycle s.dev))
  have hm' : isMachine (riseDone k (flushFlows k (tickCycle s.dev))) k = false := (isMachine_of_plan (hplan.trans hflush.plan) k).trans hm
  rw [deviceDone_of_due (doneDue_tickCycle h), if_neg (by simp), tryUp_of_not_machine _ hm', Prod.mk.injEq] at ht
  obtain ⟨hdev, hmem⟩ := ht
  exact ⟨t, he, hmem, hdev ▸ hdone, by rw [hdev, hstep, getDom_congr hflush.doms]; rfl⟩

/-- In a machine-wide domain it goes up the tree (R209). -/
theorem deviceDone_up {k p : Nat} {s : State} (h : DoneDue s.dev k) (hc : (membersOf s.dev k).all (columnOn s.dev) = true)
    (hm : isMachine s.dev k = true) (hp : parentOf s.dev k = some p) (hk : KidsIn s.dev k) :
    ∃ t, exec (.deviceDone k false) s = .next t ∧ t.mem = s.mem ∧ (getDom t.dev k).done = true ∧ (getDom t.dev k).sentUp = true ∧
      (getDom t.dev k).step = (getDom s.dev k).step := by
  obtain ⟨t, he, ht⟩ := exec_deviceDone hc false
  have hflush := flushFlows_wire k (tickCycle s.dev)
  have hdom : getDom (flushFlows k (tickCycle s.dev)) k = getDom s.dev k := getDom_congr hflush.doms k
  obtain ⟨hplan', hdone, hrun, hkids, hstep⟩ := riseDone_keeps k (flushFlows k (tickCycle s.dev))
  have hplan := hplan'.trans hflush.plan
  have hin : KidsIn (riseDone k (flushFlows k (tickCycle s.dev))) k := by
    unfold KidsIn
    rw [childrenOf_of_plan hplan, hkids, hdom]
    exact hk
  obtain ⟨d', htry, hsent, hdone', hstep'⟩ := tryUp_of_parent s.mem (by rw [hrun, hdom, h.running]) hdone ((isMachine_of_plan hplan k).trans hm)
    ((parentOf_of_plan hplan k).trans hp) hin
  rw [deviceDone_of_due (doneDue_tickCycle h), if_neg (by simp), htry, Prod.mk.injEq] at ht
  obtain ⟨rfl, hmem⟩ := ht
  exact ⟨t, he, hmem, hdone', hsent, by rw [hstep', hstep, hdom]⟩

/-! ### A parity error on a bell wire (R152) -/

theorem raiseFlag_of_not_done {d : Dev} {k : Nat} (f : Nat) (h : (getDom d k).done = false) :
    raiseFlag k f d = setDom d k { getDom d k with flags := linsert (getDom d k).flags f } := by
  simp [raiseFlag, h]

theorem faultDom_of_not_done {d : Dev} {k : Nat} (h : (getDom d k).done = false) :
    (faultDom k d).evs = d.evs ∧ (getDom (faultDom k d) k).faultRaised = true ∧ (getDom (faultDom k d) k).done = false := by
  unfold faultDom
  rw [raiseFlag_of_not_done _ (by simpa [modDom] using h)]
  simp [modDom, h]

/-- A domain that runs raises its own FAULT flag, in the step that it is in (R151, R214). -/
theorem raiseFault_of_not_done {d : Dev} {k : Nat} (hr : (getDom d k).running = true) (hd : (getDom d k).done = false) :
    (raiseFault k d).evs = d.evs ∧ (getDom (raiseFault k d) k).faultRaised = true ∧ (getDom (raiseFault k d) k).done = false := by
  have hk : k ∈ runningDoms d := runsAny_of_getDom hr
  have hdone : (getDom (modDom k (fun x => { x with faultRaised := true }) (raiseIbi 0x02 (msix 0 d))) k).done = false := by
    rw [modDom, getDom_setDom_same]
    simpa [getDom_congr (raiseIbi_doms ..)] using hd
  obtain ⟨hevs, hfault, hdone'⟩ := faultDom_of_not_done hdone
  rw [raiseFault_of_runsAny k ((runsAny_iff d).mpr (List.ne_nil_of_mem hk)), if_pos (by simpa using hk)]
  exact ⟨hevs.trans (by simp [modDom]), hfault, hdone'⟩

theorem faultRec_quiet (r : FaultRec) (d : Dev) : Quiet [.chFault] d (faultRec r d) := by
  unfold faultRec
  simp only []
  split
  · refine Quiet.trans ?_ (.of_evs (msix_pwr ..) (msix_evs ..))
    split
    · exact (raise_quiet ..).after rfl rfl
    · exact .of_evs rfl rfl
  · split
    · exact (raise_quiet ..).after rfl rfl
    · exact .of_evs rfl rfl

theorem faultRec_doms (r : FaultRec) (d : Dev) : (faultRec r d).doms = d.doms := by
  unfold faultRec
  simp only []
  split <;> split <;> simp

/-- With a parity error the done does not pass: BL_EVENT.wire_error, and FAULT of the domain (R152). -/
theorem deviceDone_wireError {k : Nat} {s : State} (h : DoneDue s.dev k) (hc : (membersOf s.dev k).all (columnOn s.dev) = true) :
    ∃ t, exec (.deviceDone k true) s = .next t ∧ t.mem = s.mem ∧ EventSeen .bl 1 s t ∧ (getDom t.dev k).faultRaised = true ∧
      (getDom t.dev k).done = false := by
  obtain ⟨t, he, ht⟩ := exec_deviceDone hc true
  rw [deviceDone_of_due (doneDue_tickCycle h), if_pos rfl, Prod.mk.injEq] at ht
  obtain ⟨hdev, hmem⟩ := ht
  unfold bellWireError at hdev
  generalize ({ blankRec with kind := 19, stage := 6, unit := 12, step := (getDom (tickCycle s.dev) k).step } : FaultRec) = r at hdev
  have hdom : getDom (faultRec r (raise .bl 1 k 0 (tickCycle s.dev))) k = getDom s.dev k := by
    rw [getDom_congr (faultRec_doms ..), getDom_raise, getDom_tickCycle]
  obtain ⟨hevs, hfault, hdone⟩ := raiseFault_of_not_done (hdom ▸ h.running) (hdom ▸ h.notDone)
  have hrec := (faultRec_quiet r (raise .bl 1 k 0 (tickCycle s.dev))).events .bl (by simp)
  refine ⟨t, he, hmem, eventSeen_of_raise (i := k) (a := 0) (by decide) (getEv_tickCycle ..) ?_, hdev ▸ hfault, hdev ▸ hdone⟩
  rw [hdev, ← hrec, getEv, hevs, getEv]

/-! ### A child's done (R209, R262) -/

/-- A frame that its sub-port takes is counted there, and goes on (R234, R239). -/
theorem arrive_of_arrives {typ : Nat} {r : Rx} {s : State} (h : Arrives typ r s) :
    arrive typ r (tickCycle s.dev) = (portCount r.port 1 (tickCycle s.dev), true) := by
  obtain ⟨hring, hup, hcrc, htyp, hcls, hrole, hce⟩ := h
  have hring' : ringOn (tickCycle s.dev) r.port = true := hring
  have hup' : (getSub (tickCycle s.dev) r.port r.sub).state = .up := hup
  have hrole' : ¬ (subRole (portCount r.port 1 (tickCycle s.dev)) r.port r.sub = 2 ∧ ¬ role2Ok (portCount r.port 1 (tickCycle s.dev)) r = true) :=
    fun hno => hno.2 (hrole hno.1)
  unfold arrive
  simp only [hring', hup', if_neg hrole', hcrc, htyp, hcls, hce]
  simp

theorem kidDone_of_new {d : Dev} {k rank : Nat} (epoch : Nat) (flags : List Nat) (h : ∀ e ∈ (getDom d k).kids, e.1 ≠ rank) :
    kidDone k rank epoch flags d = (setDom d k { getDom d k with kids := (getDom d k).kids ++ [(rank, epoch, flags)] }, true) := by
  have hnone : (getDom d k).kids.find? (fun e => decide (e.1 = rank)) = none := by simpa using h
  simp [kidDone, hnone]

/-- The first done of a child is kept; the device's own has not risen, so nothing goes up yet. -/
theorem bellUp_keeps {k : Nat} {r : Rx} {s : State} (ha : Arrives 9 r s) (hlen : r.payload.length = 96) (hk : leAt r.payload 0 1 = k)
    (hkind : leAt r.payload 8 1 = 0) (hm : isMachine s.dev k = true) (hchild : (childrenOf s.dev k).contains (beAt r.payload 2 2) = true)
    (hr : (getDom s.dev k).running = true) (hd : (getDom s.dev k).done = false) (hstep : r.aux.toNat = (getDom s.dev k).step)
    (hnew : ∀ e ∈ (getDom s.dev k).kids, e.1 ≠ beAt r.payload 2 2) :
    ∃ t, exec (.bellUp r) s = .next t ∧ t.mem = s.mem ∧
      getDom t.dev k = { getDom s.dev k with kids := (getDom s.dev k).kids ++ [(beAt r.payload 2 2, beAt r.payload 4 4, flagsOf r.payload)] } := by
  have hm' : isMachine (portCount r.port 1 (tickCycle s.dev)) k = true := hm
  have hchild' : (childrenOf (portCount r.port 1 (tickCycle s.dev)) k).contains (beAt r.payload 2 2) = true := hchild
  have hdom : getDom (portCount r.port 1 (tickCycle s.dev)) k = getDom s.dev k := rfl
  have hup : bellUp r (tickCycle s.dev) s.mem = (setDom (portCount r.port 1 (tickCycle s.dev)) k
      { getDom s.dev k with kids := (getDom s.dev k).kids ++ [(beAt r.payload 2 2, beAt r.payload 4 4, flagsOf r.payload)] }, s.mem) := by
    unfold bellUp
    simp only [arrive_of_arrives ha, hlen, hk, hkind, hm', hchild', hdom, hr, hstep, kidDone_of_new (d := portCount r.port 1 (tickCycle s.dev)) _ _ hnew]
    simp
    exact tryUp_of_not_done _ (by simp [hd])
  refine ⟨_, rfl, ?_, ?_⟩
  · rw [hup]
  · rw [hup, getDom_setDom_same]

/-! ### A bell with the FAULT flag (R214) -/

theorem applyQueued_state (a : Nat) (d : Dev) : (applyQueued a d).state = d.state := by
  unfold applyQueued
  simp only []
  split
  · rfl
  · split <;> simp

theorem applyAllQueued_state (d : Dev) : (applyAllQueued d).state = d.state :=
  List.foldlRecOn (motive := fun d' : Dev => d'.state = d.state) _ _ rfl fun _ h a _ => (applyQueued_state a _).trans h

theorem applyTrimMode_state (d : Dev) : (applyTrimMode d).state = d.state := by
  unfold applyTrimMode
  split <;> rfl

theorem enter_state (n : DevState) (d : Dev) : (enter n d).state = n := by
  unfold enter
  split
  · assumption
  · simp only []
    split <;> simp [applyTrimMode_state, applyAllQueued_state]

theorem enterFaulted_state (d : Dev) : (enterFaulted d).state = .faulted := enter_state _ _

/-- An event of a register leaves the flag of another that has happened, and its count. -/
theorem raise_keeps_bit (e : EvId) {b b' : Nat} (i a : Nat) (d : Dev) (hb : b ≠ b') :
    ((getEv d e).flags.getLsbD b = true → (getEv (raise e b' i a d) e).flags.getLsbD b = true) ∧
      mget (getEv (raise e b' i a d) e).cnt b 0 = mget (getEv d e).cnt b 0 := by
  rw [getEv_raise_same]
  exact ⟨evHit_keeps _ _ _, by simp [evHit_cnt, mmod, hb]⟩

theorem discardSets_evs (k : Nat) (d : Dev) : (discardSets k d).evs = d.evs := by
  unfold discardSets
  split <;> rfl

/-- A bell with the FAULT flag, up to its event: nothing commits (R214). -/
def faultBellRaised (k level : Nat) (d : Dev) : Dev :=
  if level = 0 then raise .bl 2 k 0 (discardSets k d) else raise .bl 3 k 0 (raise .bl 2 k 0 (discardSets k d))

theorem faultBell_quiet (k b level epoch : Nat) (flags : List Nat) (d : Dev) :
    Quiet [.cv, .chHost] (faultBellRaised k level d) (faultBell k b level epoch flags d) := by
  unfold faultBell
  refine Quiet.trans ?_ (enterFaulted_quiet _)
  exact Quiet.after (.foldl (fun d c => .of_evs (sendDown_wire k c d).pwr (sendDown_wire k c d).evs) _ _) rfl rfl

/-- BL_EVENT.fault_bell, and FAULTED (R214). -/
theorem faultBell_seen {s t : State} {k b level epoch : Nat} {flags : List Nat} {d : Dev} (hs : d.evs = s.dev.evs)
    (ht : t.dev = faultBell k b level epoch flags d) : t.dev.state = .faulted ∧ EventSeen .bl 2 s t := by
  have hsets : getEv (discardSets k d) .bl = getEv s.dev .bl := by simp [getEv, discardSets_evs, hs]
  obtain ⟨hflag, hcnt⟩ := raise_seen .bl (b := 2) k 0 (discardSets k d) (by decide)
  obtain ⟨hflag', hcnt'⟩ := raise_keeps_bit .bl (b := 2) (b' := 3) k 0 (raise .bl 2 k 0 (discardSets k d)) (by decide)
  refine ⟨by rw [ht]; exact enterFaulted_state _, ?_⟩
  unfold EventSeen
  rw [ht, (faultBell_quiet ..).events _ (by simp), faultBellRaised, ← hsets]
  split
  · exact ⟨hflag, hcnt⟩
  · exact ⟨hflag' hflag, hcnt'.trans hcnt⟩

end Sys2Proof.Machine
end

section
/-! A bell starts its domain's next step (R150, R212, R218): what a bell changes after the new step stands leaves the domains where they
are. -/
namespace Sys2Proof.Machine

/-! ### Changes at a bell that leave the domains -/

theorem foldl_doms {α : Type} {f : Dev → α → Dev} (h : ∀ d a, (f d a).doms = d.doms) (as : List α) (d : Dev) : (as.foldl f d).doms = d.doms :=
  List.foldlRecOn (motive := fun d' : Dev => d'.doms = d.doms) _ _ rfl fun _ hd a _ => (h _ a).trans hd

@[simp] theorem modSrv_doms (f : Serving → Serving) (d : Dev) : (modSrv f d).doms = d.doms := rfl
@[simp] theorem modDram_doms (f : Dram → Dram) (d : Dev) : (modDram f d).doms = d.doms := rfl
@[simp] theorem modTicket_doms (t : Nat) (f : Ticket → Ticket) (d : Dev) : (modTicket t f d).doms = d.doms := rfl
@[simp] theorem modFrame_doms (pg : Nat) (f : Frame → Frame) (d : Dev) : (modFrame pg f d).doms = d.doms := rfl
@[simp] theorem setMap_doms (key : Nat) (e : KvEntry) (d : Dev) : (setMap key e d).doms = d.doms := rfl
@[simp] theorem tgCount_doms (k n : Nat) (d : Dev) : (tgCount k n d).doms = d.doms := rfl
@[simp] theorem useCredit_doms (src : Nat) (t : Nat × Nat) (d : Dev) : (useCredit src t d).doms = d.doms := rfl
@[simp] theorem unpinEpoch_doms (e : Nat) (d : Dev) : (unpinEpoch e d).doms = d.doms := rfl
@[simp] theorem ansEnd_doms (flow req h st reason n c : Nat) (d : Dev) : (ansEnd flow req h st reason n c d).doms = d.doms := rfl

theorem judgePool_doms (d : Dev) : (judgePool d).doms = d.doms := by
  unfold judgePool
  simp only []
  split
  · exact raise_doms ..
  · rfl

theorem releaseReserve_doms (t : Nat) (d : Dev) : (releaseReserve t d).doms = d.doms := judgePool_doms _

theorem endAborts_doms (t : Nat) (d : Dev) : (endAborts t d).doms = d.doms := by
  unfold endAborts
  exact foldl_doms (fun d e => by simp) _ _

theorem dropMaps_doms (t : Nat) (ev : Bool) (sel : Nat → Bool) (d : Dev) : (dropMaps t ev sel d).doms = d.doms := by
  unfold dropMaps
  simp only [modDram_doms, modTicket_doms]
  exact foldl_doms (fun d e => by simp) _ _

theorem freeTicketPages_doms (t : Nat) (d : Dev) : (freeTicketPages t d).doms = d.doms := by
  unfold freeTicketPages
  simp only [releaseReserve_doms, modDram_doms, modTicket_doms]
  rw [foldl_doms fun d p => modFrame_doms ..]
  simp [dropMaps_doms, endAborts_doms]

theorem countReject_doms (reason t : Nat) (d : Dev) : (countReject reason t d).doms = d.doms := by
  unfold countReject
  simp only []
  split <;> simp [tgCount]

theorem statusEvent_doms (st t : Nat) (d : Dev) : (statusEvent st t d).doms = d.doms := by
  unfold statusEvent
  split <;> simp

theorem rejectQuery_doms (flow req reason : Nat) (d : Dev) : (rejectQuery flow req reason d).doms = d.doms := countReject_doms ..

theorem endTicket_doms (t st reason : Nat) (d : Dev) : (endTicket t st reason d).doms = d.doms := by
  unfold endTicket
  simp only []
  split
  · rfl
  · rw [ansEnd_doms]
    split
    · rw [countReject_doms, tgCount_doms, modTicket_doms, modSrv_doms]
      split <;> simp [freeTicketPages_doms]
    · rw [statusEvent_doms, tgCount_doms, modTicket_doms, modSrv_doms]
      split <;> simp [freeTicketPages_doms]

theorem applyQueued_doms (a : Nat) (d : Dev) : (applyQueued a d).doms = d.doms := by
  unfold applyQueued
  simp only []
  split
  · rfl
  · split <;> simp

theorem applyAllQueued_doms (d : Dev) : (applyAllQueued d).doms = d.doms := foldl_doms (fun d a => applyQueued_doms a d) _ _

theorem applyTrimMode_doms (d : Dev) : (applyTrimMode d).doms = d.doms := by
  unfold applyTrimMode
  split <;> rfl

theorem enter_doms (n : DevState) (d : Dev) : (enter n d).doms = d.doms := by
  unfold enter
  split
  · rfl
  · simp only []
    split <;> simp [applyTrimMode_doms, applyAllQueued_doms]

theorem startDrain_doms (d : Dev) : (startDrain d).doms = d.doms := by
  unfold startDrain
  simp only []
  rw [foldl_doms fun d q => rejectQuery_doms .., modSrv_doms, foldl_doms fun d e => endTicket_doms .., foldl_doms fun d t => modTicket_doms ..,
    modSrv_doms, enter_doms, modSrv_doms]

theorem retireArr_doms (a : Nat) (d : Dev) : (retireArr a d).doms = d.doms := by
  unfold retireArr
  simp only []
  split
  · exact raise_doms ..
  · rfl

theorem redirectsAtBell_doms (d : Dev) : (redirectsAtBell d).doms = d.doms := by
  unfold redirectsAtBell
  exact foldl_doms (fun d c => by rw [retireArr_doms, faultRec_doms]; rfl) _ _

theorem fetchesAtBell_doms (d : Dev) : (fetchesAtBell d).doms = d.doms := by
  unfold fetchesAtBell
  exact foldl_doms (fun d f => by rfl) _ _

theorem detourAtBell_doms (k : Nat) (d : Dev) : (detourAtBell k d).doms = d.doms := by
  unfold detourAtBell
  split
  · rfl
  · simp only []
    split <;> rfl

theorem patsAtBell_doms (d : Dev) : (patsAtBell d).doms = d.doms := by
  unfold patsAtBell
  split <;> rfl

theorem launchCart_doms (d : Dev) (c : Cart × List (Nat × Nat)) : (launchCart d c).doms = d.doms := by
  unfold launchCart
  exact foldl_doms (fun d t => useCredit_doms ..) _ _

theorem portSend_doms (c : Cart) (d : Dev) : (portSend c d).doms = d.doms := by
  unfold portSend
  simp only []
  split
  · exact foldl_doms launchCart_doms _ _
  · rfl

theorem releaseHeld_doms (k s : Nat) (d : Dev) : (releaseHeld k s d).doms = d.doms := by
  unfold releaseHeld
  exact foldl_doms (fun d h => portSend_doms ..) _ _

theorem fwAtBell_doms (k s : Nat) (d : Dev) : (fwAtBell k s d).doms = d.doms := by
  unfold fwAtBell
  split
  · rfl
  · split
    · simp [switchFw]
    · rfl

theorem releaseAnswers_doms (d : Dev) : (releaseAnswers d).doms = d.doms := by
  unfold releaseAnswers
  refine foldl_doms (fun d a => ?_) _ _
  simp only []
  split
  · rfl
  · split
    · exact (sendMsg_wire ..).doms
    · rfl

theorem frontEnd_doms (d : Dev) : (frontEnd d).doms = d.doms := releaseAnswers_doms _

/-! ### The domain in its new step -/

/-- Every domain is where it was. -/
def PlacesKept (d d' : Dev) : Prop := ∀ j, SamePlace (getDom d j) (getDom d' j)

theorem PlacesKept.trans {d d' d'' : Dev} (h : PlacesKept d d') (h' : PlacesKept d' d'') : PlacesKept d d'' :=
  fun j => ⟨(h' j).step.trans (h j).step, (h' j).level.trans (h j).level, (h' j).done.trans (h j).done⟩

theorem placesKept_of_doms {d d' : Dev} (h : d'.doms = d.doms) : PlacesKept d d' := fun j => (sameRun_of_doms h j).toSamePlace

theorem holdFlag_places (k : Nat) (d : Dev) : PlacesKept d (holdFlag k d) := by
  unfold holdFlag
  split
  · exact fun j => (raiseFlag_sameRun ..).toSamePlace
  · exact placesKept_of_doms rfl

theorem mfind_mapVal {α β : Type} (f : α → β) (m : SMap α) (k : Nat) : mfind (m.map fun e => (e.1, f e.2)) k = (mfind m k).map f := by
  induction m with
  | nil => rfl
  | cons e r ih =>
    obtain ⟨a, v⟩ := e
    simp only [List.map_cons, mfind]
    split
    · rfl
    · exact ih

/-- SERVE_STOP ends the steps in progress where they are (R349). -/
theorem startStop_places (d : Dev) : PlacesKept d (startStop d) := by
  intro j
  unfold startStop
  simp only []
  rw [getDom_congr (enter_doms ..)]
  simp only [getDom, mget, modSrv, mfind_mapVal fun x : Dom => { x with running := false, readySent := none, readies := [] }]
  cases mfind d.doms j <;> exact ⟨rfl, rfl, rfl⟩

theorem stopsAtBell_places (d : Dev) : PlacesKept d (stopsAtBell d) := by
  have hdrain : PlacesKept d (if d.srv.drainNext && decide (d.state = .serving) then startDrain d else d) := by
    split
    · exact placesKept_of_doms (startDrain_doms d)
    · exact placesKept_of_doms rfl
  unfold stopsAtBell
  simp only []
  generalize (if d.srv.drainNext && decide (d.state = .serving) then startDrain d else d) = d1 at hdrain ⊢
  split
  · exact hdrain.trans (startStop_places d1)
  · exact hdrain

/-- The part of a bell's changes that concerns no domain: patterns, detours, stalls, flows, the journal and sequence numbers. -/
def bellRecords (k s : Nat) (d : Dev) : Dev :=
  let d := patsAtBell (detourAtBell k (fetchesAtBell (redirectsAtBell d)))
  seqsAtBell k (flowsAtBell k s (journalAtBell k s ((membersOf d k).foldl (fun d i => modStall i stallStep0 d) d)))

@[simp] theorem modStall_doms (i : Nat) (f : Stall → Stall) (d : Dev) : (modStall i f d).doms = d.doms := rfl
@[simp] theorem seqsAtBell_doms (k : Nat) (d : Dev) : (seqsAtBell k d).doms = d.doms := rfl
@[simp] theorem flowsAtBell_doms (k s : Nat) (d : Dev) : (flowsAtBell k s d).doms = d.doms := rfl
@[simp] theorem journalAtBell_doms (k s : Nat) (d : Dev) : (journalAtBell k s d).doms = d.doms := rfl

theorem bellRecords_doms (k s : Nat) (d : Dev) : (bellRecords k s d).doms = d.doms := by
  unfold bellRecords
  rw [seqsAtBell_doms, flowsAtBell_doms, journalAtBell_doms, foldl_doms fun d i => modStall_doms .., patsAtBell_doms, detourAtBell_doms,
    fetchesAtBell_doms, redirectsAtBell_doms]

theorem bellChanges_eq (k s : Nat) (d : Dev) : bellChanges k s d = stopsAtBell (fwAtBell k s (releaseHeld k s
    (if blocked (bellRecords k s d) k then holdFlag k (bellRecords k s d) else bellRecords k s d))) := rfl

theorem bellChanges_places (k s : Nat) (d : Dev) : PlacesKept d (bellChanges k s d) := by
  have hrec : PlacesKept d (bellRecords k s d) := placesKept_of_doms (bellRecords_doms k s d)
  rw [bellChanges_eq]
  refine PlacesKept.trans ?_ ((placesKept_of_doms ((fwAtBell_doms ..).trans (releaseHeld_doms ..))).trans (stopsAtBell_places _))
  split
  · exact hrec.trans (holdFlag_places k _)
  · exact hrec

/-- What a bell does once the domain stands in its new step: the other changes, and the bell goes on to the children. -/
def bellTail (k s : Nat) (d : Dev) : Dev :=
  let d := bellChanges k s d
  let d := if isFront d && decide (frontDom d = k) then frontEnd d else d
  (childrenOf d k).foldl (fun d c => sendDown k c d) d

theorem bellTail_places (k s : Nat) (d : Dev) : PlacesKept d (bellTail k s d) := by
  unfold bellTail
  refine (bellChanges_places k s d).trans (PlacesKept.trans ?_ (placesKept_of_doms (foldl_doms (fun d c => (sendDown_wire k c d).doms) _ _)))
  split
  · exact placesKept_of_doms (frontEnd_doms _)
  · exact placesKept_of_doms rfl

theorem commitBell_eq (k s level epoch : Nat) (flags : List Nat) (d : Dev) (m : List Host.Cell) :
    ∃ first d1, (commitBell k s level epoch flags d m).1 = bellTail k s (newStep k s level epoch flags first d1) := by
  unfold commitBell bellTail
  simp only []
  exact ⟨_, _, rfl⟩

/-- Bell s: the domain is in step s, at the level of the bell, its done not risen (R150, R218). -/
theorem commitBell_dom (k s level epoch : Nat) (flags : List Nat) (d : Dev) (m : List Host.Cell) :
    (getDom (commitBell k s level epoch flags d m).1 k).step = s ∧ (getDom (commitBell k s level epoch flags d m).1 k).level = level ∧
      (getDom (commitBell k s level epoch flags d m).1 k).done = false := by
  obtain ⟨first, d1, heq⟩ := commitBell_eq k s level epoch flags d m
  have hkept := bellTail_places k s (newStep k s level epoch flags first d1) k
  rw [newStep, getDom_setDom_same] at hkept
  rw [heq]
  exact ⟨hkept.step, hkept.level, hkept.done⟩

theorem bellAt_of_commit {k : Nat} {flags : List Nat} (s level epoch : Nat) (d : Dev) (m : List Host.Cell) (h : flags.contains (8 * k) = false) :
    bellAt k s level epoch flags d m = commitBell k s level epoch flags d m := by
  rw [bellAt, if_neg (by simp only [h]; simp)]

theorem bellAt_of_fault {k : Nat} {flags : List Nat} (s level epoch : Nat) (d : Dev) (m : List Host.Cell) (h : flags.contains (8 * k) = true) :
    bellAt k s level epoch flags d m = (faultBell k s level epoch flags d, m) := by
  rw [bellAt, if_pos h]

/-! ### The bell of a local domain (R150, R208, R211) -/

theorem exec_localBell {k : Nat} {s : State} (hc : (membersOf s.dev k).all (columnOn s.dev) = true) :
    ∃ t, exec (.localBell k) s = .next t ∧ t.dev = (localBell k (tickCycle s.dev) s.mem).1 := by
  have hc' : (membersOf (tickCycle s.dev) k).all (columnOn (tickCycle s.dev)) = true := hc
  refine ⟨_, rfl, ?_⟩
  show (treeClocked k (localBell k) (tickCycle s.dev) s.mem).1 = _
  simp [treeClocked, hc']

/-- The next bell comes once the done has risen and the period has passed, at the level of the vector (R218). -/
theorem localBell_next {k : Nat} {d : Dev} (m : List Host.Cell) (he : (domEntry d k).isSome = true) (hm : isMachine d k = false)
    (hr : (getDom d k).running = true) (hd : (getDom d k).done = true) (hp : atPeriod d k = true) (hf : (getDom d k).snapshot.contains (8 * k) = false) :
    localBell k d m = commitBell k ((getDom d k).step + 1) (levelOf k (getDom d k).snapshot) d.epochs.cur (getDom d k).snapshot d m := by
  rw [← bellAt_of_commit _ _ _ _ _ hf]
  simp [localBell, Option.isNone_iff_eq_none, Option.isSome_iff_ne_none.mp he, hm, hr, hd, hp]

/-- The first bell comes once the device is ready (R211). -/
theorem localBell_first {k : Nat} {d : Dev} (m : List Host.Cell) (he : (domEntry d k).isSome = true) (hm : isMachine d k = false)
    (hr : (getDom d k).running = false) (hready : isReady d k = true) :
    localBell k d m = commitBell k (proposal d k) 0 d.epochs.cur [] d m := by
  rw [← bellAt_of_commit _ _ _ _ _ rfl]
  simp [localBell, Option.isNone_iff_eq_none, Option.isSome_iff_ne_none.mp he, hm, hr, hready]

/-! ### A parent's bell (R210, R262) -/

/-- The bell for the next step, once the device's own done has risen. -/
theorem bellDown_next {k p : Nat} {r : Rx} {s : State} (ha : Arrives 10 r s) (hlen : r.payload.length = 96) (hk : leAt r.payload 0 1 = k)
    (hkind : leAt r.payload 8 1 = 0) (hm : isMachine s.dev k = true) (hp : parentOf s.dev k = some p) (hs : steps s.dev.state = true)
    (hr : (getDom s.dev k).running = true) (hd : (getDom s.dev k).done = true) (hstep : r.aux.toNat = (getDom s.dev k).step + 1) :
    bellDown r (tickCycle s.dev) s.mem = bellAt k ((getDom s.dev k).step + 1) (min 5 (leAt r.payload 1 1)) (beAt r.payload 4 4) (flagsOf r.payload)
      (portCount r.port 1 (tickCycle s.dev)) s.mem := by
  have hm' : isMachine (portCount r.port 1 (tickCycle s.dev)) k = true := hm
  have hp' : parentOf (portCount r.port 1 (tickCycle s.dev)) k = some p := hp
  have hs' : steps (portCount r.port 1 (tickCycle s.dev)).state = true := hs
  have hdom : getDom (portCount r.port 1 (tickCycle s.dev)) k = getDom s.dev k := rfl
  unfold bellDown
  simp only [arrive_of_arrives ha, hlen, hk, hkind, hm', hp', hs', hdom, hr, hd, hstep]
  simp

end Sys2Proof.Machine
end

section
/-! The schedule of the next step (R325): the toll gate and the slots change serving alone, and find the same whatever the model's cycle
count and the event registers hold. -/
namespace Sys2Proof.Machine

/-! ### What an event changes, apart -/

/-- d with the cycle count, the event registers, the host interface and the record of outputs of e: what events and their interrupts
change. -/
def reEvent (e d : Dev) : Dev := { d with cycle := e.cycle, evs := e.evs, host := e.host, out := e.out }

/-- From d to d' serving may differ, and what events change. -/
def ServingOnly (d d' : Dev) : Prop := ∃ e v, d' = reEvent e { d with srv := v }

namespace ServingOnly
variable {d d' d'' : Dev}

theorem refl (d : Dev) : ServingOnly d d := ⟨d, d.srv, rfl⟩

theorem trans (h : ServingOnly d d') (h' : ServingOnly d' d'') : ServingOnly d d'' := by
  obtain ⟨e, v, rfl⟩ := h
  obtain ⟨e', v', rfl⟩ := h'
  exact ⟨e', v', rfl⟩

theorem foldl {α : Type} {f : Dev → α → Dev} (h : ∀ d a, ServingOnly d (f d a)) (as : List α) (d : Dev) : ServingOnly d (as.foldl f d) := by
  induction as generalizing d with
  | nil => exact refl d
  | cons a as ih => exact (h d a).trans (ih _)

theorem doms (h : ServingOnly d d') : d'.doms = d.doms := by obtain ⟨_, _, rfl⟩ := h; rfl

/-- The flows take as many frames as before. -/
theorem flowsReady (h : ServingOnly d d') (n : Nat) : flowsReady d' n = Machine.flowsReady d n := by obtain ⟨_, _, rfl⟩ := h; rfl

end ServingOnly

theorem modSrv_serving (f : Serving → Serving) (d : Dev) : ServingOnly d (modSrv f d) := ⟨d, (modSrv f d).srv, rfl⟩

theorem modTicket_serving (t : Nat) (f : Ticket → Ticket) (d : Dev) : ServingOnly d (modTicket t f d) := ⟨d, (modTicket t f d).srv, rfl⟩

theorem raise_eq_reEvent (e : EvId) (b i a : Nat) (d : Dev) : raise e b i a d = reEvent (raise e b i a d) d := by
  unfold raise vec2 msix
  simp only []
  split
  · split
    · rfl
    · split <;> rfl
  · rfl

/-! ### Catalogue admissions (R361) -/

theorem countReject_eq (reason t : Nat) (d : Dev) : ∃ e, countReject reason t d = reEvent e (tgCount (16 + reason) 1 d) := by
  unfold countReject
  simp only []
  split
  · rw [raise_eq_reEvent, raise_eq_reEvent .tg 0]
    exact ⟨_, rfl⟩
  · exact ⟨_, raise_eq_reEvent ..⟩

/-- A rejection of a query, whatever events have come before it, leaves the same of serving. -/
theorem rejectQuery_reEvent (flow req reason : Nat) (e d : Dev) : ∃ e', rejectQuery flow req reason (reEvent e d) = reEvent e' (rejectQuery flow req reason d) := by
  obtain ⟨e1, h1⟩ := countReject_eq reason 0 (reEvent e d)
  obtain ⟨e2, h2⟩ := countReject_eq reason 0 d
  refine ⟨e1, ?_⟩
  unfold rejectQuery
  rw [h1, h2]
  rfl

theorem rejectQuery_serving (flow req reason : Nat) (d : Dev) : ServingOnly d (rejectQuery flow req reason d) := by
  obtain ⟨e, h⟩ := countReject_eq reason 0 d
  exact ⟨e, (rejectQuery flow req reason d).srv, by unfold rejectQuery; rw [h]; rfl⟩

theorem foldl_rejectQuery_reEvent (qs : List CatQuery) (reason : Nat) (e d : Dev) : ∃ e',
    qs.foldl (fun d q => rejectQuery q.flow q.request reason d) (reEvent e d) = reEvent e' (qs.foldl (fun d q => rejectQuery q.flow q.request reason d) d) := by
  induction qs generalizing e d with
  | nil => exact ⟨e, rfl⟩
  | cons q qs ih =>
    obtain ⟨e', h⟩ := rejectQuery_reEvent q.flow q.request reason e d
    simp only [List.foldl_cons, h]
    exact ih e' _

/-! What the toll gate reads is not what events change. -/

section Readers
variable (e d : Dev)

@[simp] theorem reEvent_srv : (reEvent e d).srv = d.srv := rfl
@[simp] theorem serve_reEvent : serve (reEvent e d) = serve d := rfl
@[simp] theorem catFront_reEvent : catFront (reEvent e d) = catFront d := rfl
@[simp] theorem getPart_reEvent (p : Nat) : getPart (reEvent e d) p = getPart d p := rfl
@[simp] theorem getCust_reEvent (c : Nat) : getCust (reEvent e d) c = getCust d c := rfl
@[simp] theorem getTicket_reEvent (t : Nat) : getTicket (reEvent e d) t = getTicket d t := rfl
@[simp] theorem prioOf_reEvent (q : Nat) : prioOf (reEvent e d) q = prioOf d q := rfl
@[simp] theorem liveNext_reEvent (p : Nat) : liveNext (reEvent e d) p = liveNext d p := rfl
@[simp] theorem queueOrder_reEvent : queueOrder (reEvent e d) = queueOrder d := rfl
@[simp] theorem modSrv_reEvent (f : Serving → Serving) : modSrv f (reEvent e d) = reEvent e (modSrv f d) := rfl
@[simp] theorem modTicket_reEvent (t : Nat) (f : Ticket → Ticket) : modTicket t f (reEvent e d) = reEvent e (modTicket t f d) := rfl

end Readers

/-- A query that may not be scanned now: its partition is stopped, or its customer's purse does not cover what is taken. -/
def catBarred (d : Dev) (got : List CatQuery) (x : CatQuery) : Bool :=
  (getPart d x.part).stopped || decide ((getCust d x.customer).balance <
    (((got.filter fun g => decide (g.customer = x.customer)).foldl (fun n g => n + g.cost * 8000000) 0 + x.cost * 8000000 : Nat) : Int))

/-- The queues after a query has been taken from q: q goes behind those of its priority (R327). -/
def turnOf (d : Dev) (q : Nat) (r : List Nat) : List Nat :=
  r.takeWhile (fun o => decide (prioOf d o = prioOf d q)) ++ [q] ++ r.dropWhile fun o => decide (prioOf d o = prioOf d q)

theorem catTake_full {n : Nat} {qs : List Nat} {d : Dev} {got : List CatQuery} (h : (serve d).slots ≤ got.length) :
    catTake (n + 1) qs d got = (got, d) := by
  unfold catTake
  rw [if_pos h]

theorem catTake_nil {n : Nat} {d : Dev} {got : List CatQuery} : catTake (n + 1) [] d got = (got, d) := by
  simp [catTake]

theorem catTake_empty {n q : Nat} {r : List Nat} {d : Dev} {got : List CatQuery} (h : ¬ (serve d).slots ≤ got.length)
    (hq : mget d.srv.catQueues q [] = []) : catTake (n + 1) (q :: r) d got = catTake n r d got := by
  rw [catTake, if_neg h, hq]

theorem catTake_head {n q : Nat} {r : List Nat} {d : Dev} {got : List CatQuery} {x : CatQuery} {rest : List CatQuery}
    (h : ¬ (serve d).slots ≤ got.length) (hq : mget d.srv.catQueues q [] = x :: rest) : catTake (n + 1) (q :: r) d got =
      if catBarred d got x then catTake n r d got
      else catTake n (turnOf d q r) (modSrv (fun s => { s with catQueues := mset s.catQueues q [] rest, nextQueue := q + 1 }) d)
        (got ++ [{ x with gen := liveNext d x.part }]) := by
  rw [catTake, if_neg h, hq]
  rfl

theorem catTake_reEvent (e : Dev) (n : Nat) (qs : List Nat) (d : Dev) (got : List CatQuery) :
    catTake n qs (reEvent e d) got = ((catTake n qs d got).1, reEvent e (catTake n qs d got).2) := by
  induction n generalizing qs d got with
  | zero => rfl
  | succ n ih =>
    by_cases hfull : (serve d).slots ≤ got.length
    · rw [catTake_full hfull, catTake_full (d := reEvent e d) hfull]
    · cases qs with
      | nil => rw [catTake_nil, catTake_nil]
      | cons q r =>
        cases hq : mget d.srv.catQueues q [] with
        | nil => rw [catTake_empty hfull hq, catTake_empty (d := reEvent e d) hfull hq, ih]
        | cons x rest =>
          rw [catTake_head hfull hq, catTake_head (d := reEvent e d) hfull hq, show catBarred (reEvent e d) got x = catBarred d got x from rfl,
            show turnOf (reEvent e d) q r = turnOf d q r from rfl, modSrv_reEvent, liveNext_reEvent]
          split <;> exact ih ..

theorem catTake_serving (n : Nat) (qs : List Nat) (d : Dev) (got : List CatQuery) : ServingOnly d (catTake n qs d got).2 := by
  induction n generalizing qs d got with
  | zero => exact .refl d
  | succ n ih =>
    by_cases hfull : (serve d).slots ≤ got.length
    · rw [catTake_full hfull]
      exact .refl d
    · cases qs with
      | nil => rw [catTake_nil]; exact .refl d
      | cons q r =>
        cases hq : mget d.srv.catQueues q [] with
        | nil => rw [catTake_empty hfull hq]; exact ih ..
        | cons x rest =>
          rw [catTake_head hfull hq]
          split
          · exact ih ..
          · exact (modSrv_serving ..).trans (ih ..)

/-- The device with the catalogue queries that the next step scans. -/
def catPlaced (d : Dev) : Dev :=
  let total := d.srv.catQueues.foldl (fun n e => n + e.2.length) 0
  let r := catTake (total * ((serve d).queues.length + 1) + (serve d).queues.length + 1) (queueOrder d) d []
  let uses := r.1.zipIdx.map fun e => ({ stage := 0, slot := e.2, ticket := e.2, pos := 0, kind := 3, token := 0 } : SlotUse)
  modSrv (fun s => { s with catAdmits := r.1, nextSchedule := s.nextSchedule ++ uses }) r.2

/-- and without those that wait in no queue. -/
def catSwept (d : Dev) : Dev :=
  modSrv (fun s => { s with catQueues := s.catQueues.foldl (fun m e => mset m e.1 [] (e.2.filter fun q => ! q.noQueue)) [] }) (catPlaced d)

theorem catSchedule_eq (d : Dev) : catSchedule d =
    ((catPlaced d).srv.catQueues.flatMap fun e => e.2.filter (·.noQueue)).foldl (fun d q => rejectQuery q.flow q.request 9 d) (catSwept d) := rfl

theorem catPlaced_reEvent (e d : Dev) : catPlaced (reEvent e d) = reEvent e (catPlaced d) := by
  unfold catPlaced
  simp only [reEvent_srv, serve_reEvent, queueOrder_reEvent, catTake_reEvent, modSrv_reEvent]

theorem catSchedule_reEvent (e d : Dev) : ∃ e', catSchedule (reEvent e d) = reEvent e' (catSchedule d) := by
  rw [catSchedule_eq, catSchedule_eq, catSwept, catPlaced_reEvent, modSrv_reEvent]
  exact foldl_rejectQuery_reEvent ..

theorem catSchedule_serving (d : Dev) : ServingOnly d (catSchedule d) := by
  rw [catSchedule_eq]
  exact (((catTake_serving ..).trans (modSrv_serving ..)).trans (modSrv_serving ..)).trans (.foldl (fun _ _ => rejectQuery_serving ..) _ _)

/-! ### The toll gate (R327, R334, R341, R342) -/

theorem queueHead_reEvent (e d : Dev) (q : Nat) (ts : List Nat) : queueHead (reEvent e d) q ts = queueHead d q ts := by
  induction ts with
  | nil => rfl
  | cons t r ih =>
    unfold queueHead
    rw [ih]
    rfl

theorem tollScan_reEvent (e d : Dev) (qs : List Nat) : tollScan (reEvent e d) qs = tollScan d qs := by
  induction qs with
  | nil => rfl
  | cons q r ih =>
    unfold tollScan
    rw [queueHead_reEvent, ih]
    rfl

theorem pfxRun_reEvent (e d : Dev) (x : Ticket) (ctx : List Byte) (hs : List W64) (tpp n p : Nat) :
    pfxRun (reEvent e d) x ctx hs tpp n p = pfxRun d x ctx hs tpp n p := by
  induction n generalizing p with
  | zero => rfl
  | succ n ih =>
    unfold pfxRun
    rw [ih]
    rfl

theorem pfxMatch_reEvent (e d : Dev) (x : Ticket) : pfxMatch (reEvent e d) x = pfxMatch d x := by
  unfold pfxMatch
  simp only [pfxRun_reEvent]
  rfl

theorem pressure_reEvent (e d : Dev) (short : Nat) : pressure (reEvent e d) short = reEvent e (pressure d short) := by
  unfold pressure
  simp only [reEvent_srv, show frontStep (reEvent e d) = frontStep d from rfl, show pagesOf (reEvent e d) = pagesOf d from rfl]
  split
  · rfl
  · split <;> rfl

theorem pressure_serving (d : Dev) (short : Nat) : ServingOnly d (pressure d short) := by
  unfold pressure
  simp only []
  split
  · exact modSrv_serving ..
  · split
    · exact modSrv_serving ..
    · exact .refl d

/-- A pre-emption for a priority, where none is under way (R341). -/
def gatePreempt (p : Nat) (d : Dev) : Dev :=
  if d.srv.preempts.isEmpty then (match victim d p with | some v => modSrv (fun s => { s with preempts := [v] }) d | none => d) else d

/-- The head that lacks a lane or pages: a pre-emption, and pages under pressure. -/
def gateRoom (o : Option (Nat × Nat)) (d : Dev) : Dev :=
  match o with
  | some (p, t) =>
    let x := getTicket d t
    let d := gatePreempt p d
    if pagesFree d x then d else pressure d (needNow d x + d.dram.reserved - d.dram.free)
  | none => d

/-- The admission that the toll gate has found. -/
def gateAdmit (o : Option Nat) (d : Dev) : Dev :=
  match o with
  | some t =>
    let x := getTicket d t
    if x.state = .queued then
      let q := pinsNext d x
      let x := { x with genModel := q.1, genAdapt := q.2.1, epoch := q.2.2 }
      let es := pfxMatch d x
      modSrv (fun v => { v with admission := some (t, es.length), nextQueue := x.queue + 1 }) (setTicket d t { x with feed := es.length * (serve d).tpp })
    else modSrv (fun v => { v with admission := some (t, 0), nextQueue := x.queue + 1 }) d
  | none => d

/-- Tickets that wait in no queue and that the toll gate has not let in. -/
def gateLate (d : Dev) : Dev :=
  let late := d.srv.tickets.filter fun e => decide (e.2.state = .queued) && e.2.noQueue && decide (d.srv.admission.map (·.1) ≠ some e.1) && ! d.srv.rejects.any fun r => decide (r.1 = e.1)
  modSrv (fun v => { v with rejects := v.rejects ++ late.map fun e => (e.1, 9) }) d

theorem tollGate_eq (d : Dev) : tollGate d = gateLate (gateAdmit (tollScan d (queueOrder d)).1 (gateRoom (tollScan d (queueOrder d)).2.2
    (modSrv (fun v => { v with rejects := v.rejects ++ (tollScan d (queueOrder d)).2.1.map fun t => (t, 7), admission := none }) d))) := rfl

theorem gatePreempt_reEvent (p : Nat) (e d : Dev) : gatePreempt p (reEvent e d) = reEvent e (gatePreempt p d) := by
  unfold gatePreempt
  simp only [reEvent_srv, show victim (reEvent e d) p = victim d p from rfl]
  split
  · split <;> rfl
  · rfl

theorem gatePreempt_serving (p : Nat) (d : Dev) : ServingOnly d (gatePreempt p d) := by
  unfold gatePreempt
  split
  · split
    · exact modSrv_serving ..
    · exact .refl d
  · exact .refl d

theorem gateRoom_reEvent (o : Option (Nat × Nat)) (e d : Dev) : gateRoom o (reEvent e d) = reEvent e (gateRoom o d) := by
  unfold gateRoom
  split
  · next p t =>
    simp only [getTicket_reEvent, gatePreempt_reEvent, pressure_reEvent, show ∀ d1 x, pagesFree (reEvent e d1) x = pagesFree d1 x from fun _ _ => rfl]
    split <;> rfl
  · rfl

theorem gateRoom_serving (o : Option (Nat × Nat)) (d : Dev) : ServingOnly d (gateRoom o d) := by
  unfold gateRoom
  split
  · simp only []
    split
    · exact gatePreempt_serving ..
    · exact (gatePreempt_serving ..).trans (pressure_serving ..)
  · exact .refl d

theorem gateAdmit_reEvent (o : Option Nat) (e d : Dev) : gateAdmit o (reEvent e d) = reEvent e (gateAdmit o d) := by
  unfold gateAdmit
  split
  · simp only [getTicket_reEvent, pfxMatch_reEvent]
    split <;> rfl
  · rfl

theorem gateAdmit_serving (o : Option Nat) (d : Dev) : ServingOnly d (gateAdmit o d) := by
  unfold gateAdmit
  split
  · simp only []
    split
    · exact (modTicket_serving _ (fun _ => _) d).trans (modSrv_serving ..)
    · exact modSrv_serving ..
  · exact .refl d

theorem gateLate_serving (d : Dev) : ServingOnly d (gateLate d) := ⟨d, (gateLate d).srv, rfl⟩

theorem tollGate_reEvent (e d : Dev) : tollGate (reEvent e d) = reEvent e (tollGate d) := by
  rw [tollGate_eq, tollGate_eq, queueOrder_reEvent, tollScan_reEvent, modSrv_reEvent, gateRoom_reEvent, gateAdmit_reEvent]
  rfl

theorem tollGate_serving (d : Dev) : ServingOnly d (tollGate d) := by
  rw [tollGate_eq]
  exact (((modSrv_serving ..).trans (gateRoom_serving ..)).trans (gateAdmit_serving ..)).trans (gateLate_serving _)

/-! ### The slots of the next step (R321, R322, R324) -/

/-- A position of a ticket takes stage-0 slot k. -/
def putSlot (k t kind tok : Nat) (d : Dev) : Dev :=
  let p := (getTicket d t).feed
  modTicket t (fun x => { x with feed := p + 1 })
    (modSrv (fun v => { v with nextSchedule := v.nextSchedule ++ [{ stage := 0, slot := k, ticket := t, pos := p, kind := kind, token := tok }] }) d)

/-- The ticket of a slot's lane, and its token. -/
def laneToken (s k : Nat) (d : Dev) : Option (Nat × Nat) :=
  (d.srv.lanes.find? fun l => decide (l.1 = (s % max 1 (serve d).stages, k))).bind fun l =>
    let x := getTicket d l.2
    match decodes d l.2, (feedTokens d l.2)[x.feed]? with
    | true, some tok => some (l.2, tok)
    | _, _ => none

/-- The first ticket of the prefill queue with positions left. -/
def nextFed (ps : List Nat) (d : Dev) : Option Nat := ps.find? fun t => decide (0 < remaining (getTicket d t))

/-- It takes a slot that the slot's own lane leaves free. -/
def prefillSlot (ps : List Nat) (k : Nat) (d : Dev) : Dev :=
  (nextFed ps d).elim d fun t => putSlot k t (slotKind (getTicket d t) (getTicket d t).feed) ((getTicket d t).tokens.getD (getTicket d t).feed 0) d

theorem fillSlot_eq (s : Nat) (ps : List Nat) (k : Nat) (d : Dev) :
    fillSlot s ps k d = (laneToken s k d).elim (prefillSlot ps k d) fun e => putSlot k e.1 0 e.2 d := by
  unfold fillSlot prefillSlot
  change (match laneToken s k d with | some (t, tok) => putSlot k t 0 tok d | none => match nextFed ps d with | some t => _ | none => d) = _
  cases laneToken s k d with
  | some q => rfl
  | none => cases nextFed ps d <;> rfl

theorem putSlot_serving (k t kind tok : Nat) (d : Dev) : ServingOnly d (putSlot k t kind tok d) :=
  ⟨d, (putSlot k t kind tok d).srv, rfl⟩

theorem prefillSlot_reEvent (ps : List Nat) (k : Nat) (e d : Dev) : prefillSlot ps k (reEvent e d) = reEvent e (prefillSlot ps k d) := by
  unfold prefillSlot
  rw [show nextFed ps (reEvent e d) = nextFed ps d from rfl]
  cases nextFed ps d <;> rfl

theorem prefillSlot_serving (ps : List Nat) (k : Nat) (d : Dev) : ServingOnly d (prefillSlot ps k d) := by
  unfold prefillSlot
  cases nextFed ps d with
  | none => exact .refl d
  | some t => exact putSlot_serving ..

theorem fillSlot_reEvent (s : Nat) (ps : List Nat) (k : Nat) (e d : Dev) : fillSlot s ps k (reEvent e d) = reEvent e (fillSlot s ps k d) := by
  rw [fillSlot_eq, fillSlot_eq, show laneToken s k (reEvent e d) = laneToken s k d from rfl]
  cases laneToken s k d with
  | none => exact prefillSlot_reEvent ..
  | some q => rfl

theorem fillSlot_serving (s : Nat) (ps : List Nat) (k : Nat) (d : Dev) : ServingOnly d (fillSlot s ps k d) := by
  rw [fillSlot_eq]
  cases laneToken s k d with
  | none => exact prefillSlot_serving ..
  | some q => exact putSlot_serving ..

theorem fillSchedule_reEvent (s : Nat) (e d : Dev) : fillSchedule s (reEvent e d) = reEvent e (fillSchedule s d) := by
  unfold fillSchedule
  simp only [modSrv_reEvent, serve_reEvent, show shifted (reEvent e d) = shifted d from rfl, show ∀ d', prefillNext (reEvent e d') = prefillNext d' from fun _ => rfl]
  refine List.foldl_hom (reEvent e) fun d k => ?_
  exact fillSlot_reEvent ..

theorem fillSchedule_serving (s : Nat) (d : Dev) : ServingOnly d (fillSchedule s d) :=
  (modSrv_serving ..).trans (.foldl (fun _ _ => fillSlot_serving ..) _ _)

/-! ### The schedule (R325) -/

theorem scheduleNext_serving (s : Nat) (d : Dev) : ServingOnly d (scheduleNext s d) := by
  unfold scheduleNext
  split
  · exact (modSrv_serving ..).trans (catSchedule_serving _)
  · exact (((modSrv_serving ..).trans (tollGate_serving _)).trans (modSrv_serving ..)).trans (fillSchedule_serving ..)

theorem scheduleNext_reEvent (s : Nat) (e d : Dev) : ∃ e', scheduleNext s (reEvent e d) = reEvent e' (scheduleNext s d) := by
  unfold scheduleNext
  rw [catFront_reEvent]
  split
  · rw [modSrv_reEvent]
    exact catSchedule_reEvent ..
  · simp only [show flushDrops (reEvent e d) = reEvent e (flushDrops d) from rfl, tollGate_reEvent, modSrv_reEvent, fillSchedule_reEvent]
    exact ⟨e, rfl⟩

theorem scheduleFrames_reEvent (e d : Dev) : scheduleFrames (reEvent e d) = scheduleFrames d := by
  have hrecs : tollRecs (reEvent e d) = tollRecs d := by
    unfold tollRecs
    simp only [pfxMatch_reEvent]
    rfl
  unfold scheduleFrames scheduleRecs
  rw [hrecs]
  rfl

/-- The schedule takes as many frames in the command's cycle as before it. -/
theorem scheduleFrames_tickCycle (s : Nat) (d : Dev) : scheduleFrames (scheduleNext s (tickCycle d)) = scheduleFrames (scheduleNext s d) := by
  obtain ⟨e, h⟩ := scheduleNext_reEvent s (tickCycle d) d
  rw [show tickCycle d = reEvent (tickCycle d) d from rfl, h, scheduleFrames_reEvent]

theorem sendMask_keeps (step ix : Nat) (j : MaskJob) (d : Dev) : (sendMask step ix j d).doms = d.doms := by
  unfold sendMask
  simp only []
  split
  · rfl
  · exact (WireOnly.foldl (fun _ _ => sendPlain_wire ..) _ _).doms

/-- Once due, and the flows take it whole, the schedule goes out; the step stands. -/
theorem scheduleSend_sent {k : Nat} {d : Dev} (hdue : scheduleDue d k = true)
    (hready : flowsReady d (scheduleFrames (scheduleNext (getDom d k).step d)) = true) :
    (scheduleSend k d).srv.schedSent = true ∧ (scheduleSend k d).srv.outRecs = [] ∧ (getDom (scheduleSend k d) k).step = (getDom d k).step := by
  have hready' := (scheduleNext_serving (getDom d k).step d).flowsReady (scheduleFrames (scheduleNext (getDom d k).step d))
  unfold scheduleSend
  simp only [hdue, hready', hready, Bool.not_true, Bool.or_self, Bool.false_eq_true, if_false]
  refine ⟨rfl, rfl, ?_⟩
  rw [getDom_congr (modSrv_doms ..), modDom, getDom_setDom_same]
  rw [getDom_congr (foldl_doms (fun d j => sendMask_keeps ..) _ _), getDom_congr (WireOnly.foldl (fun _ _ => sendPlain_wire ..) _ _).doms,
    getDom_congr (sendRecords_wire ..).doms, getDom_congr (scheduleNext_serving ..).doms]

theorem scheduleSend_waits {k : Nat} {d : Dev} (hready : flowsReady d (scheduleFrames (scheduleNext (getDom d k).step d)) = false) :
    scheduleSend k d = d := by
  have hready' := (scheduleNext_serving (getDom d k).step d).flowsReady (scheduleFrames (scheduleNext (getDom d k).step d))
  unfold scheduleSend
  simp only [hready', hready, Bool.not_false, Bool.or_true, if_true]

end Sys2Proof.Machine
end

section
/-! The commands of the bells, put together (sections 1, 6, 8, 9 and 11). -/
namespace Sys2Proof.Machine

/-- A local domain's bells (R150, R211, R218). -/
theorem localBell_starts {k : Nat} {s : State} (he : (domEntry s.dev k).isSome = true) (hm : isMachine s.dev k = false)
    (hc : (membersOf s.dev k).all (columnOn s.dev) = true) :
    ((getDom s.dev k).running = true → (getDom s.dev k).done = true → atPeriod s.dev k = true → (getDom s.dev k).snapshot.contains (8 * k) = false →
      ∃ t, exec (.localBell k) s = .next t ∧ (getDom t.dev k).step = (getDom s.dev k).step + 1 ∧
        (getDom t.dev k).level = levelOf k (getDom s.dev k).snapshot ∧ (getDom t.dev k).done = false) ∧
    ((getDom s.dev k).running = false → isReady s.dev k = true →
      ∃ t, exec (.localBell k) s = .next t ∧ (getDom t.dev k).step = proposal s.dev k ∧ (getDom t.dev k).level = 0) := by
  obtain ⟨t, hexec, ht⟩ := exec_localBell hc
  refine ⟨fun hr hd hp hf => ⟨t, hexec, ?_⟩, fun hr hready => ⟨t, hexec, ?_⟩⟩
  · rw [ht, localBell_next (d := tickCycle s.dev) s.mem he hm hr hd hp hf]
    exact commitBell_dom ..
  · rw [ht, localBell_first (d := tickCycle s.dev) s.mem he hm hr hready]
    obtain ⟨hstep, hlevel, -⟩ := commitBell_dom k (proposal (tickCycle s.dev) k) 0 (tickCycle s.dev).epochs.cur [] (tickCycle s.dev) s.mem
    exact ⟨hstep, hlevel⟩

theorem exec_bellDown (r : Rx) (s : State) : ∃ t, exec (.bellDown r) s = .next t ∧ (t.dev, t.mem) = bellDown r (tickCycle s.dev) s.mem :=
  ⟨_, rfl, rfl⟩

/-- A parent's bell starts the next step; with the FAULT flag it takes the device to FAULTED (R210, R214, R262). -/
theorem bellDown_completes {k p : Nat} {r : Rx} {s : State} (ha : Arrives 10 r s) (hlen : r.payload.length = 96) (hk : leAt r.payload 0 1 = k)
    (hkind : leAt r.payload 8 1 = 0) (hm : isMachine s.dev k = true) (hp : parentOf s.dev k = some p) (hs : steps s.dev.state = true)
    (hr : (getDom s.dev k).running = true) (hd : (getDom s.dev k).done = true) (hstep : r.aux.toNat = (getDom s.dev k).step + 1) :
    ((flagsOf r.payload).contains (8 * k) = false → ∃ t, exec (.bellDown r) s = .next t ∧ (getDom t.dev k).step = (getDom s.dev k).step + 1 ∧
      (getDom t.dev k).level = min 5 (leAt r.payload 1 1) ∧ (getDom t.dev k).done = false) ∧
    ((flagsOf r.payload).contains (8 * k) = true → ∃ t, exec (.bellDown r) s = .next t ∧ t.mem = s.mem ∧ t.dev.state = .faulted ∧ EventSeen .bl 2 s t) := by
  obtain ⟨t, hexec, ht⟩ := exec_bellDown r s
  rw [bellDown_next ha hlen hk hkind hm hp hs hr hd hstep] at ht
  refine ⟨fun hf => ⟨t, hexec, ?_⟩, fun hf => ⟨t, hexec, ?_⟩⟩
  · rw [bellAt_of_commit _ _ _ _ _ hf] at ht
    rw [show t.dev = _ from congrArg Prod.fst ht]
    exact commitBell_dom ..
  · rw [bellAt_of_fault _ _ _ _ _ hf, Prod.mk.injEq] at ht
    obtain ⟨hdev, hmem⟩ := ht
    exact ⟨hmem, faultBell_seen (d := portCount r.port 1 (tickCycle s.dev)) rfl hdev⟩

/-! ### The resends (R209, R263) -/

/-- Once a domain's record is written, a bell goes out on the paths of its edge as on the device before the command. -/
theorem sendBell_modDom_frames (typ rank stepNo k : Nat) (payload : List Byte) (f : Dom → Dom) (d : Dev) : ∃ fs : List Tx,
    (sendBell typ rank stepNo payload (modDom k f (tickCycle d))).out = d.out ++ fs.map Out.frame ∧
      fs.length = ((edgePaths d rank).filter (subIsUp d)).length ∧ (∀ t ∈ fs, IsBell typ stepNo t) ∧
      getDom (sendBell typ rank stepNo payload (modDom k f (tickCycle d))) k = f (getDom d k) := by
  obtain ⟨fs, hout, hlen, hbell⟩ := sendBell_frames typ rank stepNo payload (modDom k f (tickCycle d))
  refine ⟨fs, hout, hlen, hbell, ?_⟩
  rw [getDom_congr (sendBell_wire ..).doms, modDom, getDom_setDom_same, getDom_tickCycle]

theorem bellResend_frames {k p : Nat} {s : State} (hr : (getDom s.dev k).running = true) (hs : (getDom s.dev k).sentUp = true)
    (hp : parentOf s.dev k = some p) : ∃ (t : State) (fs : List Tx), exec (.bellResend k) s = .next t ∧ SameStore s t ∧
      t.dev.out = s.dev.out ++ fs.map Out.frame ∧ fs.length = ((edgePaths s.dev p).filter (subIsUp s.dev)).length ∧
      (∀ f ∈ fs, IsBell 9 (getDom s.dev k).step f) ∧ getDom t.dev k = { getDom s.dev k with sentFlags := treeFlags s.dev k } := by
  obtain ⟨t, hexec, hstore, hdev⟩ := exec_bellResend hr hs
  have hup : t.dev = sendBell 9 p (getDom s.dev k).step (bellPayload k 0 (ownRank s.dev) (treeEpoch s.dev k) 0 (treeFlags s.dev k))
      (modDom k (fun x => { x with sentUp := true, sentFlags := treeFlags s.dev k }) (tickCycle s.dev)) :=
    hdev.trans (sendUp_of_parent (d := tickCycle s.dev) hp)
  obtain ⟨fs, hout, hlen, hbell, hdom⟩ := sendBell_modDom_frames 9 p (getDom s.dev k).step k
    (bellPayload k 0 (ownRank s.dev) (treeEpoch s.dev k) 0 (treeFlags s.dev k)) (fun x => { x with sentUp := true, sentFlags := treeFlags s.dev k }) s.dev
  refine ⟨t, fs, hexec, hstore, hup ▸ hout, hlen, hbell, ?_⟩
  rw [hup, hdom, ← hs]

theorem readinessResend_frames {k p : Nat} {s : State} (hr : isReady s.dev k = true) (hs : (getDom s.dev k).readySent ≠ none)
    (hp : parentOf s.dev k = some p) : ∃ (t : State) (fs : List Tx), exec (.readinessResend k) s = .next t ∧ SameStore s t ∧
      t.dev.out = s.dev.out ++ fs.map Out.frame ∧ fs.length = ((edgePaths s.dev p).filter (subIsUp s.dev)).length ∧
      (∀ f ∈ fs, IsBell 9 (readyStep s.dev k) f) ∧ getDom t.dev k = { getDom s.dev k with readySent := some (readyStep s.dev k) } := by
  obtain ⟨t, hexec, hstore, hdev⟩ := exec_readinessResend hr hs
  have hup : t.dev = sendBell 9 p (readyStep s.dev k) (bellPayload k 0 (ownRank s.dev) (readyEpoch s.dev k) 1 [])
      (modDom k (fun x => { x with readySent := some (readyStep s.dev k) }) (tickCycle s.dev)) :=
    hdev.trans (sendReady_of_parent (d := tickCycle s.dev) hp)
  obtain ⟨fs, hout, hlen, hbell, hdom⟩ := sendBell_modDom_frames 9 p (readyStep s.dev k) k
    (bellPayload k 0 (ownRank s.dev) (readyEpoch s.dev k) 1 []) (fun x => { x with readySent := some (readyStep s.dev k) }) s.dev
  exact ⟨t, fs, hexec, hstore, hup ▸ hout, hlen, hbell, hup ▸ hdom⟩

/-! ### The schedule of the next step (R325) -/

/-- What the front device waits for before the schedule of the next step goes out. -/
structure ScheduleDue (d : Dev) (k : Nat) : Prop where
  front : isFront d = true
  frontDom : frontDom d = k
  running : (getDom d k).running = true
  notHalted : (getDom d k).halted = false
  notDone : (getDom d k).done = false
  notSent : d.srv.schedSent = false
  records : recordsIn d = true

theorem ScheduleDue.scheduleDue {d : Dev} {k : Nat} (h : ScheduleDue d k) : scheduleDue (tickCycle d) k = true := by
  have hdue : Machine.scheduleDue d k = true := by
    simp [Machine.scheduleDue, h.front, h.frontDom, h.running, h.notHalted, h.notDone, h.notSent, h.records]
  exact hdue

/-- The flows are as ready in the command's cycle as before it. -/
theorem flowsReady_tickCycle (n : Nat) (d : Dev) : flowsReady (tickCycle d) n = flowsReady d n := rfl

theorem scheduleSend_completes {k : Nat} {s : State} (h : ScheduleDue s.dev k) :
    let n := scheduleFrames (scheduleNext (getDom s.dev k).step s.dev)
    (flowsReady s.dev n = true → ∃ t, exec (.scheduleSend k) s = .next t ∧ SameStore s t ∧ t.dev.srv.schedSent = true ∧ t.dev.srv.outRecs = [] ∧
      (getDom t.dev k).step = (getDom s.dev k).step) ∧
    (flowsReady s.dev n = false → ∃ t, exec (.scheduleSend k) s = .next t ∧ Nothing s t) := by
  intro n
  have hn : scheduleFrames (scheduleNext (getDom (tickCycle s.dev) k).step (tickCycle s.dev)) = n := scheduleFrames_tickCycle ..
  refine ⟨fun hready => ⟨_, rfl, ⟨rfl, rfl, rfl⟩, ?_⟩, fun hwait => ⟨_, rfl, ?_⟩⟩
  · exact scheduleSend_sent h.scheduleDue (by rw [hn, flowsReady_tickCycle, hready])
  · have hstay : scheduleSend k (tickCycle s.dev) = tickCycle s.dev := scheduleSend_waits (by rw [hn, flowsReady_tickCycle, hwait])
    show _ = _
    rw [hstay]
    rfl

/-! ### The obligation -/

theorem pacePoint_ends {k : Nat} {s : State} (hr : (getDom s.dev k).running = true) (hp : atPace s.dev k = true) :
    ∃ t, exec (.pacePoint k) s = .next t ∧ SameStore s t ∧ getDom t.dev k = { getDom s.dev k with paced := true } ∧
      t.dev = { s.dev with cycle := s.dev.cycle + 1, doms := t.dev.doms } := by
  obtain ⟨t, hexec, hstore, hdev⟩ := exec_pacePoint hr hp
  refine ⟨t, hexec, hstore, ?_, ?_⟩
  · rw [hdev, modDom, getDom_setDom_same, getDom_tickCycle]
  · rw [hdev]
    rfl

/-- Settles O60, clause by clause: the pace point, the device's done, a local domain's bell, a child's done, a parent's bell, the two
resends and the schedule. -/
theorem bellCommandsComplete : Obligations.BellCommandsComplete := by
  intro k p r s x clocks up
  refine ⟨pacePoint_ends, fun hr hd hp hw hc => ?_, localBell_starts, bellUp_keeps, bellDown_completes, bellResend_frames, fun hr hs hp => ?_,
    fun hf hk hr hh hd hs hi => scheduleSend_completes ⟨hf, hk, hr, hh, hd, hs, hi⟩⟩
  · have hdue : DoneDue s.dev k := ⟨hr, hd, hp, hw⟩
    exact ⟨deviceDone_local hdue hc, deviceDone_up hdue hc, deviceDone_wireError hdue hc⟩
  · obtain ⟨t, fs, hexec, hstore, hout, hlen, hbell, hdom⟩ := readinessResend_frames hr hs hp
    refine ⟨t, fs, hexec, hstore, hout, hlen, fun f hf => ?_, hdom⟩
    obtain ⟨htyp, haux, -⟩ := hbell f hf
    exact ⟨htyp, haux⟩

end Sys2Proof.Machine
end

section
/-! Single event bits (R402) and fault records (R383, R384): what a record, and an event of another bit, leave. -/
namespace Sys2Proof.Machine

/-! ### Event bits -/

/-- From d to d' bit b of event register e has had no event: its counter stands, and its flag is not cleared. -/
structure Unseen (e : EvId) (b : Nat) (d d' : Dev) : Prop where
  cnt : mget (getEv d' e).cnt b 0 = mget (getEv d e).cnt b 0
  flag : (getEv d e).flags.getLsbD b = true → (getEv d' e).flags.getLsbD b = true

/-- From d to d' no bits but those on the list l have had an event. -/
structure OnlyBits (l : List (EvId × Nat)) (d d' : Dev) : Prop where
  unseen : ∀ e b, (e, b) ∉ l → Unseen e b d d'

namespace OnlyBits
variable {l l' : List (EvId × Nat)} {d d' d'' : Dev}

theorem of_evs (h : d'.evs = d.evs) : OnlyBits l d d' := by
  refine ⟨fun e b _ => ?_⟩
  have hreg : getEv d' e = getEv d e := by simp [getEv, h]
  exact ⟨by rw [hreg], by rw [hreg]; exact id⟩

theorem refl (d : Dev) : OnlyBits l d d := of_evs rfl

theorem trans (h : OnlyBits l d d') (h' : OnlyBits l d' d'') : OnlyBits l d d'' := by
  refine ⟨fun e b hb => ?_⟩
  obtain ⟨hcnt, hflag⟩ := h.unseen e b hb
  obtain ⟨hcnt', hflag'⟩ := h'.unseen e b hb
  exact ⟨hcnt'.trans hcnt, hflag' ∘ hflag⟩

/-- After a change of no event register. -/
theorem after (h : OnlyBits l d' d'') (he : d'.evs = d.evs) : OnlyBits l d d'' := (of_evs he).trans h

theorem mono (h : OnlyBits l d d') (hl : l ⊆ l') : OnlyBits l' d d' := ⟨fun e b hb => h.unseen e b fun hm => hb (hl hm)⟩

end OnlyBits

theorem raise_onlyBits (e : EvId) (b i a : Nat) (d : Dev) : OnlyBits [(e, b)] d (raise e b i a d) := by
  refine ⟨fun f c hc => ?_⟩
  by_cases hf : f = e
  · subst hf
    have hcb : c ≠ b := by simpa using hc
    have hreg := getEv_raise_same f b i a d
    exact ⟨by simp [hreg, evHit_cnt, mmod, hcb], by rw [hreg]; exact evHit_keeps _ _ _⟩
  · have hreg := getEv_raise_ne e b i a d hf
    exact ⟨by rw [hreg], by rw [hreg]; exact id⟩

/-- One event of a bit that has had no other is seen. -/
theorem eventSeen_of_onlyBits {e : EvId} {b i a : Nat} {l l' : List (EvId × Nat)} {s t : State} {d : Dev} (hb : b < 32)
    (hs : OnlyBits l s.dev d) (hl : (e, b) ∉ l) (ht : OnlyBits l' (raise e b i a d) t.dev) (hl' : (e, b) ∉ l') : EventSeen e b s t := by
  obtain ⟨hflag, hcnt⟩ := raise_seen e i a d hb
  obtain ⟨hcnt', hflag'⟩ := ht.unseen e b hl'
  exact ⟨hflag' hflag, by rw [hcnt', hcnt, (hs.unseen e b hl).cnt]⟩

/-! ### Fault records -/

/-- From d to d' one record has been written: of the event bits only log_wrap may have had an event, and the market stands. -/
structure Logged (d d' : Dev) : Prop where
  head : d'.faults.head = d.faults.head + 1
  mkt : d'.mkt = d.mkt
  bits : OnlyBits [(.chFault, 8)] d d'

theorem faultRec_logged (r : FaultRec) (d : Dev) : Logged d (faultRec r d) := by
  unfold faultRec
  simp only []
  generalize hd1 : ({ d with faults := _ } : Dev) = d1
  have hentry : Logged d d1 := by subst hd1; exact ⟨rfl, rfl, .of_evs rfl⟩
  have hwrap : Logged d (if (decide (65536 < d.faults.head + 1) && decide (d.faults.readSeq < d.faults.head + 1 - 65536)) = true then
      raise .chFault 8 (if r.stall < 1920 then r.stall else 0) 0 d1 else d1) := by
    split
    · exact ⟨by simp [hentry.head], by simp [hentry.mkt], hentry.bits.trans (raise_onlyBits ..)⟩
    · exact hentry
  split
  · exact ⟨by rw [msix_faults, hwrap.head], by rw [msix_mkt, hwrap.mkt], hwrap.bits.trans (.of_evs (by simp))⟩
  · exact hwrap

/-- A capture (R386) takes its place in the ring of captures and no record's. -/
theorem capturedRec_logged (r : FaultRec) (j : MvmJob) (d : Dev) : Logged d (capturedRec r j d) := by
  unfold capturedRec
  simp only []
  split
  · exact faultRec_logged r d
  · obtain ⟨hhead, hmkt, hbits⟩ := faultRec_logged _ (capture _ d).2
    exact ⟨hhead, hmkt, hbits.after rfl⟩

end Sys2Proof.Machine
end

section
/-! What the result of a plane MVM changes where it goes (R81, R85, R110, R130, R362-R364): the lines, tills, scores, lists and samples of
its stall, and no array, record or other issued word. -/
namespace Sys2Proof.Machine

/-- From d to d' the arrays and the fault log stand, and of the event bits only that of a sample lost (R130) may have had an event. -/
structure ArraysStand (d d' : Dev) : Prop where
  arrays : d'.mkt.arrays = d.mkt.arrays
  faults : d'.faults = d.faults
  bits : OnlyBits [(.cvQuant, 4)] d d'

/-- From d to d' only what takes a result may differ: beside the arrays and the log every issued word stands. -/
structure ResultOnly (d d' : Dev) : Prop extends ArraysStand d d' where
  issued : ∀ k, (getStall d' k).issued = (getStall d k).issued

/-- From d to d' word pos of stall i has completed, with whatever its result changes; no other word of the stall has gone. -/
structure WordCompletes (i pos : Nat) (d d' : Dev) : Prop extends ArraysStand d d' where
  issued : (getStall d' i).issued = (getStall d i).issued.filter fun w => decide (w.pos ≠ pos)

namespace ResultOnly
variable {d d' d'' : Dev}

theorem refl (d : Dev) : ResultOnly d d := ⟨⟨rfl, rfl, .refl d⟩, fun _ => rfl⟩

theorem trans (h : ResultOnly d d') (h' : ResultOnly d' d'') : ResultOnly d d'' :=
  ⟨⟨h'.arrays.trans h.arrays, h'.faults.trans h.faults, h.bits.trans h'.bits⟩, fun k => (h'.issued k).trans (h.issued k)⟩

theorem foldl {α : Type} {f : Dev → α → Dev} (h : ∀ d a, ResultOnly d (f d a)) (as : List α) (d : Dev) : ResultOnly d (as.foldl f d) := by
  induction as generalizing d with
  | nil => exact refl d
  | cons a as ih => exact (h d a).trans (ih _)

end ResultOnly

theorem sampleLost_resultOnly (i : Nat) (d : Dev) : ResultOnly d (raise .cvQuant 4 i 0 d) :=
  ⟨⟨by simp, by simp, raise_onlyBits ..⟩, fun _ => by simp⟩

theorem setStall_resultOnly {d : Dev} {i : Nat} {x : Stall} (h : x.issued = (getStall d i).issued) : ResultOnly d (setStall d i x) := by
  refine ⟨⟨rfl, rfl, .of_evs rfl⟩, fun k => ?_⟩
  by_cases hk : k = i
  · rw [hk, getStall_setStall_same, h]
  · rw [getStall_setStall_ne _ _ _ hk]

theorem modStall_resultOnly {i : Nat} {f : Stall → Stall} (h : ∀ x, (f x).issued = x.issued) (d : Dev) : ResultOnly d (modStall i f d) :=
  setStall_resultOnly (h _)

theorem setLine_resultOnly (i l : Nat) (v : Line) (d : Dev) : ResultOnly d (setLine d i l v) := by
  refine ⟨⟨?_, by simp, .of_evs (by simp)⟩, fun _ => by simp⟩
  unfold setLine
  split <;> rfl

theorem setLines_resultOnly (i l : Nat) (ls : List Line) (d : Dev) : ResultOnly d (setLines d i l ls) :=
  .foldl (fun _ _ => setLine_resultOnly ..) _ _

theorem insertScores_resultOnly (m : List Host.Cell) (i slot : Nat) (q : CatQuery) (c : CatEntry) (h : ChunkEntry) (off : Nat) (sums : List Int)
    (d : Dev) : ResultOnly d (insertScores m i slot q c h off sums d) := setStall_resultOnly (by rfl)

theorem addScores_resultOnly (m : List Host.Cell) (i slot : Nat) (q : CatQuery) (c : CatEntry) (chunk off : Nat) (sums : List Int) (d : Dev) :
    ResultOnly d (addScores m i slot q c chunk off sums d) := by
  unfold addScores
  split
  · exact .refl d
  · simp only []
    split
    · exact .trans (setStall_resultOnly (by rfl)) (insertScores_resultOnly ..)
    · exact setStall_resultOnly (by rfl)

theorem auditTake_resultOnly (i : Nat) (w : Issued) (j : MvmJob) (sums : List Int) (d : Dev) : ResultOnly d (auditTake i w j sums d) := by
  unfold auditTake
  simp only []
  split
  · exact .refl d
  · split
    · exact sampleLost_resultOnly i d
    · exact setStall_resultOnly rfl

theorem mvmOut_resultOnly (m : List Host.Cell) (i : Nat) (w : Issued) (j : MvmJob) (sums : List Int) (d : Dev) :
    ResultOnly d (mvmOut m i w j sums d) := by
  unfold mvmOut
  simp only []
  split
  · split
    · exact addScores_resultOnly ..
    · exact .refl d
  · refine .trans (.trans (modStall_resultOnly ?_ d) (setLines_resultOnly ..)) (auditTake_resultOnly ..)
    exact fun _ => rfl

theorem wordDone_completes {i pos : Nat} {d d' : Dev} (h : ResultOnly d d') : WordCompletes i pos d (wordDone i pos d') := by
  refine ⟨⟨h.arrays, h.faults, h.bits.trans (.of_evs rfl)⟩, ?_⟩
  rw [wordDone, modStall, getStall_setStall_same, h.issued]

/-- A word completes with its MVM's result, and, of a masked slot, without it. -/
theorem mvmDone_completes (m : List Host.Cell) (i : Nat) (w : Issued) (j : MvmJob) (sums : List Int) (d : Dev) :
    WordCompletes i w.pos d (mvmDone m i w j sums d) := by
  unfold mvmDone runWord
  simp only []
  refine wordDone_completes ?_
  generalize hd1 : (if (isMasked d i w.slot && audits d i w j && (slotQuery d i w.slot).isNone) = true then raise .cvQuant 4 i 0 d else d) = d1
  have hlost : ResultOnly d d1 := by
    rw [← hd1]
    split
    · exact sampleLost_resultOnly i d
    · exact .refl d
  split
  · exact hlost
  · exact hlost.trans (mvmOut_resultOnly ..)

end Sys2Proof.Machine
end

section
/-! The escalation of a plane MVM (R63, R373-R375): the retry, the audit path, and an array that becomes suspect. -/
namespace Sys2Proof.Machine

/-! ### Conversion without an error -/

theorem convert_noDeltas (fmt l : Nat) (seed : W64) (off : Nat) (xs : List Int) (rows : List CellRow) :
    convert fmt l seed off xs rows [] = { sums := partialSums fmt xs rows, sealS := sealSum xs rows,
                                          dot := sealDot seed off (partialSums fmt xs rows), range := false } := by
  simp [convert, List.zipIdx_map_fst]

/-- What the till finds of an MVM whose samples have no error. -/
def cleanRun (j : MvmJob) (l : Nat) (rows : List CellRow) : MvmRes := convert j.fmt l j.seed j.off j.block.xs rows noFault.deltas

theorem cleanRun_eq (j : MvmJob) (l : Nat) (rows : List CellRow) : cleanRun j l rows =
    { sums := partialSums j.fmt j.block.xs rows, sealS := sealSum j.block.xs rows,
      dot := sealDot j.seed j.off (partialSums j.fmt j.block.xs rows), range := false } := convert_noDeltas ..

theorem failKind_of_sealGood {j : MvmJob} {rows : List CellRow} (l : Nat) (h : SealGood j rows) : failKind noFault (cleanRun j l rows) = none := by
  have hseal : sealSum j.block.xs rows = sealDot j.seed j.off (partialSums j.fmt j.block.xs rows) := h
  simp [cleanRun_eq, failKind, noFault, hseal]

theorem failKind_of_not_sealGood {j : MvmJob} {rows : List CellRow} (l : Nat) (h : ¬ SealGood j rows) :
    failKind noFault (cleanRun j l rows) = some 1 := by
  have hseal : sealSum j.block.xs rows ≠ sealDot j.seed j.off (partialSums j.fmt j.block.xs rows) := h
  simp [cleanRun_eq, failKind, noFault, hseal]

theorem failFlags_of_not_sealGood {j : MvmJob} {rows : List CellRow} (l i a : Nat) (d : Dev) (h : ¬ SealGood j rows) :
    failFlags noFault (cleanRun j l rows) i a d = raise .cvDp 0 i 0 d := by
  have hseal : sealSum j.block.xs rows ≠ sealDot j.seed j.off (partialSums j.fmt j.block.xs rows) := h
  simp [cleanRun_eq, failFlags, noFault, hseal]

/-! ### Arrays and stalls apart -/

theorem getArr_of_arrays {d d' : Dev} (h : d'.mkt.arrays = d.mkt.arrays) (a : Nat) : getArr d' a = getArr d a := by simp [getArr, h]

theorem getStall_of_stalls {d d' : Dev} (h : d'.mkt.stalls = d.mkt.stalls) (i : Nat) : getStall d' i = getStall d i := by simp [getStall, h]

theorem escWord_of_stalls {d d' : Dev} (h : d'.mkt.stalls = d.mkt.stalls) (e : Esc) : escWord d' e = escWord d e := by
  simp [escWord, getStall_of_stalls h]

theorem getArr_modArr_same (a : Nat) (f : Arr → Arr) (d : Dev) : getArr (modArr a f d) a = f (getArr d a) := getArr_setArr_same ..

theorem modArr_evs (a : Nat) (f : Arr → Arr) (d : Dev) : (modArr a f d).evs = d.evs := rfl

theorem modArr_faults (a : Nat) (f : Arr → Arr) (d : Dev) : (modArr a f d).faults = d.faults := rfl

theorem modArr_stalls (a : Nat) (f : Arr → Arr) (d : Dev) : (modArr a f d).mkt.stalls = d.mkt.stalls := rfl

/-! ### The word in hand -/

/-- Array a, whose stall and converters have their clocks (R14), escalates an MVM of a word of a script, on job j for ticket h. -/
structure Escalates (d : Dev) (nv : NonVol) (a : Nat) (e : Esc) (j : MvmJob) (h : Nat) : Prop where
  arith : arithOn d (stallOf a) = true
  conv : convOn d (stallOf a) = true
  esc : (getArr d a).esc = some e
  pat : e.pat = none
  guest : e.guest = false
  job : escJob d nv a e = some (j, h)

theorem escJob_of_word {d : Dev} {e : Esc} (nv : NonVol) (a : Nat) (hp : e.pat = none) (hg : e.guest = false) : escJob d nv a e =
    (escWord d e).bind fun w => (wordBlock d e.stall w).map fun b => (jobOf d nv e.stall w a e.plane b, slotHandle d e.stall w.slot) := by
  unfold escJob
  rw [hp, hg]
  cases escWord d e <;> rfl

theorem Escalates.nextCycle {d : Dev} {nv : NonVol} {a h : Nat} {e : Esc} {j : MvmJob} (hx : Escalates d nv a e j h) :
    Escalates (tickCycle d) nv a e j h := by
  refine ⟨hx.arith, hx.conv, hx.esc, hx.pat, hx.guest, ?_⟩
  rw [← hx.job, escJob_of_word nv a hx.pat hx.guest, escJob_of_word nv a hx.pat hx.guest]
  rfl

theorem Escalates.word {d : Dev} {nv : NonVol} {a h : Nat} {e : Esc} {j : MvmJob} (hx : Escalates d nv a e j h) :
    ∃ w, escWord d e = some w ∧ w.pos = e.word := by
  have hjob := hx.job
  rw [escJob_of_word nv a hx.pat hx.guest, Option.bind_eq_some_iff] at hjob
  obtain ⟨w, hw, -⟩ := hjob
  exact ⟨w, hw, by simpa using List.find?_some hw⟩

/-- The word's result is delivered, and the array has nothing more in hand. -/
theorem escDeliver_completes {d : Dev} {e : Esc} {w : Issued} (m : List Host.Cell) (a : Nat) (j : MvmJob) (sums : List Int)
    (hp : e.pat = none) (hg : e.guest = false) (hw : escWord d e = some w) (hpos : w.pos = e.word) :
    WordCompletes e.stall e.word (modArr a (fun x => { x with esc := none }) d) (escDeliver m a e j sums d) := by
  have hdone : escDeliver m a e j sums d = mvmDone m e.stall w j sums (modArr a (fun x => { x with esc := none }) d) := by
    unfold escDeliver
    simp only [hp, hw, hg, Bool.false_eq_true, if_false]
  rw [hdone, ← hpos]
  exact mvmDone_completes ..

/-! ### The retry (R63, R373) -/

/-- The record that the retry writes: before it delivers (stage 1), or before the audit path (stage 2). -/
def retryRec (a h stage : Nat) (e : Esc) (j : MvmJob) (d : Dev) : FaultRec := mvmRec e.kind stage (stallOf a) e.l j 0 h e.prior d

/-- A retry that matched, before it is counted: its grant is back, and its record is written. -/
def retryLogged (a h : Nat) (e : Esc) (j : MvmJob) (d : Dev) : Dev := capturedRec (retryRec a h 1 e j d) j (endGrant a d)

/-- A retry that matched, with its flag and its count. -/
def retryCounted (a h : Nat) (e : Esc) (j : MvmJob) (d : Dev) : Dev :=
  modArr a (fun x => { x with retries := x.retries + 1 }) (raise .chFault 0 (stallOf a) 0 (retryLogged a h e j d))

/-- A retry that failed on its seal: its grant is back, its flag is set, its record is written. -/
def retryFailed (a h : Nat) (e : Esc) (j : MvmJob) (d : Dev) : Dev :=
  capturedRec (retryRec a h 2 e j d) j (raise .cvDp 0 (stallOf a) 0 (endGrant a d))

theorem retryLogged_logged (a h : Nat) (e : Esc) (j : MvmJob) (d : Dev) : Logged (endGrant a d) (retryLogged a h e j d) := capturedRec_logged ..

theorem retryFailed_logged (a h : Nat) (e : Esc) (j : MvmJob) (d : Dev) :
    Logged (raise .cvDp 0 (stallOf a) 0 (endGrant a d)) (retryFailed a h e j d) := capturedRec_logged ..

theorem retryCounted_faults (a h : Nat) (e : Esc) (j : MvmJob) (d : Dev) : (retryCounted a h e j d).faults = (retryLogged a h e j d).faults := by
  rw [retryCounted, modArr_faults, raise_faults]

theorem retryCounted_evs (a h : Nat) (e : Esc) (j : MvmJob) (d : Dev) :
    (retryCounted a h e j d).evs = (raise .chFault 0 (stallOf a) 0 (retryLogged a h e j d)).evs := by rw [retryCounted, modArr_evs]

theorem retryCounted_stalls (a h : Nat) (e : Esc) (j : MvmJob) (d : Dev) : (retryCounted a h e j d).mkt.stalls = d.mkt.stalls := by
  rw [retryCounted, modArr_stalls, raise_mkt, (retryLogged_logged ..).mkt, endGrant, modArr_stalls]

theorem getArr_retryCounted (a h : Nat) (e : Esc) (j : MvmJob) (d : Dev) :
    getArr (retryCounted a h e j d) a = { getArr d a with grant := none, pooled := false, retries := (getArr d a).retries + 1 } := by
  rw [retryCounted, getArr_modArr_same, getArr_raise, getArr_of_arrays (congrArg _ (retryLogged_logged ..).mkt), endGrant, getArr_modArr_same]

theorem noFault_without_fp (c : Bool) : (if c = true then { noFault with fp := false } else noFault) = noFault := by cases c <;> rfl

theorem retryEnd_eq_retryWith {m : List Host.Cell} {nv : NonVol} {a h : Nat} {e : Esc} {j : MvmJob} {d : Dev} (hx : Escalates d nv a e j h)
    (hs : e.stage = 1) : retryEnd m nv a noFault d = retryWith m nv a e j h noFault d := by
  unfold retryEnd
  simp [hx.esc, hs, hx.job, hx.pat, noFault, storeRead]

/-- Without an error of its own the retry is the first run's conversion again, at the first run's L: with a good seal it delivers the
exact sums. -/
theorem retryWith_of_sealGood {nv : NonVol} {e : Esc} {j : MvmJob} {d : Dev} (m : List Host.Cell) (a h : Nat) (hp : e.pat = none)
    (hseal : SealGood j (jobRows d nv j)) : ∃ sums, sums = partialSums j.fmt j.block.xs (jobRows d nv j) ∧ retryWith m nv a e j h noFault d =
      if (getArr (escDeliver m a e j sums (retryCounted a h e j d)) a).retries = 8
      then suspect a e.kind (escDeliver m a e j sums (retryCounted a h e j d)) else escDeliver m a e j sums (retryCounted a h e j d) := by
  have hpass : (failKind noFault (cleanRun j (lOf e.l) (jobRows d nv j))).isNone = true := by rw [failKind_of_sealGood _ hseal]; rfl
  unfold cleanRun at hpass
  unfold retryWith
  simp only [hp, noFault_without_fp, hpass, Option.isNone_none, Bool.true_or, Bool.and_true]
  exact ⟨_, congrArg MvmRes.sums (cleanRun_eq ..), rfl⟩

theorem retryWith_of_not_sealGood {nv : NonVol} {e : Esc} {j : MvmJob} {d : Dev} (m : List Host.Cell) (a h : Nat) (hp : e.pat = none)
    (hseal : ¬ SealGood j (jobRows d nv j)) : retryWith m nv a e j h noFault d =
      modArr a (fun x => { x with esc := some { e with stage := 2, prior := (retryFailed a h e j d).faults.head } }) (retryFailed a h e j d) := by
  have hfail : (failKind noFault (cleanRun j (lOf e.l) (jobRows d nv j))).isNone = false := by rw [failKind_of_not_sealGood _ hseal]; rfl
  have hflags := failFlags_of_not_sealGood (lOf e.l) (stallOf a) a (endGrant a d) hseal
  unfold cleanRun at hfail hflags
  unfold retryWith
  simp only [hp, noFault_without_fp, hfail, hflags, Bool.false_and]
  rfl

/-! ### A suspect array (R373, R375) -/

/-- The copy of a suspect array starts, or finds no spare: the market stands. -/
theorem startCopy_keeps (a kind : Nat) (d : Dev) :
    (startCopy a kind d).mkt = d.mkt ∧ OnlyBits [(.chFault, 6), (.chFault, 8)] d (startCopy a kind d) := by
  have hlog : ∀ (r : FaultRec) (d' : Dev), d'.evs = d.evs → OnlyBits [(.chFault, 6), (.chFault, 8)] d (faultRec r d') := fun r d' he =>
    ((faultRec_logged r d').bits.after he).mono (by simp)
  unfold startCopy
  split
  · exact ⟨rfl, .refl d⟩
  · split
    · refine ⟨(raise_mkt ..).trans (faultRec_logged ..).mkt, (hlog _ d rfl).trans ((raise_onlyBits ..).mono (by simp))⟩
    · exact ⟨(faultRec_logged ..).mkt, hlog _ _ rfl⟩

/-- The array is marked, with its flag. -/
def markSuspect (a kind : Nat) (d : Dev) : Dev := raise .chFault 2 (stallOf a) 0 (modArr a (fun x => { x with suspect := true, suspKind := kind }) d)

theorem suspect_eq (a kind : Nat) (d : Dev) :
    suspect a kind d = if (getArr d a).suspect then d else startCopy a kind (markSuspect a kind d) := rfl

theorem markSuspect_bits (a kind : Nat) (d : Dev) : OnlyBits [(.chFault, 2)] d (markSuspect a kind d) := (raise_onlyBits ..).after rfl

/-- From d to d' array a may have become suspect: the stalls stand, and what the array has in hand. -/
structure Suspects (a : Nat) (d d' : Dev) : Prop where
  stalls : d'.mkt.stalls = d.mkt.stalls
  esc : (getArr d' a).esc = (getArr d a).esc
  bits : OnlyBits [(.chFault, 2), (.chFault, 6), (.chFault, 8)] d d'

theorem suspect_suspects (a kind : Nat) (d : Dev) : Suspects a d (suspect a kind d) ∧ (getArr (suspect a kind d) a).suspect = true := by
  rw [suspect_eq]
  split
  · exact ⟨⟨rfl, rfl, .refl d⟩, ‹_›⟩
  · obtain ⟨hmkt, hbits⟩ := startCopy_keeps a kind (markSuspect a kind d)
    have harr : getArr (startCopy a kind (markSuspect a kind d)) a = { getArr d a with suspect := true, suspKind := kind } := by
      rw [getArr_of_arrays (congrArg _ hmkt), markSuspect, getArr_raise, getArr_modArr_same]
    refine ⟨⟨?_, by rw [harr], .trans ((markSuspect_bits ..).mono (by simp)) (hbits.mono (by simp))⟩, by rw [harr]⟩
    rw [hmkt, markSuspect, raise_mkt, modArr_stalls]

/-! ### The audit path (R374, R375) -/

/-- A reading that passes its seal: its grant is back, and its flag is set. -/
def auditPassed (a : Nat) (d : Dev) : Dev := raise .chFault 1 (stallOf a) 0 (endGrant a d)

theorem auditPassed_stalls (a : Nat) (d : Dev) : (auditPassed a d).mkt.stalls = d.mkt.stalls := by
  rw [auditPassed, raise_mkt, endGrant, modArr_stalls]

theorem getArr_auditPassed (a : Nat) (d : Dev) : getArr (auditPassed a d) a = { getArr d a with grant := none, pooled := false } := by
  rw [auditPassed, getArr_raise, endGrant, getArr_modArr_same]

/-- The array is suspect where a failure led to the audit path. -/
def suspectAfter (a kind : Nat) (d : Dev) : Dev := if kind = 0 then d else suspect a kind d

theorem suspectAfter_suspects (a kind : Nat) (d : Dev) : Suspects a d (suspectAfter a kind d) ∧
    (kind ≠ 0 → (getArr (suspectAfter a kind d) a).suspect = true) ∧ (kind = 0 → suspectAfter a kind d = d) := by
  unfold suspectAfter
  obtain ⟨hkeeps, hsusp⟩ := suspect_suspects a kind d
  split
  · next hk => exact ⟨⟨rfl, rfl, .refl d⟩, fun hn => absurd hk hn, fun _ => rfl⟩
  · next hk => exact ⟨hkeeps, fun _ => hsusp, fun hz => absurd hz hk⟩

/-- The audit path reads the plane: with a good seal it delivers the exact sums. -/
theorem auditEnd_of_sealGood {nv : NonVol} {a h : Nat} {e : Esc} {j : MvmJob} {d : Dev} (m : List Host.Cell) (hx : Escalates d nv a e j h)
    (hs : e.stage = 2 ∨ e.stage = 3) (hg : (getArr d a).grant = some .verifyRead) (hseal : SealGood j (jobRead d nv j [])) :
    ∃ sums, sums = partialSums j.fmt j.block.xs (jobRead d nv j []) ∧ auditEnd m nv a [] d = suspectAfter a e.kind (escDeliver m a e j sums (auditPassed a d)) := by
  have hstage : ¬ (e.stage < 2 ∨ 3 < e.stage) := by omega
  have hsum : sealSum j.block.xs (jobRead d nv j []) = sealDot j.seed j.off (partialSums j.fmt j.block.xs (jobRead d nv j [])) := hseal
  unfold auditEnd
  simp only [hx.esc, hstage, hg, hx.job, hsum, ne_eq, not_true_eq_false, or_false, if_false, if_true]
  exact ⟨_, rfl, rfl⟩

/-- A first reading that fails its seal is read again. -/
theorem auditEnd_of_not_sealGood {nv : NonVol} {a h : Nat} {e : Esc} {j : MvmJob} {d : Dev} (m : List Host.Cell) (hx : Escalates d nv a e j h)
    (hs : e.stage = 2) (hg : (getArr d a).grant = some .verifyRead) (hseal : ¬ SealGood j (jobRead d nv j [])) :
    auditEnd m nv a [] d = modArr a (fun x => { x with esc := some { e with stage := 3 } }) (endGrant a d) := by
  have hstage : ¬ (e.stage < 2 ∨ 3 < e.stage) := by omega
  have hsum : ¬ sealSum j.block.xs (jobRead d nv j []) = sealDot j.seed j.off (partialSums j.fmt j.block.xs (jobRead d nv j [])) := hseal
  unfold auditEnd
  simp only [hx.esc, hstage, hg, hx.job, hsum, ne_eq, not_true_eq_false, or_false, if_false]
  rw [if_pos hs]

/-! ### The commands -/

section Completes
variable {a h : Nat} {e : Esc} {j : MvmJob} {s : State}

theorem Escalates.clocked_eq (hx : Escalates s.dev s.nv a e j h) (f : Dev → Dev) :
    clocked (fun d => arithOn d (stallOf a) && convOn d (stallOf a)) f (tickCycle s.dev) = f (tickCycle s.dev) :=
  if_pos (Bool.and_eq_true_iff.mpr ⟨hx.arith, hx.conv⟩)

theorem exec_escalationRetryEnd (hx : Escalates s.dev s.nv a e j h) (hs : e.stage = 1) :
    ∃ t, exec (.escalationRetryEnd a noFault) s = .next t ∧ SameStore s t ∧ t.dev = retryWith s.mem s.nv a e j h noFault (tickCycle s.dev) :=
  ⟨_, rfl, ⟨rfl, rfl, rfl⟩, (hx.clocked_eq _).trans (retryEnd_eq_retryWith hx.nextCycle hs)⟩

/-- A retry that matches is a record and a flag, counts against its array, and completes the word. -/
theorem retry_completes (hx : Escalates s.dev s.nv a e j h) (hs : e.stage = 1) (hseal : SealGood j (jobRead s.dev s.nv j []))
    (hn : (getArr s.dev a).retries + 1 ≠ 8) : ∃ t, exec (.escalationRetryEnd a noFault) s = .next t ∧ SameStore s t ∧ EventSeen .chFault 0 s t ∧
      (getArr t.dev a).esc = none ∧ (getArr t.dev a).retries = (getArr s.dev a).retries + 1 ∧ (getArr t.dev a).grant = none ∧
      WordGone e.stall e.word s t ∧ t.dev.faults.head = s.dev.faults.head + 1 := by
  obtain ⟨t, hexec, hstore, hdev⟩ := exec_escalationRetryEnd hx hs
  obtain ⟨w, hw, hpos⟩ := hx.nextCycle.word
  obtain ⟨sums, -, hrun⟩ := retryWith_of_sealGood (d := tickCycle s.dev) s.mem a h hx.pat hseal
  have hlog := retryLogged_logged a h e j (tickCycle s.dev)
  have hdone := escDeliver_completes s.mem a j sums hx.pat hx.guest (d := retryCounted a h e j (tickCycle s.dev))
    ((escWord_of_stalls (retryCounted_stalls ..) e).trans hw) hpos
  have harr := (getArr_of_arrays hdone.arrays a).trans (getArr_modArr_same ..)
  rw [getArr_retryCounted] at harr
  rw [hrun, if_neg (by rw [harr]; exact hn)] at hdev
  refine ⟨t, hexec, hstore, ?_, ?_, ?_, ?_, ?_, ?_⟩
  · have hbefore : OnlyBits [(.chFault, 8)] s.dev (retryLogged a h e j (tickCycle s.dev)) := hlog.bits.after (modArr_evs ..)
    have hafter : OnlyBits [(.cvQuant, 4)] (raise .chFault 0 (stallOf a) 0 (retryLogged a h e j (tickCycle s.dev))) t.dev := by
      rw [hdev]
      exact hdone.bits.after ((modArr_evs ..).trans (retryCounted_evs ..))
    exact eventSeen_of_onlyBits (by decide) hbefore (by decide) hafter (by decide)
  · rw [hdev, harr]
  · rw [hdev, harr]; rfl
  · rw [hdev, harr]
  · rw [WordGone, hdev, hdone.issued, getStall_of_stalls (modArr_stalls ..), getStall_of_stalls (retryCounted_stalls ..), getStall_tickCycle]
  · rw [hdev, hdone.faults, modArr_faults, retryCounted_faults, hlog.head, endGrant, modArr_faults, tickCycle_faults]

/-- A retry that fails on its seal is a record and a flag, and goes on to the audit path. -/
theorem retry_fails (hx : Escalates s.dev s.nv a e j h) (hs : e.stage = 1) (hseal : ¬ SealGood j (jobRead s.dev s.nv j [])) :
    ∃ t, exec (.escalationRetryEnd a noFault) s = .next t ∧ SameStore s t ∧ EventSeen .cvDp 0 s t ∧
      getArr t.dev a = { getArr s.dev a with grant := none, pooled := false, esc := some { e with stage := 2, prior := t.dev.faults.head } } ∧
      (getStall t.dev e.stall).issued = (getStall s.dev e.stall).issued ∧ t.dev.faults.head = s.dev.faults.head + 1 := by
  obtain ⟨t, hexec, hstore, hdev⟩ := exec_escalationRetryEnd hx hs
  rw [retryWith_of_not_sealGood (d := tickCycle s.dev) s.mem a h hx.pat hseal] at hdev
  have hlog := retryFailed_logged a h e j (tickCycle s.dev)
  have hfaults : t.dev.faults = (retryFailed a h e j (tickCycle s.dev)).faults := by rw [hdev]; rfl
  refine ⟨t, hexec, hstore, ?_, ?_, ?_, ?_⟩
  · have hbefore : OnlyBits [] s.dev (endGrant a (tickCycle s.dev)) := .of_evs rfl
    have hafter : OnlyBits [(.chFault, 8)] (raise .cvDp 0 (stallOf a) 0 (endGrant a (tickCycle s.dev))) t.dev := by
      rw [hdev]
      exact hlog.bits.trans (.of_evs rfl)
    exact eventSeen_of_onlyBits (by decide) hbefore (by decide) hafter (by decide)
  · rw [hfaults, hdev, getArr_modArr_same, getArr_of_arrays (congrArg _ hlog.mkt), getArr_raise, endGrant, getArr_modArr_same, getArr_tickCycle]
  · rw [hdev, getStall_of_stalls (modArr_stalls ..), getStall_of_stalls (congrArg _ hlog.mkt), getStall_raise, endGrant,
      getStall_of_stalls (modArr_stalls ..), getStall_tickCycle]
  · rw [hfaults, hlog.head, raise_faults, endGrant, modArr_faults, tickCycle_faults]

theorem exec_auditPathEnd (hx : Escalates s.dev s.nv a e j h) :
    ∃ t, exec (.auditPathEnd a []) s = .next t ∧ SameStore s t ∧ t.dev = auditEnd s.mem s.nv a [] (tickCycle s.dev) :=
  ⟨_, rfl, ⟨rfl, rfl, rfl⟩, hx.clocked_eq _⟩

/-- A reading that passes its seal completes the word, and makes the array suspect where a failure led to the audit path. -/
theorem audit_completes (hx : Escalates s.dev s.nv a e j h) (hs : e.stage = 2 ∨ e.stage = 3) (hg : (getArr s.dev a).grant = some .verifyRead)
    (hseal : SealGood j (jobRead s.dev s.nv j [])) : ∃ t, exec (.auditPathEnd a []) s = .next t ∧ SameStore s t ∧ EventSeen .chFault 1 s t ∧
      (getArr t.dev a).esc = none ∧ WordGone e.stall e.word s t ∧ (e.kind ≠ 0 → (getArr t.dev a).suspect = true) ∧
      (e.kind = 0 → (getArr t.dev a).suspect = (getArr s.dev a).suspect) := by
  obtain ⟨t, hexec, hstore, hdev⟩ := exec_auditPathEnd hx
  obtain ⟨w, hw, hpos⟩ := hx.nextCycle.word
  obtain ⟨sums, -, hrun⟩ := auditEnd_of_sealGood s.mem hx.nextCycle hs hg hseal
  rw [hrun] at hdev
  have hword := (escWord_of_stalls (auditPassed_stalls a (tickCycle s.dev)) e).trans hw
  have hdone := escDeliver_completes s.mem a j sums hx.pat hx.guest hword hpos
  have harr := (getArr_of_arrays hdone.arrays a).trans (getArr_modArr_same ..)
  rw [getArr_auditPassed] at harr
  obtain ⟨hkeeps, hsusp, hsame⟩ := suspectAfter_suspects a e.kind (escDeliver s.mem a e j sums (auditPassed a (tickCycle s.dev)))
  rw [← hdev] at hkeeps hsusp hsame
  refine ⟨t, hexec, hstore, ?_, ?_, ?_, hsusp, fun hk => ?_⟩
  · have hbefore : OnlyBits [] s.dev (endGrant a (tickCycle s.dev)) := .of_evs rfl
    have hdeliver : OnlyBits [(.cvQuant, 4)] (auditPassed a (tickCycle s.dev)) _ := hdone.bits.after rfl
    have hafter : OnlyBits [(.cvQuant, 4), (.chFault, 2), (.chFault, 6), (.chFault, 8)] (auditPassed a (tickCycle s.dev)) t.dev :=
      (hdeliver.mono (by simp)).trans (hkeeps.bits.mono (by simp))
    exact eventSeen_of_onlyBits (by decide) hbefore (by decide) hafter (by decide)
  · rw [hkeeps.esc, harr]
  · rw [WordGone, getStall_of_stalls hkeeps.stalls, hdone.issued, getStall_of_stalls (modArr_stalls ..), getStall_of_stalls (auditPassed_stalls ..),
      getStall_tickCycle]
  · rw [hsame hk, harr]
    rfl

/-- A first reading that fails its seal gives its grant back for the second, and is no record. -/
theorem audit_rereads (hx : Escalates s.dev s.nv a e j h) (hs : e.stage = 2) (hg : (getArr s.dev a).grant = some .verifyRead)
    (hseal : ¬ SealGood j (jobRead s.dev s.nv j [])) : ∃ t, exec (.auditPathEnd a []) s = .next t ∧ SameStore s t ∧
      getArr t.dev a = { getArr s.dev a with grant := none, pooled := false, esc := some { e with stage := 3 } } ∧ t.dev.faults = s.dev.faults := by
  obtain ⟨t, hexec, hstore, hdev⟩ := exec_auditPathEnd hx
  rw [auditEnd_of_not_sealGood s.mem hx.nextCycle hs hg hseal] at hdev
  refine ⟨t, hexec, hstore, ?_, ?_⟩
  · rw [hdev, getArr_modArr_same, endGrant, getArr_modArr_same, getArr_tickCycle]
  · rw [hdev]
    rfl

end Completes

/-- Settles O51, clause by clause: the retry that matches and the one that fails, the reading that passes its seal and the one that is read
again. -/
theorem escalationCompletes : Obligations.EscalationCompletes := by
  intro a h e j s x rows ha hc he hp hg hj
  have hx : Escalates s.dev s.nv a e j h := ⟨ha, hc, he, hp, hg, hj⟩
  exact ⟨retry_completes hx, retry_fails hx, audit_completes hx, audit_rereads hx⟩

end Sys2Proof.Machine
end

section
/-! Commands of a ring that complete at once (R406, R408), and the floor tables of EPOCH_SET (R121, R122). -/
namespace Sys2Proof.Machine

/-! ### A completion at once -/

/-- A command that its own rule completes at once, without a result, and not by a change of the rings or the outputs: its completion is
posted, and beside the host interface and the outputs the device is as the rule leaves it. -/
theorem answered_of_now {op : Nat} {c : Cmd} {s : State} {own : Dev → Dev × Verdict} {d' : Dev} {st : Status} (ha : Accepted op c s)
    (ho : own (entered c s) = (d', .now st 0)) (hhost : d'.host = (entered c s).host) (hout : d'.out = s.dev.out) :
    ∃ t, onDev (hostCmd op c own) s = .next t ∧ Answered c st 0 s t ∧ SameStore s t ∧
      t.dev = { d' with host := t.dev.host, out := t.dev.out } := by
  obtain ⟨h, o, hpost, hnew⟩ := post_parts c.ring c.opcode c.cid c.flags (getRing (entered c s) c.ring).head st 0 d'
  have hring : getRing d' c.ring = getRing (entered c s) c.ring := by simp [getRing, hhost]
  refine ⟨_, hostCmd_now ha ho, ?_, ⟨rfl, rfl, rfl⟩, by rw [hpost]⟩
  rw [ite_self, hout, hring, entered_ring] at hnew
  rw [Answered, postedBy, hpost, hnew]
  rfl

/-- A command that its own rule refuses changes the host interface and the outputs alone. -/
theorem answered_of_fail {op : Nat} {c : Cmd} {s : State} {own : Dev → Dev × Verdict} {st : Status} (ha : Accepted op c s)
    (ho : own (entered c s) = fail st (entered c s)) : ∃ t, onDev (hostCmd op c own) s = .next t ∧ Answered c st 0 s t ∧ HostOnly s t := by
  obtain ⟨t, hexec, hans, hstore, hdev⟩ := answered_of_now ha ho rfl rfl
  exact ⟨t, hexec, hans, hstore, hdev⟩

/-! ### Floor tables (R121) -/

/-- Writes at n keys in a row. -/
theorem mget_foldl_mset_range (f : Nat → Nat) (base n : Nat) (m : SMap Nat) (i : Nat) :
    mget ((List.range n).foldl (fun m k => mset m (base + k) 0 (f k)) m) i 0 =
      if base ≤ i ∧ i < base + n then f (i - base) else mget m i 0 := by
  induction n with
  | zero => rw [if_neg (by omega)]; rfl
  | succ n ih =>
    rw [List.range_succ, List.foldl_append, List.foldl_cons, List.foldl_nil]
    by_cases hi : i = base + n
    · rw [hi, mget_mset_same, if_pos (by omega), Nat.add_sub_cancel_left]
    · rw [mget_mset_ne _ _ _ hi, ih]
      exact ite_congr (propext (by omega)) (fun _ => rfl) fun _ => rfl

/-- Code k of a byte of a table. -/
def floorCode (b : Byte) (k : Nat) : Nat := bits b.toNat (2 * k + 1) (2 * k)

theorem floorCode_zero (k : Nat) : floorCode 0 k = 0 := by simp [floorCode, bits]

theorem unpackFloors_cons (base : Nat) (b : Byte) (bs : List Byte) (m : SMap Nat) :
    unpackFloors base (b :: bs) m = unpackFloors (base + 4) bs ((List.range 4).foldl (fun m k => mset m (base + k) 0 (floorCode b k)) m) := rfl

/-- The codes of the bytes bs, four in a byte, stand from key base on; every other key reads what it read. -/
theorem mget_unpackFloors (base : Nat) (bs : List Byte) (m : SMap Nat) (i : Nat) : mget (unpackFloors base bs m) i 0 =
    if base ≤ i ∧ i < base + 4 * bs.length then floorCode ((bs[(i - base) / 4]?).getD 0) ((i - base) % 4) else mget m i 0 := by
  induction bs generalizing base m with
  | nil => rw [if_neg (by simp)]; rfl
  | cons b bs ih =>
    rw [unpackFloors_cons, ih, mget_foldl_mset_range, List.length_cons]
    by_cases hfirst : base ≤ i ∧ i < base + 4
    · have hz : (i - base) / 4 = 0 := by omega
      rw [if_neg (by omega), if_pos hfirst, if_pos (by omega), hz, Nat.mod_eq_of_lt (by omega)]
      rfl
    · rw [if_neg hfirst]
      refine ite_congr (propext (by omega)) (fun hin => ?_) fun _ => rfl
      have hq : (i - base) / 4 = (i - (base + 4)) / 4 + 1 := by omega
      have hr : (i - base) % 4 = (i - (base + 4)) % 4 := by omega
      rw [hq, hr, List.getElem?_cons_succ]

/-- A table reads as its codes, and 0 behind its end. -/
theorem mget_unpackFloors_nil (bs : List Byte) (i : Nat) : mget (unpackFloors 0 bs []) i 0 = floorCode ((bs[i / 4]?).getD 0) (i % 4) := by
  rw [mget_unpackFloors]
  split
  · rfl
  · rw [List.getElem?_eq_none (by omega), Option.getD_none, floorCode_zero]
    rfl

/-! ### EPOCH_SET (R121, R122) -/

/-- The floor table that an EPOCH_SET names. -/
def floorTable (m : List Host.Cell) (c : Cmd) : List Byte := staged m (param c.params 12 4) 61440

/-- An EPOCH_SET in error: its number is not later, or its table is not in the staging area, or has a reserved code. -/
def EpochBad (m : List Host.Cell) (c : Cmd) (d : Dev) : Prop :=
  param c.params 8 4 ≤ d.epochs.cur ∨ 0x10000000 < param c.params 12 4 + 61440 ∨ (floorTable m c).any floorBad = true

/-- A ticket is pinned to an epoch before the present one. -/
def oldPinned (d : Dev) : Bool := d.epochs.pins.any fun e => decide (e.1 < d.epochs.cur) && decide (0 < e.2)

/-- The epoch stands ready for the next bell, with its table. -/
def epochArmed (m : List Host.Cell) (c : Cmd) (d : Dev) : Dev :=
  { d with epochs := { d.epochs with next := some (param c.params 8 4, unpackFloors 0 (floorTable m c) []) } }

theorem epochSet_of_bad {m : List Host.Cell} {c : Cmd} {d : Dev} (h : EpochBad m c d) : epochSet m c d = fail .badArg d := by
  unfold epochSet
  obtain hcur | hoff | hcode := h
  · exact if_pos (.inl hcur)
  · exact if_pos (.inr hoff)
  · exact (congrArg _ (if_pos hcode)).trans (ite_self _)

theorem epochSet_of_good {m : List Host.Cell} {c : Cmd} {d : Dev} (h : ¬ EpochBad m c d) :
    epochSet m c d = if oldPinned d then fail .busy d else ok0 (epochArmed m c d) := by
  unfold EpochBad at h
  rw [← or_assoc, not_or] at h
  obtain ⟨hplace, hcodes⟩ := h
  unfold epochSet
  exact (if_neg hplace).trans (if_neg hcodes)

theorem epochSet_completes {c : Cmd} {s : State} (ha : Accepted 0x21 c s) :
    (¬ EpochBad s.mem c s.dev → oldPinned s.dev = false → ∃ t f, exec (.epochSet c) s = .next t ∧ Answered c .ok 0 s t ∧ SameStore s t ∧
      t.dev = { s.dev with cycle := s.dev.cycle + 1, host := t.dev.host, out := t.dev.out,
                           epochs := { s.dev.epochs with next := some (param c.params 8 4, f) } } ∧
      ∀ i, mget f i 0 = floorCode (((floorTable s.mem c)[i / 4]?).getD 0) (i % 4)) ∧
    (EpochBad s.mem c s.dev → ∃ t, exec (.epochSet c) s = .next t ∧ Answered c .badArg 0 s t ∧ HostOnly s t) ∧
    (¬ EpochBad s.mem c s.dev → oldPinned s.dev = true → ∃ t, exec (.epochSet c) s = .next t ∧ Answered c .busy 0 s t ∧ HostOnly s t) := by
  refine ⟨fun hgood hpin => ?_, fun hbad => ?_, fun hgood hpin => ?_⟩
  · have hown : epochSet s.mem c (entered c s) = ok0 (epochArmed s.mem c (entered c s)) :=
      (epochSet_of_good (d := entered c s) hgood).trans (if_neg (by rw [show oldPinned (entered c s) = false from hpin]; decide))
    obtain ⟨t, hexec, hans, hstore, hdev⟩ := answered_of_now ha hown rfl rfl
    exact ⟨t, _, hexec, hans, hstore, hdev, mget_unpackFloors_nil _⟩
  · exact answered_of_fail ha (epochSet_of_bad (d := entered c s) hbad)
  · exact answered_of_fail ha ((epochSet_of_good (d := entered c s) hgood).trans (if_pos hpin))

/-- Settles O33: an error is found before the pins are looked at, and the armed table reads as the staged codes. -/
theorem epochSetCompletes : Obligations.EpochSetCompletes := by
  intro c s b bad pinnedOld ha
  obtain ⟨hok, hbad, hbusy⟩ := epochSet_completes ha
  refine ⟨fun hgood hpin => ?_, hbad, hbusy⟩
  obtain ⟨t, f, hexec, hans, hstore, hdev, hfloors⟩ := hok hgood hpin
  exact ⟨t, f, hexec, hans, hstore, hdev, fun i _ => hfloors i⟩

end Sys2Proof.Machine
end

section
/-! Audits and pattern tests (R128-R130, R388-R390): what a sample and a test take from the device does not change with the counts and
grants that they change, and what each of them leaves. -/
namespace Sys2Proof.Machine

/-! ### Blocks and planes apart -/

theorem setLine_store {d d' : Dev} (h : d'.mkt.store = d.mkt.store) (i l : Nat) (v : Line) :
    (setLine d' i l v).mkt.store = (setLine d i l v).mkt.store := by
  unfold setLine
  split
  · exact congrArg (mset · _ _ _) h
  · exact h

theorem setLines_store {d d' : Dev} (h : d'.mkt.store = d.mkt.store) (i l : Nat) (ls : List Line) :
    (setLines d' i l ls).mkt.store = (setLines d i l ls).mkt.store := by
  unfold setLines
  generalize ls.zipIdx = es
  induction es generalizing d d' with
  | nil => exact h
  | cons e es ih => exact ih (setLine_store h ..)

theorem readBlock_of_store {d d' : Dev} (h : d'.mkt.store = d.mkt.store) (i l : Nat) : readBlock d' i l = readBlock d i l := by
  have hline : getLine d' = getLine d := by funext i l; simp only [getLine, h]
  unfold readBlock getLines
  rw [hline]

/-- A block is read from its lines, whatever the device but for its stores. -/
theorem blockOf_of_store {d d' : Dev} (h : d'.mkt.store = d.mkt.store) (ls : List Line) : blockOf d' ls = blockOf d ls :=
  readBlock_of_store (setLines_store h ..) ..

theorem patBlock_of_store {d d' : Dev} (h : d'.mkt.store = d.mkt.store) (e : List Byte) : patBlock d' e = patBlock d e := blockOf_of_store h _

/-- From d to d' the plan, the redirects and the generations' maps stand. -/
structure MapsStand (d d' : Dev) : Prop where
  plan : d'.plan = d.plan
  net : d'.net = d.net
  stock : d'.stock = d.stock

theorem MapsStand.usesOf {d d' : Dev} (h : MapsStand d d') (a p : Nat) : usesOf d' a p = Machine.usesOf d a p := by
  have hphys : physArr d' = physArr d := by funext a; rw [physArr, h.net, physArr]
  rw [Machine.usesOf, hphys, h.stock, Machine.usesOf]

theorem MapsStand.planeFormat {d d' : Dev} (h : MapsStand d d') (a p : Nat) : planeFormat d' a p = Machine.planeFormat d a p := by
  simp only [Machine.planeFormat, h.usesOf, chunkMap, theDoc, h.plan]

/-! ### An audit's sample (R128-R130) -/

/-- The sample is pending no more, and its array's grant is back. -/
def sampleTaken (i : Nat) (q : Audit) (rest : List Audit) (d : Dev) : Dev := endGrant q.array (modStall i (fun x => { x with audits := rest }) d)

/-- The worst ratio of a sample, against the plane as its array holds it. -/
def sampleRatio (nv : NonVol) (q : Audit) (blk : Block) (d : Dev) : Nat :=
  auditWorst (planeFormat d q.array q.plane) blk q.sums (readPlane nv.cells (getArr d q.array).remaps [] q.array q.plane)

/-- The plane of the sample, for the record of a ratio above 1. -/
def sampleJob (nv : NonVol) (q : Audit) (blk : Block) (d : Dev) : MvmJob :=
  { array := q.array, plane := q.plane, fmt := planeFormat d q.array q.plane, off := 0, seed := tagSeed nv.cells q.array q.plane, block := blk }

/-- One sample more, and the worst ratio with its stall. -/
def sampleCounted (i rho : Nat) (d : Dev) : Dev :=
  let mk := { d.mkt with auditSamples := (d.mkt.auditSamples + 1) % 2 ^ 32 }
  { d with mkt := if mk.worst < min 0xFFFF rho then { mk with worst := min 0xFFFF rho, worstStall := i } else mk }

/-- A ratio above 1 is a flag, and, where the block has no saturated element, a record (R129). -/
def ratioTold (i : Nat) (q : Audit) (blk : Block) (j : MvmJob) (rho : Nat) (d : Dev) : Dev :=
  if rho ≤ 4096 then d else
  let d := raise .cvQuant 3 i 0 d
  if 0 < blk.nSat then d else capturedRec { mvmRec 15 7 i q.lStep j 0 q.ticket 0 d with unit := 5 } j d

/-- The oldest pending sample of stall i is q, its array holds its grant, and the vector unit has no word ready (R130). -/
structure SampleDue (d : Dev) (i : Nat) (q : Audit) (rest : List Audit) (blk : Block) : Prop where
  oldest : (getStall d i).audits = q :: rest
  grant : (getArr d q.array).grant = some .verifyRead
  noWord : unitWord d i (fun y => decide (y.op = 3)) = none
  notFenced : d.net.fenced.contains i = false
  block : blockOf d q.lines = some blk

theorem SampleDue.nextCycle {d : Dev} {i : Nat} {q : Audit} {rest : List Audit} {blk : Block} (h : SampleDue d i q rest blk) :
    SampleDue (tickCycle d) i q rest blk := by
  have hstore : (tickCycle d).mkt.store = d.mkt.store := rfl
  exact ⟨h.oldest, h.grant, h.noWord, h.notFenced, (blockOf_of_store hstore _).trans h.block⟩

theorem sampleRatio_sampleTaken (nv : NonVol) (i : Nat) (q : Audit) (rest : List Audit) (blk : Block) (d : Dev) :
    sampleRatio nv q blk (sampleTaken i q rest d) = sampleRatio nv q blk d := by
  have hmaps : MapsStand d (sampleTaken i q rest d) := ⟨rfl, rfl, rfl⟩
  rw [sampleRatio, hmaps.planeFormat, sampleTaken, endGrant, getArr_modArr_same]
  rfl

theorem auditRun_of_due {nv : NonVol} {i : Nat} {q : Audit} {rest : List Audit} {blk : Block} {d : Dev} (h : SampleDue d i q rest blk) :
    auditRun nv i d = ratioTold i q blk (sampleJob nv q blk (sampleTaken i q rest d)) (sampleRatio nv q blk d)
      (sampleCounted i (sampleRatio nv q blk d) (sampleTaken i q rest d)) := by
  have hstore : (sampleTaken i q rest d).mkt.store = d.mkt.store := rfl
  have hblock : blockOf (sampleTaken i q rest d) q.lines = some blk := (blockOf_of_store hstore _).trans h.block
  rw [← sampleRatio_sampleTaken nv i q rest blk d]
  unfold auditRun
  simp only [h.oldest, h.grant, h.noWord, h.notFenced, ne_eq, not_true_eq_false, decide_false, Option.isSome_none, Bool.or_self,
    Bool.false_eq_true, if_false]
  unfold sampleTaken at hblock
  rw [hblock]
  rfl

/-- Of the market, a sample's count and ratio leave the stalls and the arrays. -/
theorem sampleCounted_keeps (i rho : Nat) (d : Dev) : (sampleCounted i rho d).mkt.stalls = d.mkt.stalls ∧
    (sampleCounted i rho d).mkt.arrays = d.mkt.arrays ∧ (sampleCounted i rho d).mkt.auditSamples = (d.mkt.auditSamples + 1) % 2 ^ 32 := by
  unfold sampleCounted
  simp only []
  split <;> exact ⟨rfl, rfl, rfl⟩

theorem ratioTold_mkt (i : Nat) (q : Audit) (blk : Block) (j : MvmJob) (rho : Nat) (d : Dev) : (ratioTold i q blk j rho d).mkt = d.mkt := by
  unfold ratioTold
  split
  · rfl
  · simp only []
    split
    · exact raise_mkt ..
    · exact (capturedRec_logged ..).mkt.trans (raise_mkt ..)

theorem ratioTold_bits {rho : Nat} (i : Nat) (q : Audit) (blk : Block) (j : MvmJob) (d : Dev) (h : 4096 < rho) :
    OnlyBits [(.chFault, 8)] (raise .cvQuant 3 i 0 d) (ratioTold i q blk j rho d) := by
  unfold ratioTold
  rw [if_neg (by omega)]
  simp only []
  split
  · exact .refl _
  · exact (capturedRec_logged ..).bits

theorem exec_auditSample {i : Nat} {s : State} (ha : arithOn s.dev i = true) (hc : convOn s.dev i = true) :
    ∃ t, exec (.auditSample { stall := i, e := .clean }) s = .next t ∧ SameStore s t ∧ t.dev = auditRun s.nv i (tickCycle s.dev) :=
  ⟨_, rfl, ⟨rfl, rfl, rfl⟩, if_pos (Bool.and_eq_true_iff.mpr ⟨ha, hc⟩)⟩

/-- A pending sample is computed and counted, and a ratio above 1 is a flag. -/
theorem sample_completes {i : Nat} {q : Audit} {rest : List Audit} {blk : Block} {s : State} (h : SampleDue s.dev i q rest blk)
    (ha : arithOn s.dev i = true) (hc : convOn s.dev i = true) :
    ∃ t, exec (.auditSample { stall := i, e := .clean }) s = .next t ∧ SameStore s t ∧ (getStall t.dev i).audits = rest ∧
      t.dev.mkt.auditSamples = (s.dev.mkt.auditSamples + 1) % 2 ^ 32 ∧ (getArr t.dev q.array).grant = none ∧
      (4096 < sampleRatio s.nv q blk s.dev → EventSeen .cvQuant 3 s t) := by
  obtain ⟨t, hexec, hstore, hdev⟩ := exec_auditSample ha hc
  have hratio : sampleRatio s.nv q blk (tickCycle s.dev) = sampleRatio s.nv q blk s.dev := rfl
  rw [auditRun_of_due h.nextCycle, hratio] at hdev
  generalize sampleJob s.nv q blk (sampleTaken i q rest (tickCycle s.dev)) = j at hdev
  generalize sampleRatio s.nv q blk s.dev = rho at hdev ⊢
  obtain ⟨hstalls, harrays, hsamples⟩ := sampleCounted_keeps i rho (sampleTaken i q rest (tickCycle s.dev))
  have hmkt : t.dev.mkt = (sampleCounted i rho (sampleTaken i q rest (tickCycle s.dev))).mkt := by rw [hdev, ratioTold_mkt]
  refine ⟨t, hexec, hstore, ?_, ?_, ?_, fun hrho => ?_⟩
  · rw [getStall_of_stalls ((congrArg _ hmkt).trans hstalls), sampleTaken, endGrant, getStall_of_stalls (modArr_stalls ..), modStall,
      getStall_setStall_same]
  · rw [hmkt, hsamples]
    rfl
  · rw [getArr_of_arrays ((congrArg _ hmkt).trans harrays), sampleTaken, endGrant, getArr_modArr_same]
  · have hcounted : OnlyBits [] s.dev (sampleCounted i rho (sampleTaken i q rest (tickCycle s.dev))) := .of_evs rfl
    have htold := ratioTold_bits i q blk j (sampleCounted i rho (sampleTaken i q rest (tickCycle s.dev))) hrho
    rw [← hdev] at htold
    exact eventSeen_of_onlyBits (by decide) hcounted (by decide) htold (by decide)

/-! ### An array's pattern test (R388, R389) -/

/-- Array a, whose set of patterns has entries for arrays, has its grant for a test on a stocked plane, and nothing to escalate. -/
structure PatternDue (d : Dev) (a : Nat) (ps : PatSet) : Prop where
  grant : (getArr d a).grant = some .pattern
  pats : d.mkt.pats = some ps
  entries : patKind ps 0 ≠ []
  planes : stockedPlanes d a ≠ []
  noShelf : isShelf a = false
  noEsc : (getArr d a).esc = none

/-- The test's plane: the stocked planes take turns. -/
def testPlane (d : Dev) (a : Nat) : Nat := ((stockedPlanes d a)[(getArr d a).patTests % (stockedPlanes d a).length]?).getD 0

/-- The test's entry: so do the array entries of the set. -/
def testEntry (d : Dev) (a : Nat) (ps : PatSet) : Nat := (getArr d a).patTests % (patKind ps 0).length

/-- One test more of the array, and the sweeps that it may complete. -/
def testCounted (a : Nat) (d : Dev) : Dev := patSweep (modArr a (fun x => { x with patTests := x.patTests + 1 }) d)

theorem patSweep_parts (d : Dev) : ∃ n, patSweep d = { d with mkt := { d.mkt with patSweeps := n } } := by
  unfold patSweep
  split
  · exact ⟨_, rfl⟩
  · simp only []
    generalize List.foldl min (2 ^ 32) _ = done
    split
    · exact ⟨_, rfl⟩
    · exact ⟨_, rfl⟩

theorem testCounted_parts (a : Nat) (d : Dev) : ∃ n, testCounted a d =
    { d with mkt := { d.mkt with arrays := (modArr a (fun x => { x with patTests := x.patTests + 1 }) d).mkt.arrays, patSweeps := n } } :=
  patSweep_parts _

theorem getArr_testCounted (a : Nat) (d : Dev) : getArr (testCounted a d) a = { getArr d a with patTests := (getArr d a).patTests + 1 } := by
  obtain ⟨n, hparts⟩ := testCounted_parts a d
  rw [getArr_of_arrays (d := modArr a (fun x => { x with patTests := x.patTests + 1 }) d) (by rw [hparts]), getArr_modArr_same]

/-- What a test runs on: the maps, the set, the stores and the array's ladder step. -/
theorem patJob_of_maps {d d' : Dev} {a : Nat} (nv : NonVol) (pl e : Nat) (hmaps : MapsStand d d') (hpats : d'.mkt.pats = d.mkt.pats)
    (hstore : d'.mkt.store = d.mkt.store) (hl : (getArr d' a).lStep = (getArr d a).lStep) : patJob d' nv a pl e = patJob d nv a pl e := by
  have hblock : patBlock d' = patBlock d := funext (patBlock_of_store hstore)
  simp only [patJob, hmaps.usesOf, hmaps.planeFormat, hpats, hblock, hl]

/-- Counting a test changes nothing of the test. -/
theorem patJob_testCounted (nv : NonVol) (a pl e : Nat) (d : Dev) : patJob (testCounted a d) nv a pl e = patJob d nv a pl e := by
  have hl : (getArr (testCounted a d) a).lStep = (getArr d a).lStep := by rw [getArr_testCounted]
  obtain ⟨n, hparts⟩ := testCounted_parts a d
  rw [hparts] at hl ⊢
  exact patJob_of_maps nv pl e ⟨rfl, rfl, rfl⟩ rfl rfl hl

theorem patJob_tickCycle (nv : NonVol) (a pl e : Nat) (d : Dev) : patJob (tickCycle d) nv a pl e = patJob d nv a pl e :=
  patJob_of_maps nv pl e ⟨rfl, rfl, rfl⟩ rfl rfl rfl

theorem jobRows_testCounted (nv : NonVol) (a : Nat) (j : MvmJob) (d : Dev) : jobRows (testCounted a d) nv j = jobRows d nv j := by
  obtain ⟨n, hparts⟩ := testCounted_parts a d
  have hremaps : (getArr (testCounted a d) j.array).remaps = (getArr d j.array).remaps := by
    rw [getArr_of_arrays (d := modArr a (fun x => { x with patTests := x.patTests + 1 }) d) (by rw [hparts])]
    by_cases ha : j.array = a
    · rw [ha, getArr_modArr_same]
    · rw [modArr, getArr_setArr_ne _ _ _ ha]
  rw [jobRows, hremaps, jobRows]

theorem patRun_of_due {nv : NonVol} {a : Nat} {ps : PatSet} {d : Dev} (h : PatternDue d a ps)
    (hseal : ∀ j l, patJob d nv a (testPlane d a) (testEntry d a ps) = some (j, l) → SealGood j (jobRows d nv j)) :
    patRun nv a noFault d = endGrant a (testCounted a d) := by
  have hplanes : (stockedPlanes d a).isEmpty = false := by simpa using h.planes
  unfold patRun
  simp only [h.grant, h.pats, h.noShelf, h.noEsc, List.length_eq_zero_iff, h.entries, hplanes, ne_eq, not_true_eq_false, decide_false,
    Option.isSome_none, Bool.or_self, Bool.false_eq_true, if_false]
  rw [show patSweep (modArr a (fun x => { x with patTests := x.patTests + 1 }) d) = testCounted a d from rfl, patJob_testCounted]
  unfold testPlane testEntry at hseal
  split
  · rfl
  · next j l hjob =>
    have hgood : SealGood j (jobRows (testCounted a d) nv j) := by rw [jobRows_testCounted]; exact hseal j l hjob
    have hkind : (failKind noFault (cleanRun j (lOf l) (jobRows (testCounted a d) nv j))).isNone = true := by
      rw [failKind_of_sealGood _ hgood]
      rfl
    exact if_pos ⟨hkind, congrArg MvmRes.sums (cleanRun_eq ..)⟩

theorem exec_patternTest {a : Nat} {s : State} (ha : arithOn s.dev (stallOf a) = true) (hc : convOn s.dev (stallOf a) = true) :
    ∃ t, exec (.patternTest a noFault) s = .next t ∧ SameStore s t ∧ t.dev = patRun s.nv a noFault (tickCycle s.dev) :=
  ⟨_, rfl, ⟨rfl, rfl, rfl⟩, if_pos (Bool.and_eq_true_iff.mpr ⟨ha, hc⟩)⟩

theorem PatternDue.nextCycle {d : Dev} {a : Nat} {ps : PatSet} (h : PatternDue d a ps) : PatternDue (tickCycle d) a ps :=
  ⟨h.grant, h.pats, h.entries, h.planes, h.noShelf, h.noEsc⟩

/-- A test that passes is counted, gives its grant back and is no record. -/
theorem pattern_completes {a : Nat} {ps : PatSet} {s : State} (h : PatternDue s.dev a ps) (ha : arithOn s.dev (stallOf a) = true)
    (hc : convOn s.dev (stallOf a) = true)
    (hseal : ∀ j l, patJob s.dev s.nv a (testPlane s.dev a) (testEntry s.dev a ps) = some (j, l) → SealGood j (jobRows s.dev s.nv j)) :
    ∃ t, exec (.patternTest a noFault) s = .next t ∧ SameStore s t ∧ (getArr t.dev a).patTests = (getArr s.dev a).patTests + 1 ∧
      (getArr t.dev a).grant = none ∧ (getArr t.dev a).esc = none ∧ t.dev.faults = s.dev.faults := by
  obtain ⟨t, hexec, hstore, hdev⟩ := exec_patternTest ha hc
  have hgood : ∀ j l, patJob (tickCycle s.dev) s.nv a (testPlane s.dev a) (testEntry s.dev a ps) = some (j, l) →
      SealGood j (jobRows s.dev s.nv j) := by
    simpa only [patJob_tickCycle] using hseal
  rw [patRun_of_due h.nextCycle hgood] at hdev
  have harr : getArr t.dev a = { getArr s.dev a with patTests := (getArr s.dev a).patTests + 1, grant := none, pooled := false } := by
    rw [hdev, endGrant, getArr_modArr_same, getArr_testCounted, getArr_tickCycle]
  refine ⟨t, hexec, hstore, ?_, ?_, ?_, ?_⟩
  · rw [harr]
  · rw [harr]
  · rw [harr]
    exact h.noEsc
  · obtain ⟨n, hparts⟩ := testCounted_parts a (tickCycle s.dev)
    rw [hdev, endGrant, modArr_faults, hparts, tickCycle_faults]

/-! ### A datapath pattern (R390) -/

/-- Stall i has entry y, the n-th for datapaths, in its set; its pattern store holds the data, and no word of the units is ready. -/
structure DatapathDue (d : Dev) (i n : Nat) (ps : PatSet) (y : List Byte) : Prop where
  pats : d.mkt.pats = some ps
  entry : (patKind ps 1)[n]? = some y
  stall : i < 1920
  data : d.mkt.patData = true
  notFenced : d.net.fenced.contains i = false
  noWord : unitWord d i (fun z => decide (z.op = 3) || decide (z.op = 4)) = none

theorem DatapathDue.nextCycle {d : Dev} {i n : Nat} {ps : PatSet} {y : List Byte} (h : DatapathDue d i n ps y) :
    DatapathDue (tickCycle d) i n ps y :=
  ⟨h.pats, h.entry, h.stall, h.data, h.notFenced, h.noWord⟩

/-- The record of a pattern that failed, of the vector unit or the requantiser. -/
def datapathRec (i : Nat) (y : List Byte) (d : Dev) : FaultRec := stallRec 18 0 (if leAt y 1 1 = 7 then 4 else 5) i d

theorem datapathRun_of_pass {d : Dev} {i n : Nat} {ps : PatSet} {y : List Byte} (h : DatapathDue d i n ps y) : datapathRun i n 0 d = d := by
  unfold datapathRun
  simp only [h.pats, h.entry, decide_true, Bool.or_true, if_true]

theorem datapathRun_of_firstFail {d : Dev} {i n : Nat} {ps : PatSet} {y : List Byte} (h : DatapathDue d i n ps y) :
    datapathRun i n 1 d = faultRec (datapathRec i y d) (raise .chFault 7 i 0 d) := by
  unfold datapathRun
  simp only [h.pats, h.entry, h.stall, h.data, h.notFenced, h.noWord, decide_true, Bool.not_true, Option.isSome_none, Nat.one_ne_zero,
    decide_false, Bool.or_self, Bool.false_eq_true, if_false, if_true]
  rfl

theorem exec_datapathPatternRun {i : Nat} {s : State} (n fails : Nat) (ha : arithOn s.dev i = true) :
    ∃ t, exec (.datapathPatternRun i n fails) s = .next t ∧ t = { s with dev := datapathRun i n fails (tickCycle s.dev) } :=
  ⟨_, rfl, congrArg (fun d => { s with dev := d }) (if_pos ha)⟩

/-- A pattern that passes leaves nothing; one that fails once is a flag and a record. -/
theorem datapath_completes {i n : Nat} {ps : PatSet} {y : List Byte} {s : State} (h : DatapathDue s.dev i n ps y)
    (ha : arithOn s.dev i = true) :
    (∃ t, exec (.datapathPatternRun i n 0) s = .next t ∧ Nothing s t) ∧
    (∃ t, exec (.datapathPatternRun i n 1) s = .next t ∧ SameStore s t ∧ EventSeen .chFault 7 s t ∧ t.dev.faults.head = s.dev.faults.head + 1 ∧
      t.dev.mkt = s.dev.mkt) := by
  obtain ⟨t, hpass, ht⟩ := exec_datapathPatternRun n 0 ha
  obtain ⟨u, hfail, hu⟩ := exec_datapathPatternRun n 1 ha
  rw [datapathRun_of_pass h.nextCycle] at ht
  rw [datapathRun_of_firstFail h.nextCycle] at hu
  have hlog := faultRec_logged (datapathRec i y (tickCycle s.dev)) (raise .chFault 7 i 0 (tickCycle s.dev))
  refine ⟨⟨t, hpass, ht⟩, u, hfail, ?_, ?_, ?_, ?_⟩
  · rw [hu]
    exact ⟨rfl, rfl, rfl⟩
  · have hbefore : OnlyBits [] s.dev (tickCycle s.dev) := .of_evs rfl
    have hafter := hlog.bits
    rw [show faultRec _ _ = u.dev from by rw [hu]] at hafter
    exact eventSeen_of_onlyBits (by decide) hbefore (by decide) hafter (by decide)
  · rw [hu, hlog.head, raise_faults, tickCycle_faults]
  · rw [hu, hlog.mkt, raise_mkt, tickCycle_mkt]

/-- Settles O52, clause by clause: the sample, the array's test, and the datapath's pattern that passes or fails once. -/
theorem auditsAndPatternTestsComplete : Obligations.AuditsAndPatternTestsComplete := by
  intro i a n q blk rest ps s x
  exact ⟨fun ho hg hw hf ha hc hb => sample_completes ⟨ho, hg, hw, hf, hb⟩ ha hc,
    fun hg ha hc hp he hpl hsh hesc hseal => pattern_completes ⟨hg, hp, he, hpl, hsh, hesc⟩ ha hc hseal,
    fun y hp hy hi hdata ha hf hw => datapath_completes ⟨hp, hy, hi, hdata, hf, hw⟩ ha⟩

end Sys2Proof.Machine
end

section
/-! What the host sees of the device (R406, R408, R412): its state, its rings and the completions posted. Serving, paging, sending and
events leave the three as they are. -/
namespace Sys2Proof.Machine

/-- The rings, and the completions posted. -/
def ringView (d : Dev) : SMap Ring × List Out := (d.host.rings, d.out.filter isCompletion)

/-- What a completion shows: the device's state, and what the rings hold. -/
def hostView (d : Dev) : DevState × SMap Ring × List Out := (d.state, ringView d)

theorem ringView_of_hostView {d d' : Dev} (h : hostView d' = hostView d) : ringView d' = ringView d := (Prod.mk.inj h).2
theorem posted_of_ringView {d d' : Dev} (h : ringView d' = ringView d) : d'.out.filter isCompletion = d.out.filter isCompletion := (Prod.mk.inj h).2
theorem rings_of_ringView {d d' : Dev} (h : ringView d' = ringView d) : d'.host.rings = d.host.rings := (Prod.mk.inj h).1
theorem state_of_hostView {d d' : Dev} (h : hostView d' = hostView d) : d'.state = d.state := (Prod.mk.inj h).1

/-! ### Branches and folds -/

@[simp] theorem hostView_ite (c : Prop) [Decidable c] (d d' : Dev) : hostView (if c then d else d') = if c then hostView d else hostView d' :=
  apply_ite hostView c d d'

@[simp] theorem hostView_foldl {α : Type} {f : Dev → α → Dev} (h : ∀ d a, hostView (f d a) = hostView d) (as : List α) (d : Dev) :
    hostView (as.foldl f d) = hostView d :=
  List.foldlRecOn (motive := fun d' : Dev => hostView d' = hostView d) _ _ rfl fun _ hd a _ => (h _ a).trans hd

/-- A change that may be refused, and then is not made. -/
theorem hostView_getD {o : Option Dev} {d : Dev} (h : ∀ d', o = some d' → hostView d' = hostView d) : hostView (o.getD d) = hostView d := by
  cases o with
  | none => rfl
  | some d' => exact h d' rfl

/-! ### Named parts of the device -/

@[simp] theorem hostView_tickCycle (d : Dev) : hostView (tickCycle d) = hostView d := by rfl
@[simp] theorem hostView_setDom (d : Dev) (k : Nat) (x : Dom) : hostView (setDom d k x) = hostView d := by rfl
@[simp] theorem hostView_modDom (k : Nat) (f : Dom → Dom) (d : Dev) : hostView (modDom k f d) = hostView d := by rfl
@[simp] theorem hostView_modArr (a : Nat) (f : Arr → Arr) (d : Dev) : hostView (modArr a f d) = hostView d := by rfl
@[simp] theorem hostView_modStall (i : Nat) (f : Stall → Stall) (d : Dev) : hostView (modStall i f d) = hostView d := by rfl
@[simp] theorem hostView_setPart (d : Dev) (p : Nat) (x : Part) : hostView (setPart d p x) = hostView d := by rfl
@[simp] theorem hostView_modPart (p : Nat) (f : Part → Part) (d : Dev) : hostView (modPart p f d) = hostView d := by rfl
@[simp] theorem hostView_setChan (d : Dev) (p c : Nat) (x : Chan) : hostView (setChan d p c x) = hostView d := by rfl
@[simp] theorem hostView_modFlow (f : Nat) (g : Flow → Flow) (d : Dev) : hostView (modFlow f g d) = hostView d := by rfl
@[simp] theorem hostView_modSub (n m : Nat) (f : SubPort → SubPort) (d : Dev) : hostView (modSub n m f d) = hostView d := by rfl
@[simp] theorem hostView_portCount (n k : Nat) (d : Dev) : hostView (portCount n k d) = hostView d := by rfl
@[simp] theorem hostView_tgCount (k n : Nat) (d : Dev) : hostView (tgCount k n d) = hostView d := by rfl
@[simp] theorem hostView_modSrv (f : Serving → Serving) (d : Dev) : hostView (modSrv f d) = hostView d := by rfl
@[simp] theorem hostView_setTicket (d : Dev) (t : Nat) (x : Ticket) : hostView (setTicket d t x) = hostView d := by rfl
@[simp] theorem hostView_modTicket (t : Nat) (f : Ticket → Ticket) (d : Dev) : hostView (modTicket t f d) = hostView d := by rfl
@[simp] theorem hostView_modDram (f : Dram → Dram) (d : Dev) : hostView (modDram f d) = hostView d := by rfl
@[simp] theorem hostView_modFrame (pg : Nat) (f : Frame → Frame) (d : Dev) : hostView (modFrame pg f d) = hostView d := by rfl
@[simp] theorem hostView_setMap (key : Nat) (e : KvEntry) (d : Dev) : hostView (setMap key e d) = hostView d := by rfl
@[simp] theorem hostView_launch (l : Load) (d : Dev) : hostView (launch l d) = hostView d := by rfl
@[simp] theorem hostView_useCredit (src : Nat) (t : Nat × Nat) (d : Dev) : hostView (useCredit src t d) = hostView d := by rfl
@[simp] theorem hostView_pinEpoch (e : Nat) (d : Dev) : hostView (pinEpoch e d) = hostView d := by rfl
@[simp] theorem hostView_unpinEpoch (e : Nat) (d : Dev) : hostView (unpinEpoch e d) = hostView d := by rfl
@[simp] theorem hostView_answer (flow op : Nat) (b : List Byte) (d : Dev) : hostView (answer flow op b d) = hostView d := by rfl
@[simp] theorem hostView_ansAccept (flow req h : Nat) (d : Dev) : hostView (ansAccept flow req h d) = hostView d := by rfl
@[simp] theorem hostView_ansToken (flow req h n tok st : Nat) (d : Dev) : hostView (ansToken flow req h n tok st d) = hostView d := by rfl
@[simp] theorem hostView_ansEnd (flow req h st reason n c : Nat) (d : Dev) : hostView (ansEnd flow req h st reason n c d) = hostView d := by rfl
@[simp] theorem hostView_ansCancel (flow req h res : Nat) (d : Dev) : hostView (ansCancel flow req h res d) = hostView d := by rfl
@[simp] theorem hostView_ansQuery (flow req st reason gen : Nat) (l : List (Int × Nat)) (d : Dev) :
    hostView (ansQuery flow req st reason gen l d) = hostView d := by rfl
@[simp] theorem hostView_ansMask (flow req st : Nat) (d : Dev) : hostView (ansMask flow req st d) = hostView d := by rfl

/-! ### Interrupts and events (R402, R417-R424) -/

theorem hostView_emit {o : Out} (d : Dev) (h : isCompletion o = false) : hostView (emit o d) = hostView d := by
  simp [hostView, ringView, emit, h]

@[simp] theorem hostView_msix (v : Nat) (d : Dev) : hostView (msix v d) = hostView d := by
  simp [hostView, ringView, msix_out]

@[simp] theorem hostView_raiseIbi (b : Byte) (d : Dev) : hostView (raiseIbi b d) = hostView d := by
  unfold raiseIbi
  split
  · simp only []
    split
    · exact hostView_emit _ rfl
    · rfl
  · rfl

@[simp] theorem hostView_raise (e : EvId) (b i a : Nat) (d : Dev) : hostView (raise e b i a d) = hostView d := by
  unfold raise
  simp only []
  split
  · unfold vec2
    split
    · rfl
    · exact hostView_msix ..
  · rfl

@[simp] theorem hostView_faultRec (r : FaultRec) (d : Dev) : hostView (faultRec r d) = hostView d := by
  simp only [faultRec, hostView_ite, hostView_msix, hostView_raise, ite_self]
  rfl

@[simp] theorem hostView_raiseFlag (k f : Nat) (d : Dev) : hostView (raiseFlag k f d) = hostView d := by simp [raiseFlag]

/-! ### A change of state (R404, R412) -/

@[simp] theorem hostView_applyQueued (a : Nat) (d : Dev) : hostView (applyQueued a d) = hostView d := by
  simp only [applyQueued, hostView_ite, hostView_raise]
  split
  · rfl
  · exact ite_self _

@[simp] theorem hostView_applyAllQueued (d : Dev) : hostView (applyAllQueued d) = hostView d :=
  hostView_foldl (fun _ _ => hostView_applyQueued ..) _ _

@[simp] theorem hostView_applyTrimMode (d : Dev) : hostView (applyTrimMode d) = hostView d := by
  unfold applyTrimMode
  split <;> rfl

/-- A change of state posts nothing by itself. -/
theorem hostView_enter (n : DevState) (d : Dev) : hostView (enter n d) = (n, ringView d) := by
  unfold enter
  split
  · rename_i h
    rw [hostView, h]
  · simp
    rfl

@[simp] theorem ringView_enter (n : DevState) (d : Dev) : ringView (enter n d) = ringView d := (Prod.mk.inj (hostView_enter n d)).2

/-! ### Pages (R175-R180) -/

@[simp] theorem hostView_judgePool (d : Dev) : hostView (judgePool d) = hostView d := by simp [judgePool]

@[simp] theorem hostView_pushFree (pg : Nat) (d : Dev) : hostView (pushFree pg d) = hostView d := by simp [pushFree]

@[simp] theorem hostView_releaseReserve (t : Nat) (d : Dev) : hostView (releaseReserve t d) = hostView d := by simp [releaseReserve]

@[simp] theorem hostView_endAborts (t : Nat) (d : Dev) : hostView (endAborts t d) = hostView d := by simp [endAborts]

@[simp] theorem hostView_dropMaps (t : Nat) (ev : Bool) (sel : Nat → Bool) (d : Dev) : hostView (dropMaps t ev sel d) = hostView d := by simp [dropMaps]

@[simp] theorem hostView_evictFrom (t page : Nat) (d : Dev) : hostView (evictFrom t page d) = hostView d := by simp [evictFrom]

@[simp] theorem hostView_freeTicketPages (t : Nat) (d : Dev) : hostView (freeTicketPages t d) = hostView d := by simp [freeTicketPages]

@[simp] theorem hostView_abortTransfers (t : Nat) (d : Dev) : hostView (abortTransfers t d) = hostView d := by simp [abortTransfers]

@[simp] theorem hostView_dropPfx (sel : PfxEntry → Bool) (d : Dev) : hostView (dropPfx sel d) = hostView d := by
  simp [dropPfx]
  rfl

theorem hostView_popFree {d d' : Dev} {p : Nat} (h : popFree d = some (p, d')) : hostView d' = hostView d := by
  unfold popFree at h
  split at h
  · cases h
    rfl
  · simp only [] at h
    split at h
    · cases h
      rfl
    · cases h

theorem hostView_popFor {t : Nat} {b : Bool} {d d' : Dev} {p : Nat} (h : popFor t b d = some (p, d')) : hostView d' = hostView d := by
  unfold popFor at h
  split at h
  · cases h
  · split at h
    · cases h
    · rename_i hp
      cases h
      rw [hostView_modFrame, hostView_modDram, hostView_modTicket, hostView_popFree hp]

/-- A page that is popped and put in its place. -/
theorem hostView_map_popFor {t : Nat} {b : Bool} {d d' : Dev} {f : Nat × Dev → Dev} (h : (popFor t b d).map f = some d')
    (hf : ∀ r, hostView (f r) = hostView r.2) : hostView d' = hostView d := by
  obtain ⟨r, hr, rfl⟩ := Option.map_eq_some_iff.mp h
  exact (hf r).trans (hostView_popFor hr)

theorem hostView_ensureMap {key : Nat} {d d' : Dev} (h : ensureMap key d = some d') : hostView d' = hostView d := by
  unfold ensureMap at h
  simp only [] at h
  split at h
  · cases h
  · rename_i d1 hdir
    have hd1 : hostView d1 = hostView d := by
      split at hdir
      · exact hostView_map_popFor hdir fun _ => rfl
      · cases hdir
        rfl
    split at h
    · cases h
      exact hd1
    · exact (hostView_map_popFor h fun _ => rfl).trans hd1

theorem hostView_allocAt {key : Nat} {d d' : Dev} (h : allocAt key d = some d') : hostView d' = hostView d := by
  unfold allocAt at h
  split at h
  · cases h
  · rename_i hd1
    exact (hostView_map_popFor h fun _ => rfl).trans (hostView_ensureMap hd1)

theorem hostView_sharePage {key pg : Nat} {d d' : Dev} (h : sharePage key pg d = some d') : hostView d' = hostView d := by
  unfold sharePage at h
  split at h
  · cases h
  · obtain ⟨d1, hd1, rfl⟩ := Option.map_eq_some_iff.mp h
    rw [hostView_modFrame, hostView_setMap, hostView_ensureMap hd1]

theorem hostView_reserveFor {t n : Nat} {d d' : Dev} (h : reserveFor t n d = some d') : hostView d' = hostView d := by
  unfold reserveFor at h
  split at h
  · cases h
  · cases h
    simp

@[simp] theorem hostView_reserveFor_getD (t n : Nat) (d : Dev) : hostView ((reserveFor t n d).getD d) = hostView d :=
  hostView_getD fun _ => hostView_reserveFor

@[simp] theorem hostView_sharePage_getD (key pg : Nat) (d : Dev) : hostView ((sharePage key pg d).getD d) = hostView d :=
  hostView_getD fun _ => hostView_sharePage

/-! ### Sending (R242-R263) -/

@[simp] theorem hostView_putFrame (t : Tx) (d : Dev) : hostView (putFrame t d) = hostView d := hostView_emit d rfl

@[simp] theorem hostView_sendFrame (t : Tx) (d : Dev) : hostView (sendFrame t d) = hostView d := by simp [sendFrame]

@[simp] theorem hostView_sendMsg (f typ cart flags step : Nat) (aux : W64) (b : List Byte) (d : Dev) :
    hostView (sendMsg f typ cart flags step aux b d) = hostView d := by simp [sendMsg, sendNew]

@[simp] theorem hostView_sendBell (typ rank stepNo : Nat) (b : List Byte) (d : Dev) : hostView (sendBell typ rank stepNo b d) = hostView d := by
  simp [sendBell]

@[simp] theorem hostView_sendDown (k rank : Nat) (d : Dev) : hostView (sendDown k rank d) = hostView d := hostView_sendBell ..

@[simp] theorem hostView_launchCart (d : Dev) (c : Cart × List (Nat × Nat)) : hostView (launchCart d c) = hostView d :=
  (hostView_foldl (fun _ _ => hostView_useCredit ..) _ _).trans ((hostView_launch ..).trans (hostView_emit _ rfl))

@[simp] theorem hostView_portSend (c : Cart) (d : Dev) : hostView (portSend c d) = hostView d := by
  simp only [portSend, inject, hostView_ite]
  rw [hostView_foldl hostView_launchCart]
  exact ite_self _

/-! ### How a ticket and a query end (R319, R320, R352) -/

@[simp] theorem hostView_countReject (reason t : Nat) (d : Dev) : hostView (countReject reason t d) = hostView d := by simp [countReject]

@[simp] theorem hostView_statusEvent (st t : Nat) (d : Dev) : hostView (statusEvent st t d) = hostView d := by
  unfold statusEvent
  split <;> simp

@[simp] theorem hostView_rejectQuery (flow req reason : Nat) (d : Dev) : hostView (rejectQuery flow req reason d) = hostView d := by
  simp [rejectQuery]

@[simp] theorem hostView_endTicket (t st reason : Nat) (d : Dev) : hostView (endTicket t st reason d) = hostView d := by simp [endTicket]

/-! ### Draining and stopping (R349) -/

/-- Draining ends what waits in the queues, and posts nothing by itself. -/
theorem hostView_startDrain (d : Dev) : hostView (startDrain d) = (.draining, ringView d) := by
  have henter : hostView (startDrain d) = hostView (enter .draining (modSrv (fun s => { s with drainNext := false }) d)) := by simp [startDrain]
  exact henter.trans (hostView_enter ..)

theorem startDrain_state (d : Dev) : (startDrain d).state = .draining := (Prod.mk.inj (hostView_startDrain d)).1
theorem ringView_startDrain (d : Dev) : ringView (startDrain d) = ringView d := (Prod.mk.inj (hostView_startDrain d)).2

theorem startStop_state (d : Dev) : (startStop d).state = .ready := enter_state ..
theorem ringView_startStop (d : Dev) : ringView (startStop d) = ringView d := ringView_enter ..

end Sys2Proof.Machine
end

section
/-! What the host sees of the device at a bell (R347): the serving items on the front device and on the others. -/
namespace Sys2Proof.Machine

/-- The same of a change that goes with a store to DRAM. -/
theorem hostView_foldl_fst {α : Type} {f : Dev × List Host.Cell → α → Dev × List Host.Cell} (h : ∀ p a, hostView (f p a).1 = hostView p.1)
    (as : List α) (p : Dev × List Host.Cell) : hostView (as.foldl f p).1 = hostView p.1 :=
  List.foldlRecOn (motive := fun q : Dev × List Host.Cell => hostView q.1 = hostView p.1) _ _ rfl fun _ hq a _ => (h _ a).trans hq

/-! ### Cancels, tokens, deadlines (R345, R347) -/

@[simp] theorem hostView_queueArrivals (d : Dev) : hostView (queueArrivals d) = hostView d := by simp [queueArrivals]

@[simp] theorem hostView_takeEnds (d : Dev) : hostView (takeEnds d) = hostView d := by
  unfold takeEnds
  refine hostView_foldl (fun d e => ?_) _ _
  simp only []
  split <;> simp

@[simp] theorem hostView_commitToken (t tok st : Nat) (d : Dev) : hostView (commitToken t tok st d) = hostView d := by rfl

@[simp] theorem hostView_commitPositions (prev : List SlotUse) (last : Nat) (d : Dev) : hostView (commitPositions prev last d) = hostView d := by
  simp [commitPositions]

@[simp] theorem hostView_deadlines (toks : List (Nat × Nat)) (d : Dev) : hostView (deadlines toks d) = hostView d := by
  unfold deadlines
  simp only []
  rw [hostView_foldl fun d r => by simp, hostView_modSrv, hostView_foldl fun d e => ?_]
  split
  · split <;> simp
  · simp

@[simp] theorem hostView_completions (toks : List (Nat × Nat)) (d : Dev) : hostView (completions toks d) = hostView d := by simp [completions]

/-! ### Masks and pre-emptions (R340-R344, R497) -/

@[simp] theorem hostView_dropSlots (t pos : Nat) (d : Dev) : hostView (dropSlots t pos d) = hostView d := by rfl

@[simp] theorem hostView_dropShared (t : Nat) (d : Dev) : hostView (dropShared t d) = hostView d := by rfl

@[simp] theorem hostView_joinPrefill (t : Nat) (d : Dev) : hostView (joinPrefill t d) = hostView d := by simp [joinPrefill]

@[simp] theorem hostView_evictPages (t page : Nat) (d : Dev) : hostView (evictPages t page d) = hostView d := by simp [evictPages]

@[simp] theorem hostView_applyMask (t pos cause : Nat) (d : Dev) : hostView (applyMask t pos cause d) = hostView d := by simp [applyMask]

@[simp] theorem hostView_masks (d : Dev) : hostView (masks d) = hostView d := by simp [masks]

@[simp] theorem hostView_preempt (t : Nat) (d : Dev) : hostView (preempt t d) = hostView d := by simp [preempt]

@[simp] theorem hostView_preemptHead (d : Dev) : hostView (preemptHead d) = hostView d := by
  unfold preemptHead
  split <;> simp

@[simp] theorem hostView_leavePrefill (d : Dev) : hostView (leavePrefill d) = hostView d := by simp [leavePrefill]

@[simp] theorem hostView_joinWaiting (d : Dev) : hostView (joinWaiting d) = hostView d := by simp [joinWaiting]

@[simp] theorem hostView_rebind (s : Nat) (d : Dev) : hostView (rebind s d) = hostView d := by simp [rebind]

/-! ### Admissions (R329, R334, R341) -/

@[simp] theorem hostView_shareAll (t : Nat) (es : List PfxEntry) (d : Dev) : hostView (shareAll t es d) = hostView d := by simp [shareAll]

@[simp] theorem hostView_undoAdmission (t : Nat) (d : Dev) : hostView (undoAdmission t d) = hostView d := by simp [undoAdmission]

@[simp] theorem hostView_bindLane (t : Nat) (l : Nat × Nat) (d : Dev) : hostView (bindLane t l d) = hostView d := by rfl

@[simp] theorem hostView_admitNew (t : Nat) (l : Nat × Nat) (s : Nat) (d : Dev) : hostView (admitNew t l s d) = hostView d := by simp [admitNew]

@[simp] theorem hostView_admitAgain (t : Nat) (l : Nat × Nat) (d : Dev) : hostView (admitAgain t l d) = hostView d := by simp [admitAgain]

@[simp] theorem hostView_admissions (s : Nat) (d : Dev) : hostView (admissions s d) = hostView d := by
  unfold admissions
  split
  · rfl
  · simp only [hostView_modSrv, hostView_ite, hostView_undoAdmission]
    split
    · rfl
    · split
      · rename_i d1 _ hroom
        have hview : hostView d1 = hostView d := by
          split at hroom
          · exact hostView_reserveFor hroom
          · cases hroom
        simp [hview]
      · exact hostView_undoAdmission ..

/-! ### The index of pages, customers, the catalogue (R335, R348, R361-R368) -/

@[simp] theorem hostView_insertPfx (e : PfxEntry) (d : Dev) : hostView (insertPfx e d) = hostView d := by
  simp only [insertPfx, hostView_modSrv]
  rw [hostView_foldl fun _ _ => hostView_modFrame ..]
  simp only [hostView_modFrame, hostView_ite]
  split
  · rfl
  · split <;> simp

@[simp] theorem hostView_insertPage (t p : Nat) (h pred : W64) (pub : Bool) (d : Dev) : hostView (insertPage t p h pred pub d) = hostView d := by
  unfold insertPage
  simp only []
  split
  · rfl
  · split
    · rfl
    · rename_i hpop
      rw [hostView_insertPfx, hostView_judgePool, hostView_popFree hpop]

@[simp] theorem hostView_insertsAtBell (d : Dev) : hostView (insertsAtBell d) = hostView d := by simp [insertsAtBell]

@[simp] theorem hostView_dropsAtBell (n : Nat) (d : Dev) : hostView (dropsAtBell n d) = hostView d := by simp [dropsAtBell]

@[simp] theorem hostView_evictsAtBell (d : Dev) : hostView (evictsAtBell d) = hostView d := by simp [evictsAtBell]

@[simp] theorem hostView_adaptersAtBell (d : Dev) : hostView (adaptersAtBell d) = hostView d := by rfl

@[simp] theorem hostView_customersAtBell (d : Dev) : hostView (customersAtBell d) = hostView d := by simp [customersAtBell, applyCustSet]

@[simp] theorem hostView_catAnswers (d : Dev) : hostView (catAnswers d) = hostView d := by simp [catAnswers]

@[simp] theorem hostView_catStart (d : Dev) : hostView (catStart d) = hostView d := by simp [catStart, -List.foldl_reverse]

@[simp] theorem hostView_masksAtBell (d : Dev) (m : List Host.Cell) : hostView (masksAtBell d m).1 = hostView d := by simp [masksAtBell]

@[simp] theorem hostView_purses (delta : Nat) (d : Dev) : hostView (purses delta d) = hostView d := by rfl

@[simp] theorem hostView_turnSchedule (d : Dev) : hostView (turnSchedule d) = hostView d := by rfl

/-! ### Token histories (R321) -/

theorem hostView_writeHist (t n : Nat) (p : Dev × List Host.Cell) : hostView (writeHist t n p).1 = hostView p.1 := by
  induction n generalizing p with
  | zero => rfl
  | succ n ih =>
    obtain ⟨d, m⟩ := p
    unfold writeHist
    simp only []
    split
    · rfl
    · split
      · rfl
      · rename_i d1 hpage
        have hd1 : hostView d1 = hostView d := by
          split at hpage
          · cases hpage
            rfl
          · exact hostView_allocAt hpage
        rw [ih, hostView_modTicket, hd1]

@[simp] theorem hostView_histories (p : Dev × List Host.Cell) : hostView (histories p).1 = hostView p.1 :=
  hostView_foldl_fst (fun _ _ => hostView_writeHist ..) _ _

/-! ### The serving items of a bell (R347) -/

@[simp] theorem hostView_frontCommit (s delta : Nat) (d : Dev) : hostView (frontCommit s delta d) = hostView d := by simp [frontCommit]

@[simp] theorem hostView_frontBell (s : Nat) (first : Bool) (d : Dev) (m : List Host.Cell) : hostView (frontBell s first d m).1 = hostView d := by
  simp [frontBell]

@[simp] theorem hostView_noteAdmit (h : Nat) (b : List Byte) (d : Dev) : hostView (noteAdmit h b d) = hostView d := by
  simp only [noteAdmit]
  split
  · split <;> simp
  · split <;> simp

@[simp] theorem hostView_noteSlot (h : Nat) (b : List Byte) (d : Dev) : hostView (noteSlot h b d) = hostView d := by simp [noteSlot]

@[simp] theorem hostView_noteEnd (h : Nat) (d : Dev) : hostView (noteEnd h d) = hostView d := by
  unfold noteEnd
  split <;> simp

@[simp] theorem hostView_applyNotice (b : List Byte) (d : Dev) : hostView (applyNotice b d) = hostView d := by
  unfold applyNotice
  simp only []
  split
  · simp
  · simp
  · simp
  · split <;> simp
  · split <;> simp
  · split <;> simp
  · simp
  · rfl

@[simp] theorem hostView_memberBell (d : Dev) (m : List Host.Cell) : hostView (memberBell d m).1 = hostView d := by simp [memberBell, maskAbsent]

@[simp] theorem hostView_serveBell (k s : Nat) (first : Bool) (d : Dev) (m : List Host.Cell) : hostView (serveBell k s first d m).1 = hostView d := by
  unfold serveBell
  split
  · split <;> simp
  · split <;> simp

end Sys2Proof.Machine
end

section
/-! A bell posts no completion (R212-R214, R347, R408), and leaves a domain that has had its first bell so. -/
namespace Sys2Proof.Machine

/-! ### What takes hold at a bell -/

@[simp] theorem hostView_commitStalls (k : Nat) (d : Dev) : hostView (commitStalls k d) = hostView d :=
  hostView_foldl (f := fun d i => commitStall i d) (fun _ _ => rfl) _ _

@[simp] theorem hostView_epochAtBell (d : Dev) : hostView (epochAtBell d) = hostView d := by
  unfold epochAtBell
  split <;> rfl

@[simp] theorem hostView_countLevel (k level : Nat) (d : Dev) : hostView (countLevel k level d) = hostView d := by
  simp only [countLevel, hostView_ite, hostView_raise]
  exact ite_self _

@[simp] theorem hostView_applyFlip (p : Nat) (d : Dev) : hostView (applyFlip p d) = hostView d := by
  unfold applyFlip
  simp only []
  split <;> simp

@[simp] theorem hostView_stockAtBell (k s : Nat) (d : Dev) : hostView (stockAtBell k s d) = hostView d := by
  unfold stockAtBell
  refine hostView_foldl (fun d e => ?_) _ _
  simp only []
  split <;> simp

@[simp] theorem hostView_journalCommit (k s : Nat) (old new : Dev) : hostView (journalCommit k s old new) = hostView new := by rfl

@[simp] theorem hostView_newStep (k s level epoch : Nat) (flags : List Nat) (first : Bool) (d : Dev) :
    hostView (newStep k s level epoch flags first d) = hostView d := by rfl

@[simp] theorem hostView_retireArr (a : Nat) (d : Dev) : hostView (retireArr a d) = hostView d := by
  show hostView (if isShelf a && ! (getArr d a).retired then raise .st 7 0 0 d else d) = hostView d
  rw [hostView_ite, hostView_raise, ite_self]

@[simp] theorem hostView_redirectsAtBell (d : Dev) : hostView (redirectsAtBell d) = hostView d := by
  unfold redirectsAtBell
  refine hostView_foldl (fun d c => ?_) _ _
  rw [hostView_retireArr, hostView_faultRec]
  rfl

@[simp] theorem hostView_fetchesAtBell (d : Dev) : hostView (fetchesAtBell d) = hostView d :=
  hostView_foldl (fun _ _ => hostView_modPart ..) _ _

@[simp] theorem hostView_detourAtBell (k : Nat) (d : Dev) : hostView (detourAtBell k d) = hostView d := by
  unfold detourAtBell
  split
  · rfl
  · simp only []
    split <;> rfl

@[simp] theorem hostView_patsAtBell (d : Dev) : hostView (patsAtBell d) = hostView d := by
  unfold patsAtBell
  split <;> rfl

@[simp] theorem hostView_seqsAtBell (k : Nat) (d : Dev) : hostView (seqsAtBell k d) = hostView d := by rfl
@[simp] theorem hostView_flowsAtBell (k s : Nat) (d : Dev) : hostView (flowsAtBell k s d) = hostView d := by rfl
@[simp] theorem hostView_journalAtBell (k s : Nat) (d : Dev) : hostView (journalAtBell k s d) = hostView d := by rfl

@[simp] theorem hostView_bellRecords (k s : Nat) (d : Dev) : hostView (bellRecords k s d) = hostView d := by simp [bellRecords]

@[simp] theorem hostView_holdFlag (k : Nat) (d : Dev) : hostView (holdFlag k d) = hostView d := by simp [holdFlag]

@[simp] theorem hostView_releaseHeld (k s : Nat) (d : Dev) : hostView (releaseHeld k s d) = hostView d :=
  hostView_foldl (fun _ _ => hostView_portSend ..) _ _

@[simp] theorem hostView_fwAtBell (k s : Nat) (d : Dev) : hostView (fwAtBell k s d) = hostView d := by
  unfold fwAtBell
  split
  · rfl
  · rw [hostView_ite, switchFw, hostView_msix, hostView_raise]
    exact ite_self _

@[simp] theorem hostView_frontEnd (d : Dev) : hostView (frontEnd d) = hostView d := by
  unfold frontEnd releaseAnswers
  refine (hostView_foldl (fun d a => ?_) _ _).trans rfl
  simp

/-! ### The bell -/

theorem ringView_stopsAtBell (d : Dev) : ringView (stopsAtBell d) = ringView d := by
  have hdrain : ringView (if d.srv.drainNext && decide (d.state = .serving) then startDrain d else d) = ringView d := by
    split
    · exact ringView_startDrain d
    · rfl
  unfold stopsAtBell
  simp only []
  generalize (if d.srv.drainNext && decide (d.state = .serving) then startDrain d else d) = d1 at hdrain ⊢
  split
  · exact (ringView_startStop d1).trans hdrain
  · exact hdrain

theorem ringView_bellTail (k s : Nat) (d : Dev) : ringView (bellTail k s d) = ringView d := by
  have hstep : hostView (fwAtBell k s (releaseHeld k s
      (if blocked (bellRecords k s d) k then holdFlag k (bellRecords k s d) else bellRecords k s d))) = hostView d := by simp
  unfold bellTail
  calc ringView _ = ringView (bellChanges k s d) := ringView_of_hostView (by simp)
    _ = ringView d := (ringView_stopsAtBell _).trans (ringView_of_hostView hstep)

/-- What a bell does before the domain stands in its new step: the commit of the step before, and the changes that waited for the bell. -/
def bellCommit (k s level epoch : Nat) (d : Dev) (m : List Host.Cell) : Dev :=
  let first := ! (getDom d k).running
  let d1 := countLevel k level (applyTrimMode (applyAllQueued (epochAtBell (if first then d else commitStalls k d))))
  let p := serveBell k s first (stockAtBell k s (modDom k (fun x => { x with bellEpoch := epoch }) d1)) m
  if first then p.1 else journalCommit k (getDom d k).step d p.1

theorem commitBell_of_bellCommit (k s level epoch : Nat) (flags : List Nat) (d : Dev) (m : List Host.Cell) :
    (commitBell k s level epoch flags d m).1 = bellTail k s (newStep k s level epoch flags (! (getDom d k).running) (bellCommit k s level epoch d m)) := by
  unfold commitBell bellTail bellCommit
  simp only []

theorem hostView_bellCommit (k s level epoch : Nat) (d : Dev) (m : List Host.Cell) : hostView (bellCommit k s level epoch d m) = hostView d := by
  simp [bellCommit]

/-- No completion comes with a bell. -/
theorem ringView_commitBell (k s level epoch : Nat) (flags : List Nat) (d : Dev) (m : List Host.Cell) :
    ringView (commitBell k s level epoch flags d m).1 = ringView d := by
  rw [commitBell_of_bellCommit, ringView_bellTail]
  exact ringView_of_hostView ((hostView_newStep ..).trans (hostView_bellCommit ..))

/-! ### A domain that has had a bell (R211) -/

/-- The domains that have had a bell are the same. -/
def BelledKept (d d' : Dev) : Prop := ∀ j, (getDom d' j).belled = (getDom d j).belled

theorem BelledKept.trans {d d' d'' : Dev} (h : BelledKept d d') (h' : BelledKept d' d'') : BelledKept d d'' := fun j => (h' j).trans (h j)

theorem belledKept_of_doms {d d' : Dev} (h : d'.doms = d.doms) : BelledKept d d' := fun j => congrArg Dom.belled (getDom_congr h j)

theorem raiseFlag_belled (k f : Nat) (d : Dev) : BelledKept d (raiseFlag k f d) := by
  intro j
  obtain ⟨fl, late, snap, hd⟩ := raiseFlag_doms k f d
  rw [getDom_congr hd]
  by_cases hj : j = k
  · rw [hj, getDom_setDom_same]
  · rw [getDom_setDom_ne _ _ _ hj]

theorem startStop_belled (d : Dev) : BelledKept d (startStop d) := by
  intro j
  unfold startStop
  rw [getDom_congr (enter_doms ..)]
  simp only [getDom, mget, modSrv, mfind_mapVal fun x : Dom => { x with running := false, readySent := none, readies := [] }]
  cases mfind d.doms j <;> rfl

theorem stopsAtBell_belled (d : Dev) : BelledKept d (stopsAtBell d) := by
  have hdrain : (if d.srv.drainNext && decide (d.state = .serving) then startDrain d else d).doms = d.doms := by
    split
    · exact startDrain_doms d
    · rfl
  unfold stopsAtBell
  simp only []
  generalize (if d.srv.drainNext && decide (d.state = .serving) then startDrain d else d) = d1 at hdrain ⊢
  split
  · exact (belledKept_of_doms hdrain).trans (startStop_belled d1)
  · exact belledKept_of_doms hdrain

theorem bellTail_belled (k s : Nat) (d : Dev) : BelledKept d (bellTail k s d) := by
  have hhold : BelledKept d (if blocked (bellRecords k s d) k then holdFlag k (bellRecords k s d) else bellRecords k s d) := by
    refine (belledKept_of_doms (bellRecords_doms k s d)).trans ?_
    unfold holdFlag
    split
    · split
      · exact raiseFlag_belled k _ _
      · exact belledKept_of_doms rfl
    · exact belledKept_of_doms rfl
  have hchanges : BelledKept d (bellChanges k s d) := by
    rw [bellChanges_eq]
    exact hhold.trans ((belledKept_of_doms ((fwAtBell_doms ..).trans (releaseHeld_doms ..))).trans (stopsAtBell_belled _))
  unfold bellTail
  refine hchanges.trans (belledKept_of_doms ((foldl_doms (fun d c => (sendDown_wire k c d).doms) _ _).trans ?_))
  split
  · exact frontEnd_doms _
  · rfl

/-- After a bell its domain has had one, whatever the bell's other changes. -/
theorem commitBell_belled (k s level epoch : Nat) (flags : List Nat) (d : Dev) (m : List Host.Cell) :
    (getDom (commitBell k s level epoch flags d m).1 k).belled = true := by
  obtain ⟨first, d1, heq⟩ := commitBell_eq k s level epoch flags d m
  rw [heq, bellTail_belled, newStep, getDom_setDom_same]

end Sys2Proof.Machine
end

section
/-! SERVE_START, SERVE_DRAIN and SERVE_STOP (R211, R349, R414, R415). -/
namespace Sys2Proof.Machine

/-! ### A completion at once, with a change of state -/

/-- The ring of a command that has been taken, and the completions posted before its own. -/
theorem ring_of_ringView_entered {c : Cmd} {s : State} {d : Dev} (h : ringView d = ringView (entered c s)) :
    getRing d c.ring = { getRing s.dev c.ring with head := ((getRing s.dev c.ring).head + 1) % ringSize (getRing s.dev c.ring) } ∧
      d.out.filter isCompletion = postedBy s := by
  refine ⟨?_, (posted_of_ringView h).trans rfl⟩
  rw [← entered_ring]
  simp [getRing, rings_of_ringView h]

/-- A command that its own rule completes at once, whatever it changes beside the rings and the completions: its completion is posted, with
the state that the rule leaves. -/
theorem answered_of_ringView {op : Nat} {c : Cmd} {s : State} {own : Dev → Dev × Verdict} {d' : Dev} {st : Status} (ha : Accepted op c s)
    (ho : own (entered c s) = (d', .now st 0)) (hv : ringView d' = ringView (entered c s)) :
    ∃ t, onDev (hostCmd op c own) s = .next t ∧ Answered c st 0 s t ∧ SameStore s t ∧
      t.dev = { d' with host := t.dev.host, out := t.dev.out } := by
  obtain ⟨h, o, hpost, hnew⟩ := post_parts c.ring c.opcode c.cid c.flags (getRing (entered c s) c.ring).head st 0 d'
  obtain ⟨hring, hout⟩ := ring_of_ringView_entered hv
  refine ⟨_, hostCmd_now ha ho, ?_, ⟨rfl, rfl, rfl⟩, by rw [hpost]⟩
  rw [ite_self, hout, hring, entered_ring] at hnew
  rw [Answered, postedBy, hpost, hnew]
  rfl

/-! ### SERVE_DRAIN and SERVE_STOP (R349) -/

/-- SERVE_DRAIN's own rule. -/
def drainRule (d : Dev) : Dev × Verdict := ok0 (if noBell d then startDrain d else modSrv (fun s => { s with drainNext := true }) d)

/-- SERVE_STOP's own rule. -/
def stopRule (d : Dev) : Dev × Verdict :=
  if 0 < countState d admitted then fail .busy d
  else ok0 (if noBell d then startStop d else modSrv (fun s => { s with stopNext := true }) d)

theorem exec_serveDrain (c : Cmd) (s : State) : exec (.serveDrain c) s = onDev (hostCmd 0x23 c drainRule) s := rfl
theorem exec_serveStop (c : Cmd) (s : State) : exec (.serveStop c) s = onDev (hostCmd 0x24 c stopRule) s := rfl

theorem noBell_iff (d : Dev) : noBell d = true ↔ runningDoms d = [] := List.isEmpty_iff

theorem drainRule_of_running {d : Dev} (h : runningDoms d ≠ []) : drainRule d = ok0 (modSrv (fun s => { s with drainNext := true }) d) :=
  congrArg ok0 (if_neg fun hb => h ((noBell_iff d).mp hb))

theorem drainRule_of_noBell {d : Dev} (h : runningDoms d = []) : drainRule d = ok0 (startDrain d) := congrArg ok0 (if_pos ((noBell_iff d).mpr h))

theorem stopRule_of_admitted {d : Dev} (h : 0 < countState d admitted) : stopRule d = fail .busy d := if_pos h

theorem stopRule_of_running {d : Dev} (hn : countState d admitted = 0) (h : runningDoms d ≠ []) :
    stopRule d = ok0 (modSrv (fun s => { s with stopNext := true }) d) :=
  (if_neg (by omega)).trans (congrArg ok0 (if_neg fun hb => h ((noBell_iff d).mp hb)))

theorem stopRule_of_noBell {d : Dev} (hn : countState d admitted = 0) (h : runningDoms d = []) : stopRule d = ok0 (startStop d) :=
  (if_neg (by omega)).trans (congrArg ok0 (if_pos ((noBell_iff d).mpr h)))

theorem serveDrain_waits {c : Cmd} {s : State} (ha : Accepted 0x23 c s) (hruns : runningDoms s.dev ≠ []) :
    ∃ t, exec (.serveDrain c) s = .next t ∧ Answered c .ok 0 s t ∧ SameStore s t ∧
      t.dev = { s.dev with cycle := s.dev.cycle + 1, host := t.dev.host, out := t.dev.out, srv := { s.dev.srv with drainNext := true } } := by
  rw [exec_serveDrain]
  exact answered_of_ringView ha (drainRule_of_running (d := entered c s) hruns) rfl

theorem serveDrain_now {c : Cmd} {s : State} (ha : Accepted 0x23 c s) (hruns : runningDoms s.dev = []) :
    ∃ t, exec (.serveDrain c) s = .next t ∧ Answered c .ok 0 s t ∧ SameStore s t ∧ t.dev.state = .draining := by
  rw [exec_serveDrain]
  obtain ⟨t, hexec, hans, hstore, hdev⟩ := answered_of_ringView ha (drainRule_of_noBell (d := entered c s) hruns) (ringView_startDrain _)
  exact ⟨t, hexec, hans, hstore, by rw [hdev]; exact startDrain_state _⟩

theorem serveStop_waits {c : Cmd} {s : State} (ha : Accepted 0x24 c s) (hnone : countState s.dev admitted = 0) (hruns : runningDoms s.dev ≠ []) :
    ∃ t, exec (.serveStop c) s = .next t ∧ Answered c .ok 0 s t ∧ SameStore s t ∧
      t.dev = { s.dev with cycle := s.dev.cycle + 1, host := t.dev.host, out := t.dev.out, srv := { s.dev.srv with stopNext := true } } := by
  rw [exec_serveStop]
  exact answered_of_ringView ha (stopRule_of_running (d := entered c s) hnone hruns) rfl

theorem serveStop_now {c : Cmd} {s : State} (ha : Accepted 0x24 c s) (hnone : countState s.dev admitted = 0) (hruns : runningDoms s.dev = []) :
    ∃ t, exec (.serveStop c) s = .next t ∧ Answered c .ok 0 s t ∧ SameStore s t ∧ t.dev.state = .ready := by
  rw [exec_serveStop]
  obtain ⟨t, hexec, hans, hstore, hdev⟩ := answered_of_ringView ha (stopRule_of_noBell (d := entered c s) hnone hruns) (ringView_startStop _)
  exact ⟨t, hexec, hans, hstore, by rw [hdev]; exact startStop_state _⟩

theorem serveStop_busy {c : Cmd} {s : State} (ha : Accepted 0x24 c s) (hsome : 0 < countState s.dev admitted) :
    ∃ t, exec (.serveStop c) s = .next t ∧ Answered c .busy 0 s t ∧ HostOnly s t := by
  rw [exec_serveStop]
  exact answered_of_fail ha (stopRule_of_admitted (d := entered c s) hsome)

/-! ### SERVE_START (R211, R414) -/

/-- The completion of SERVE_START: OK, and the device SERVING (R408). -/
def servingCompletion (c : Cmd) (s : State) : Out :=
  .completion c.ring (cplAddr (getRing s.dev c.ring)) (cplEntry c.cid c.opcode .ok .serving (getRing s.dev c.ring).phase 0
    (((getRing s.dev c.ring).head + 1) % ringSize (getRing s.dev c.ring)))

/-- What SERVE_START leaves before any domain's readiness: the device is SERVING, its domains and its plan are as before, and the completion
has been posted. -/
structure ServeStarted (c : Cmd) (s : State) (d : Dev) : Prop where
  state : d.state = .serving
  doms : d.doms = s.dev.doms
  plan : d.plan = s.dev.plan
  posted : d.out.filter isCompletion = postedBy s ++ [servingCompletion c s]

theorem enter_serving_plan {d : Dev} (h : d.state = .ready) : (enter .serving d).plan = d.plan := by
  simp [enter, h, steps]

theorem serveStart_started {c : Cmd} {s : State} (ha : Accepted 0x22 c s) :
    ∃ d, ServeStarted c s d ∧ ∀ m, serveStart c (tickCycle s.dev) m = startDoms d m := by
  have hready : s.dev.state = .ready := by
    obtain ⟨-, -, -, hlegal, -⟩ := ha
    simp [legal, legalStates] at hlegal
    exact hlegal.1
  obtain ⟨t, hexec, hans, -, hdev⟩ := answered_of_ringView (own := fun d => ok0 (enter .serving d)) ha rfl (ringView_enter ..)
  have hcmd : hostCmd 0x22 c (fun d => ok0 (enter .serving d)) (tickCycle s.dev) = t.dev := congrArg State.dev (Host.Outcome.next.inj hexec)
  have hstate : t.dev.state = .serving := by rw [hdev]; exact enter_state ..
  refine ⟨t.dev, ⟨hstate, ?_, ?_, ?_⟩, fun m => ?_⟩
  · rw [hdev]; exact enter_doms ..
  · rw [hdev]; exact enter_serving_plan (d := entered c s) hready
  · rw [Answered, hstate] at hans
    exact hans
  · unfold serveStart
    rw [hcmd]
    exact if_pos ⟨hstate, by rw [tickCycle_state, hready]; decide⟩

theorem exec_serveStart {c : Cmd} {s : State} (ha : Accepted 0x22 c s) :
    ∃ d t, ServeStarted c s d ∧ exec (.serveStart c) s = .next t ∧ t.dev = (startDoms d s.mem).1 := by
  obtain ⟨d, hd, hrun⟩ := serveStart_started ha
  exact ⟨d, _, hd, rfl, congrArg Prod.fst (hrun s.mem)⟩

/-- A domain that a bell of the tree concerns has its entry in the plan. -/
theorem exists_entry_of_isMachine {d : Dev} {k : Nat} (h : isMachine d k = true) : ∃ e ∈ planDomains d, e.num = k ∧ e.machine = true := by
  unfold isMachine domEntry at h
  cases hfind : (planDomains d).find? (·.num = k) with
  | none => simp [hfind] at h
  | some e => exact ⟨e, List.mem_of_find?_eq_some hfind, by simpa using List.find?_some hfind, by simpa [hfind] using h⟩

/-- A device that is not the root reports its readiness up the tree, at most. -/
theorem tryReady1_of_child {d : Dev} {k : Nat} (m : List Host.Cell) (h : isMachine d k = true → parentOf d k ≠ none) :
    hostView (tryReady1 k d m).1 = hostView d ∧ (tryReady1 k d m).1.plan = d.plan := by
  unfold tryReady1
  split
  · exact ⟨rfl, rfl⟩
  · rename_i hready
    have hm : isMachine d k = true := by
      cases hmach : isMachine d k with
      | true => rfl
      | false => simp [hmach] at hready
    obtain ⟨p, hp⟩ := Option.ne_none_iff_exists'.mp (h hm)
    rw [hp]
    simp only []
    split
    · exact ⟨rfl, rfl⟩
    · rw [sendReady_of_parent hp]
      exact ⟨hostView_sendBell .., (sendBell_wire ..).plan⟩

/-- Without a root, entering SERVING shows the host nothing more. -/
theorem startDoms_of_children {d : Dev} (m : List Host.Cell) (h : ∀ e ∈ planDomains d, e.machine = true → parentOf d e.num ≠ none) :
    hostView (startDoms d m).1 = hostView d := by
  have hchild : ∀ k, isMachine d k = true → parentOf d k ≠ none := fun k hm => by
    obtain ⟨e, he, rfl, hmach⟩ := exists_entry_of_isMachine hm
    exact h e he hmach
  refine (List.foldlRecOn (motive := fun p : Dev × List Host.Cell => hostView p.1 = hostView d ∧ p.1.plan = d.plan) _ _ ⟨rfl, rfl⟩ ?_).1
  rintro p ⟨hview, hplan⟩ e -
  obtain ⟨hview', hplan'⟩ := tryReady1_of_child (d := p.1) (k := e.num) p.2
    (by rw [isMachine_of_plan hplan, parentOf_of_plan hplan]; exact hchild e.num)
  exact ⟨hview'.trans hview, hplan'.trans hplan⟩

theorem serveStart_enters {c : Cmd} {s : State} (ha : Accepted 0x22 c s)
    (h : ∀ e ∈ planDomains s.dev, e.machine = true → parentOf s.dev e.num ≠ none) :
    ∃ t, exec (.serveStart c) s = .next t ∧ t.dev.state = .serving ∧ Answered c .ok 0 s t := by
  obtain ⟨d, t, hd, hexec, ht⟩ := exec_serveStart ha
  have hplans : planDomains d = planDomains s.dev := by simp [planDomains, theDoc, hd.plan]
  have hview : hostView t.dev = hostView d := by
    rw [ht]
    refine startDoms_of_children _ fun e he => ?_
    rw [parentOf_of_plan hd.plan]
    exact h e (hplans ▸ he)
  have hstate : t.dev.state = .serving := (state_of_hostView hview).trans hd.state
  refine ⟨t, hexec, hstate, ?_⟩
  rw [Answered, hstate]
  exact (posted_of_ringView (ringView_of_hostView hview)).trans hd.posted

theorem stepEntry_of_plan {d d' : Dev} (h : d'.plan = d.plan) (k : Nat) : stepEntry d' k = stepEntry d k := by
  unfold stepEntry theDoc
  rw [h]

/-- The step that a device proposes, with its children's proposals, hangs on its domain and its plan alone. -/
theorem readyStep_congr {d d' : Dev} (hdoms : d'.doms = d.doms) (hplan : d'.plan = d.plan) (k : Nat) : readyStep d' k = readyStep d k := by
  simp only [readyStep, proposal, stepEntry_of_plan hplan, getDom_congr hdoms]

/-- The root of a domain that no child delays fires the first bell as soon as the device serves. -/
theorem startDoms_of_root {d : Dev} {e : DomainEntry} (m : List Host.Cell) (hplan : planDomains d = [e]) (hm : e.machine = true)
    (hp : e.parent = none) (hc : e.children = []) (hs : d.state = .serving) (hr : (getDom d e.num).running = false)
    (hf : (getDom d e.num).faultRaised = false) :
    startDoms d m = commitBell e.num (readyStep d e.num) 0 (readyEpoch d e.num) [] d m := by
  have hentry : domEntry d e.num = some e := by simp [domEntry, hplan]
  have hmach : isMachine d e.num = true := by simp [isMachine, hentry, hm]
  have hroot : parentOf d e.num = none := by simp [parentOf, hentry, hp]
  have hready : isReady d e.num = true := by simp [isReady, childrenOf, hentry, hc, hs, hr, hf]
  rw [← bellAt_of_commit _ _ _ _ _ rfl]
  simp [startDoms, hplan, tryReady1, hmach, hready, hroot]

theorem serveStart_fires {c : Cmd} {s : State} {e : DomainEntry} (ha : Accepted 0x22 c s) (hplan : planDomains s.dev = [e])
    (hm : e.machine = true) (hp : e.parent = none) (hc : e.children = []) (hr : (getDom s.dev e.num).running = false)
    (hf : (getDom s.dev e.num).faultRaised = false) :
    ∃ t, exec (.serveStart c) s = .next t ∧ (getDom t.dev e.num).belled = true ∧ (getDom t.dev e.num).step = readyStep s.dev e.num ∧
      (getDom t.dev e.num).level = 0 ∧ postedBy t = postedBy s ++ [servingCompletion c s] := by
  obtain ⟨d, t, hd, hexec, ht⟩ := exec_serveStart ha
  have hdom : getDom d e.num = getDom s.dev e.num := getDom_congr hd.doms _
  have hplans : planDomains d = [e] := by rw [← hplan]; simp [planDomains, theDoc, hd.plan]
  rw [startDoms_of_root s.mem hplans hm hp hc hd.state (by rw [hdom, hr]) (by rw [hdom, hf])] at ht
  obtain ⟨hstep, hlevel, -⟩ := commitBell_dom e.num (readyStep d e.num) 0 (readyEpoch d e.num) [] d s.mem
  refine ⟨t, hexec, ?_, ?_, ?_, ?_⟩
  · rw [ht]; exact commitBell_belled ..
  · rw [ht, hstep, readyStep_congr hd.doms hd.plan]
  · rw [ht, hlevel]
  · rw [postedBy, ht]
    exact (posted_of_ringView (ringView_commitBell ..)).trans hd.posted

/-- Settles O34, command by command: the bell that a root fires posts no completion of its own, and a change of state at once leaves the
rings and the completions. -/
theorem serveStateCommandsComplete : Obligations.ServeStateCommandsComplete :=
  fun _ _ => ⟨serveStart_enters, fun _ => serveStart_fires, serveDrain_waits, serveDrain_now, serveStop_waits, serveStop_now, serveStop_busy⟩

end Sys2Proof.Machine
end

section
/-! A command in progress on a ring, and its completion by a later event (R406, R408, R410, R411). -/
namespace Sys2Proof.Machine

/-- A command whose own rule leaves it to a later event is in progress, and beside the host interface the device is as the rule leaves it. -/
theorem inProgress_of_later {op : Nat} {c : Cmd} {s : State} {own : Dev → Dev × Verdict} {d' : Dev} (ha : Accepted op c s)
    (ho : own (entered c s) = (d', .later)) :
    ∃ t, onDev (hostCmd op c own) s = .next t ∧ InProgress c t ∧ SameStore s t ∧ t.dev = { d' with host := t.dev.host } :=
  ⟨_, hostCmd_later ha ho, by simp [InProgress, modRing], ⟨rfl, rfl, rfl⟩, rfl⟩

@[simp] theorem coalesce_job (i : Nat) (q : Bool) (d : Dev) : (getRing (coalesce i q d) i).job = (getRing d i).job := by
  unfold coalesce
  split
  · rfl
  · simp only []
    split <;> simp [ringMsg, modRing]

/-- A completion that can be written ends the ring's command. -/
theorem post_job (i op : Nat) (cid : W16) (fl : Byte) (head : Nat) (st : Status) (res : Nat) (d : Dev) :
    (getRing (post i op cid fl head st res true d) i).job = none := by
  simp [post]

/-- The completion of a command in progress after a change of neither the rings nor the completions. -/
theorem jobAnswered_of_finish {i : Nat} {st : Status} {s t : State} {d : Dev} (hv : ringView d = ringView s.dev)
    (ht : t.dev = finishJob i st 0 d) : JobAnswered i st 0 s t := by
  intro j hj hw
  have hring : getRing d i = getRing s.dev i := by simp [getRing, rings_of_ringView hv]
  have hpost : t.dev = post i j.opcode j.cid j.flags j.head st 0 true d := by rw [ht, finishJob, hring, hj, ← hw]
  refine ⟨by rw [hpost, post_job], d.state, ?_⟩
  obtain ⟨h, o, hparts, hnew⟩ := post_parts i j.opcode j.cid j.flags j.head st 0 d
  rw [ite_self, posted_of_ringView hv, hring] at hnew
  rw [postedBy, hpost, hparts, hnew]
  rfl

theorem finishJob_keeps (i : Nat) (st : Status) (res : Nat) (d : Dev) :
    (finishJob i st res d).stock = d.stock ∧ Quiet [.chHost] d (finishJob i st res d) := by
  unfold finishJob
  split
  · exact ⟨rfl, .refl d⟩
  · next j _ =>
    cases hw : j.wrOk with
    | true =>
      obtain ⟨h, o, hparts, -⟩ := post_parts i j.opcode j.cid j.flags j.head st res d
      rw [hparts]
      exact ⟨rfl, .of_evs rfl rfl⟩
    | false =>
      refine ⟨?_, (raise_quiet .chHost 2 i 0 _).after rfl rfl⟩
      simp [post, ringFail, modRing, setRing]

theorem getPart_finishJob (i : Nat) (st : Status) (res : Nat) (d : Dev) (k : Nat) : getPart (finishJob i st res d) k = getPart d k := by
  simp [getPart, (finishJob_keeps i st res d).1]

end Sys2Proof.Machine
end

section
/-! STOCK_LOAD and SHELF_WRITE (R288, R289, R302, R303, R495). -/
namespace Sys2Proof.Machine

/-! ### STOCK_LOAD (R288, R289, R495) -/

/-- A STOCK_LOAD that is in form, of a partition without a restock or a refresh, from a source that is up (R288). -/
structure LoadDue (c : Cmd) (d : Dev) : Prop where
  part : isStockPart d (param c.params 8 1) = true
  kind : param c.params 10 1 ≤ 1
  gen : param c.params 12 4 ≠ 0
  free : (getPart d (param c.params 8 1)).restock = none
  still : (getPart d (param c.params 8 1)).refresh = none
  up : sourceUp d (param c.params 10 1) (param c.params 16 4) = true

theorem LoadDue.entered {c : Cmd} {s : State} (h : LoadDue c s.dev) : LoadDue c (entered c s) := ⟨h.part, h.kind, h.gen, h.free, h.still, h.up⟩

/-- The placement that a STOCK_LOAD names in the staging area (R289). -/
def stagedPlace (m : List Host.Cell) (c : Cmd) (d : Dev) : List (Nat × Nat × Nat) :=
  placeEntries (chunkDefs d (param c.params 8 1)).length (staged m (param c.params 20 4) (8 * (chunkDefs d (param c.params 8 1)).length))

/-- A restock of a new side generation, with its placement. -/
def sideRestock (m : List Host.Cell) (c : Cmd) (d : Dev) : Restock :=
  let n := (chunkDefs d (param c.params 8 1)).length
  newRestock c (param c.params 12 4) (param c.params 10 1) (param c.params 16 4) (param c.params 24 4) n false (stagedPlace m c d)
    (param c.params 20 4, param c.params 20 4 + 8 * n)

/-- A restock in the planes of the live generation. -/
def inPlaceRestock (c : Cmd) (d : Dev) : Restock :=
  newRestock c (param c.params 12 4) (param c.params 10 1) (param c.params 16 4) (param c.params 24 4) (chunkDefs d (param c.params 8 1)).length true []
    (0, 0)

theorem stockLoad_side {nv : NonVol} {m : List Host.Cell} {c : Cmd} {d : Dev} (h : LoadDue c d) (hmode : param c.params 9 1 = 0)
    (hroom : param c.params 20 4 + 8 * (chunkDefs d (param c.params 8 1)).length ≤ 0x10000000)
    (hfits : placeFits d nv (param c.params 8 1) (chunkDefs d (param c.params 8 1)) (stagedPlace m c d) = true)
    (hside : (getPart d (param c.params 8 1)).sideState = 0) :
    stockLoad nv m c d =
      (setPart d (param c.params 8 1) { getPart d (param c.params 8 1) with restock := some (sideRestock m c d) }, .later) := by
  obtain ⟨hpart, hkind, hgen, hfree, hstill, hup⟩ := h
  unfold stagedPlace at hfits
  simp [stockLoad, sideRestock, stagedPlace, hpart, hmode, Nat.not_lt.mpr hkind, hgen, hfree, hstill, hup, Nat.not_lt.mpr hroom, hfits, hside]

/-- The live generation is the one loaded, it is not in use, and its planes can be erased: it may be filled in place (R289, R300, R495). -/
structure FillDue (nv : NonVol) (c : Cmd) (d : Dev) : Prop where
  live : (getPart d (param c.params 8 1)).live = param c.params 12 4
  stands : (getPart d (param c.params 8 1)).gone = false
  home : ∀ e ∈ (getPart d (param c.params 8 1)).liveMap, isShelf e.2.1 = false
  unpinned : pinned d (param c.params 8 1) (param c.params 12 4) = 0
  idle : recentlyPinned d (param c.params 8 1) (param c.params 12 4) = false
  sound : ∀ e ∈ (getPart d (param c.params 8 1)).liveMap, planeCount d nv (physArr d e.2.1) e.2.2 < 30000

theorem stockLoad_inPlace {nv : NonVol} {m : List Host.Cell} {c : Cmd} {d : Dev} (h : LoadDue c d) (hmode : param c.params 9 1 = 1)
    (hf : FillDue nv c d) :
    stockLoad nv m c d = (setPart d (param c.params 8 1) { getPart d (param c.params 8 1) with restock := some (inPlaceRestock c d) }, .later) := by
  obtain ⟨hpart, hkind, hgen, hfree, hstill, hup⟩ := h
  obtain ⟨hlive, hstands, hhome, hpin, hidle, hsound⟩ := hf
  have hshelf : (getPart d (param c.params 8 1)).liveMap.any (fun e => isShelf e.2.1) = false := by simpa using hhome
  have hworn : (getPart d (param c.params 8 1)).liveMap.any (fun e => decide (30000 ≤ planeCount d nv (physArr d e.2.1) e.2.2)) = false := by
    simpa using hsound
  simp only [stockLoad, inPlaceRestock, hpart, hmode, hfree, hstill, hup, hlive, hstands, hshelf, hworn, hpin, hidle]
  simp [Nat.not_lt.mpr hkind, hgen]

/-! ### SHELF_WRITE (R302) -/

/-- A restock of the back shelf, in its own planes (R302, R303). -/
def shelfRestock (c : Cmd) (e : DigestEntry) : Restock :=
  newRestock c e.gen (param c.params 8 1) (param c.params 12 4) (param c.params 16 4) 1024 true [] (0, 0)

theorem shelfWrite_new {nv : NonVol} {c : Cmd} {d : Dev} {e : DigestEntry} (hkind : param c.params 8 1 ≤ 1)
    (hshelf : (theDoc d).bind (·.shelf) = some e) (hfree : (getPart d 16).restock = none)
    (hup : sourceUp d (param c.params 8 1) (param c.params 12 4) = true) (hsound : shelfWorn nv d = false) :
    shelfWrite nv c d = (setPart d 16 { getPart d 16 with restock := some (shelfRestock c e) }, .later) := by
  simp [shelfWrite, shelfRestock, Nat.not_lt.mpr hkind, hshelf, hfree, hup, hsound]

/-! ### The commands -/

/-- A command whose rule records a restock and leaves it to a later event: nothing but the partition's entry changes. -/
theorem restock_recorded {op : Nat} {c : Cmd} {s : State} {own : Dev → Dev × Verdict} {k : Nat} {r : Restock} (ha : Accepted op c s)
    (ho : own (entered c s) = (setPart (entered c s) k { getPart (entered c s) k with restock := some r }, .later)) :
    ∃ t, onDev (hostCmd op c own) s = .next t ∧ InProgress c t ∧ SameStore s t ∧ getPart t.dev k = { getPart s.dev k with restock := some r } := by
  obtain ⟨t, hexec, hjob, hstore, hdev⟩ := inProgress_of_later ha ho
  refine ⟨t, hexec, hjob, hstore, ?_⟩
  rw [hdev]
  exact getPart_setPart_same ..

/-- Settles O37: each command records its restock in the partition's entry and stays in progress. -/
theorem restockCommandsComplete : Obligations.RestockCommandsComplete := by
  intro c s p x gen n off pl
  refine ⟨fun ha hpart hkind hgen hfree hstill hup hmode hroom hfits hside => ?_,
    fun ha hpart hkind hgen hfree hstill hup hmode hlive hstands _ hhome hpin hidle hsound => ?_, fun e ha hkind hshelf hfree hup hsound => ?_⟩
  · have hdue : LoadDue c s.dev := ⟨hpart, hkind, hgen, hfree, hstill, hup⟩
    obtain ⟨t, hexec, hjob, hstore, hrec⟩ := restock_recorded ha (stockLoad_side (nv := s.nv) (m := s.mem) hdue.entered hmode hroom hfits hside)
    exact ⟨t, _, hexec, hjob, hstore, hrec, rfl, rfl, rfl, rfl, rfl, rfl⟩
  · have hdue : LoadDue c s.dev := ⟨hpart, hkind, hgen, hfree, hstill, hup⟩
    have hfill : FillDue s.nv c (entered c s) := ⟨hlive, hstands, hhome, hpin, hidle, hsound⟩
    obtain ⟨t, hexec, hjob, hstore, hrec⟩ := restock_recorded ha (stockLoad_inPlace (m := s.mem) hdue.entered hmode hfill)
    exact ⟨t, _, hexec, hjob, hstore, hrec, rfl, rfl, rfl, rfl⟩
  · obtain ⟨t, hexec, hjob, hstore, hrec⟩ := restock_recorded ha (shelfWrite_new (d := entered c s) hkind hshelf hfree hup hsound)
    exact ⟨t, _, hexec, hjob, hstore, hrec, rfl, rfl, rfl⟩

end Sys2Proof.Machine
end

section
/-! The crate's header (R274-R279, R288, R290): a restock begins, or is turned away. -/
namespace Sys2Proof.Machine

/-! ### The checks of steps 1-3 (R290) -/

/-- A restock waits for its crate's header. -/
structure HeaderDue (p : Nat) (r : Restock) (d : Dev) : Prop where
  restock : (getPart d p).restock = some r
  waits : r.verified = false

theorem HeaderDue.nextCycle {p : Nat} {r : Restock} {d : Dev} (h : HeaderDue p r d) : HeaderDue p r (tickCycle d) := ⟨h.restock, h.waits⟩

theorem headerVerified_badArg {p : Nat} {h : List Byte} {leaves : List Digest} {r : Restock} {d : Dev} (hdue : HeaderDue p r d)
    (hbad : headerOk d p r.gen h = false) (sigOk wrapOk : Bool) :
    headerVerified p h leaves sigOk wrapOk d = restockTurned p r .badArg d := by
  obtain ⟨hr, hv⟩ := hdue
  simp [headerVerified, hr, hv, hbad]

theorem headerVerified_auth {p : Nat} {h : List Byte} {leaves : List Digest} {r : Restock} {d : Dev} (hdue : HeaderDue p r d)
    (hform : headerOk d p r.gen h = true) (hgen : genAllowed d p (getPart d p) r = true) (wrapOk : Bool) :
    headerVerified p h leaves false wrapOk d = restockTurned p r .auth d := by
  obtain ⟨hr, hv⟩ := hdue
  simp [headerVerified, hr, hv, hform, hgen]

/-- What a header's signature covers is the plan's: a known key, the root known for the generation if there is one, and leaves under it. -/
structure HeaderTrue (p : Nat) (r : Restock) (h : List Byte) (leaves : List Digest) (d : Dev) : Prop where
  form : headerOk d p r.gen h = true
  gen : genAllowed d p (getPart d p) r = true
  key : (((theDoc d).map (·.pubKeys)).getD []).contains (digestAt h 64) = true
  root : ∀ q, knownRoot d p (getPart d p) r = some q → q = digestAt h 32
  count : leaves.length = (chunkDefs d p).length
  merkle : merkleRoot leaves = digestAt h 32

theorem HeaderTrue.nextCycle {p : Nat} {r : Restock} {h : List Byte} {leaves : List Digest} {d : Dev} (ht : HeaderTrue p r h leaves d) :
    HeaderTrue p r h leaves (tickCycle d) := ⟨ht.form, ht.gen, ht.key, ht.root, ht.count, ht.merkle⟩

theorem headerVerified_ok {p : Nat} {h : List Byte} {leaves : List Digest} {r : Restock} {d : Dev} (hdue : HeaderDue p r d)
    (htrue : HeaderTrue p r h leaves d) :
    headerVerified p h leaves true true d = finishJob r.ring .ok 0 (restockStart p r h leaves d) := by
  obtain ⟨hr, hv⟩ := hdue
  obtain ⟨hform, hgen, hkey, hroot, hcount, hmerkle⟩ := htrue
  rw [List.contains_iff_mem] at hkey
  cases hq : knownRoot d p (getPart d p) r with
  | none => simp [headerVerified, hr, hv, hform, hgen, hkey, hcount, hmerkle, hq]
  | some q => simp [headerVerified, hr, hv, hform, hgen, hkey, hcount, hmerkle, hq, hroot q hq]

/-! ### A restock begins (R288, R290) -/

/-- The partition's entry once a restock of a new side generation has begun. -/
def sideBegun (p : Nat) (r : Restock) (h : List Byte) (leaves : List Digest) (d : Dev) : Part :=
  { getPart d p with
    restock := some { r with verified := true, halted := false, root := digestAt h 32, leaves := leaves, sealed := decide (leAt h 10 1 = 1),
                             key := crateKey d r.srcKind r.src h },
    side := r.gen, sideState := 1, sideRoot := digestAt h 32, sideLeaves := leaves, sideDone := [],
    sideMap := mapOfPlace (chunkDefs d p) r.place, doneCount := 0, totalCount := (chunkDefs d p).length }

theorem restockStart_side {p : Nat} {r : Restock} (h : List Byte) (leaves : List Digest) (d : Dev) (hnew : r.halted = false) (hp : p < 16)
    (hplace : r.inPlace = false) : restockStart p r h leaves d = setPart d p (sideBegun p r h leaves d) := by
  have hne : p ≠ 16 := by omega
  simp [restockStart, sideBegun, hnew, hne, hplace]

theorem headerVerified_begins {p : Nat} {h : List Byte} {leaves : List Digest} {r : Restock} {s : State} (hdue : HeaderDue p r s.dev)
    (htrue : HeaderTrue p r h leaves s.dev) (hnew : r.halted = false) (hp : p < 16) (hplace : r.inPlace = false) :
    ∃ t, exec (.restockHeaderVerified p h leaves true true) s = .next t ∧ SameStore s t ∧ JobAnswered r.ring .ok 0 s t ∧
      getPart t.dev p = sideBegun p r h leaves (tickCycle s.dev) := by
  have hdev := headerVerified_ok hdue.nextCycle htrue.nextCycle
  rw [restockStart_side h leaves _ hnew hp hplace] at hdev
  refine ⟨_, rfl, ⟨rfl, rfl, rfl⟩, jobAnswered_of_finish (ringView_of_hostView (by simp)) hdev, ?_⟩
  exact (congrArg (getPart · p) hdev).trans ((getPart_finishJob ..).trans (getPart_setPart_same ..))

/-! ### A restock is turned away (R290) -/

/-- A check of steps 1-3 has failed: the restock is gone, and a signature that fails has had its event. -/
def turnedDev (p : Nat) (st : Status) (d : Dev) : Dev :=
  modPart p (fun x => { x with restock := none }) (if st = .auth then raise .st 2 p 0 d else d)

theorem restockTurned_new {r : Restock} (p : Nat) (st : Status) (d : Dev) (hnew : r.halted = false) :
    restockTurned p r st d = finishJob r.ring st 0 (turnedDev p st d) := by
  simp [restockTurned, turnedDev, hnew]

theorem getPart_turnedDev (p : Nat) (st : Status) (d : Dev) : getPart (turnedDev p st d) p = { getPart d p with restock := none } := by
  unfold turnedDev modPart
  split <;> simp

@[simp] theorem hostView_turnedDev (p : Nat) (st : Status) (d : Dev) : hostView (turnedDev p st d) = hostView d := by simp [turnedDev]

theorem header_turned {p : Nat} {h : List Byte} {leaves : List Digest} {r : Restock} {s : State} {sigOk : Bool} {st : Status}
    (hdev : headerVerified p h leaves sigOk true (tickCycle s.dev) = restockTurned p r st (tickCycle s.dev)) (hnew : r.halted = false) :
    ∃ t, exec (.restockHeaderVerified p h leaves sigOk true) s = .next t ∧ SameStore s t ∧ JobAnswered r.ring st 0 s t ∧
      t.dev = finishJob r.ring st 0 (turnedDev p st (tickCycle s.dev)) ∧ getPart t.dev p = { getPart s.dev p with restock := none } := by
  rw [restockTurned_new p st _ hnew] at hdev
  refine ⟨_, rfl, ⟨rfl, rfl, rfl⟩, jobAnswered_of_finish (ringView_of_hostView (by simp)) hdev, hdev, ?_⟩
  exact (congrArg (getPart · p) hdev).trans ((getPart_finishJob ..).trans (getPart_turnedDev ..))

/-- Settles O38: a restock that has passed the three checks, and one that fails at the first or at the second. -/
theorem restockHeaderCompletes : Obligations.RestockHeaderCompletes := by
  intro p h leaves r s hr hv hnew hp hplace
  have hdue : HeaderDue p r s.dev := ⟨hr, hv⟩
  refine ⟨fun hform hgen hkey hroot hcount hmerkle => ?_, fun hbad => ?_, fun hform hgen => ?_⟩
  · obtain ⟨t, hexec, hstore, hans, hpart⟩ := headerVerified_begins hdue ⟨hform, hgen, hkey, hroot, hcount, hmerkle⟩ hnew hp hplace
    refine ⟨t, hexec, hstore, hans, ?_⟩
    rw [hpart]
    exact ⟨rfl, rfl, rfl, rfl, rfl⟩
  · obtain ⟨t, hexec, hstore, hans, -, hpart⟩ := header_turned (headerVerified_badArg (leaves := leaves) hdue.nextCycle hbad true true) hnew
    exact ⟨t, hexec, hstore, hans, hpart⟩
  · obtain ⟨t, hexec, hstore, hans, hdev, hpart⟩ := header_turned (headerVerified_auth (leaves := leaves) hdue.nextCycle hform hgen true) hnew
    refine ⟨t, hexec, hstore, hans, eventSeen_of_raise (d := tickCycle s.dev) (i := p) (a := 0) (by decide) rfl ?_, hpart⟩
    rw [hdev, (finishJob_keeps ..).2.events .st (by decide)]
    rfl

end Sys2Proof.Machine
end

section
/-! Flips and releases (R296-R298). -/
namespace Sys2Proof.Machine

/-- A command that completes at once and changes one partition's entry alone. -/
theorem part_changed {op : Nat} {c : Cmd} {s : State} {own : Dev → Dev × Verdict} {k : Nat} {y : Part} (ha : Accepted op c s)
    (ho : own (entered c s) = ok0 (setPart (entered c s) k y)) :
    ∃ t, onDev (hostCmd op c own) s = .next t ∧ Answered c .ok 0 s t ∧ SameStore s t ∧ getPart t.dev k = y := by
  obtain ⟨t, hexec, hans, hstore, hdev⟩ := answered_of_ringView ha ho rfl
  refine ⟨t, hexec, hans, hstore, ?_⟩
  rw [hdev]
  exact getPart_setPart_same ..

/-! ### STOCK_FLIP (R296) -/

/-- A STOCK_FLIP in form, of a generation that is complete if it is to be switched to, with no other armed, at a step ahead or at none. -/
structure FlipDue (c : Cmd) (e : PartEntry) (d : Dev) : Prop where
  part : partOf d (param c.params 8 1) = some e
  action : param c.params 9 1 ≤ 1
  complete : param c.params 9 1 = 0 → genComplete d (param c.params 8 1) (param c.params 12 4) = true
  free : (getPart d (param c.params 8 1)).armed = none
  ahead : param c.params 16 8 = 0 ∨ (getDom d e.domain).step < param c.params 16 8

theorem FlipDue.entered {c : Cmd} {e : PartEntry} {s : State} (h : FlipDue c e s.dev) : FlipDue c e (entered c s) :=
  ⟨h.part, h.action, h.complete, h.free, h.ahead⟩

/-- The partition's entry with the flip that a command arms. -/
def armedPart (c : Cmd) (d : Dev) : Part :=
  { getPart d (param c.params 8 1) with armed := some (param c.params 12 4, param c.params 9 1, param c.params 16 8) }

def flipArmed (c : Cmd) (d : Dev) : Dev := setPart d (param c.params 8 1) (armedPart c d)

@[simp] theorem getPart_flipArmed (c : Cmd) (d : Dev) : getPart (flipArmed c d) (param c.params 8 1) = armedPart c d := getPart_setPart_same ..

theorem stockFlip_of_due {c : Cmd} {e : PartEntry} {d : Dev} (h : FlipDue c e d) : stockFlip c d =
    ok0 (if decide (d.state = .ready) && decide (param c.params 16 8 = 0) then applyFlip (param c.params 8 1) (flipArmed c d) else flipArmed c d) := by
  obtain ⟨hpart, hact, hcomplete, hfree, hahead⟩ := h
  have hform : ¬ (param c.params 9 1 = 0 ∧ ¬ genComplete d (param c.params 8 1) (param c.params 12 4) = true) := fun hx => hx.2 (hcomplete hx.1)
  have hstep : ¬ (param c.params 16 8 ≠ 0 ∧ param c.params 16 8 ≤ (getDom d e.domain).step) := by omega
  unfold stockFlip
  simp only [hpart]
  rw [if_neg (by omega), if_neg hform, if_neg (by simp [hfree]), if_neg hstep]
  rfl

/-- Whether a generation is complete does not hang on the flip that is armed. -/
theorem genComplete_flipArmed (c : Cmd) (d : Dev) (gen : Nat) :
    genComplete (flipArmed c d) (param c.params 8 1) gen = genComplete d (param c.params 8 1) gen := by
  have hdefs : chunkDefs (flipArmed c d) (param c.params 8 1) = chunkDefs d (param c.params 8 1) := rfl
  simp only [genComplete, getPart_flipArmed, hdefs]
  rfl

/-- A stop that takes effect: admissions stop, and the flip is armed no longer (R296). -/
theorem applyFlip_stop {c : Cmd} (d : Dev) (hact : param c.params 9 1 = 1) : applyFlip (param c.params 8 1) (flipArmed c d) =
    raise .st 4 (param c.params 8 1) 0 (setPart (flipArmed c d) (param c.params 8 1) { armedPart c d with armed := none, stopped := true }) := by
  unfold applyFlip
  rw [getPart_flipArmed]
  exact if_pos hact

/-- A switch that takes effect: the side generation becomes the live one (R296). -/
theorem applyFlip_switch {c : Cmd} {d : Dev} (hact : param c.params 9 1 = 0) (hside : (getPart d (param c.params 8 1)).side = param c.params 12 4)
    (hcomplete : genComplete d (param c.params 8 1) (param c.params 12 4) = true) : applyFlip (param c.params 8 1) (flipArmed c d) =
    raise .st 4 (param c.params 8 1) 0 (setPart (flipArmed c d) (param c.params 8 1) (swapGens (armedPart c d))) := by
  have hnow : (decide ((armedPart c d).side = param c.params 12 4) &&
      genComplete (flipArmed c d) (param c.params 8 1) (param c.params 12 4)) = true := by
    rw [genComplete_flipArmed, hcomplete, Bool.and_true]
    exact decide_eq_true hside
  unfold applyFlip
  rw [getPart_flipArmed]
  exact (if_neg (by omega)).trans (if_pos hnow)

/-- Live and side generation change places, and the former live one drains. -/
theorem swapGens_present {x : Part} (h : x.gone = false) :
    (swapGens x).live = x.side ∧ (swapGens x).liveMap = x.sideMap ∧ (swapGens x).side = x.live ∧ (swapGens x).sideState = 3 := by
  simp [swapGens, h]

/-- A flip that has taken effect at once, with event flip_done (R296). -/
theorem flip_now {c : Cmd} {e : PartEntry} {s : State} {y : Part} (ha : Accepted 0x31 c s) (h : FlipDue c e s.dev) (hready : s.dev.state = .ready)
    (hnow : param c.params 16 8 = 0)
    (hflip : applyFlip (param c.params 8 1) (flipArmed c (entered c s)) =
      raise .st 4 (param c.params 8 1) 0 (setPart (flipArmed c (entered c s)) (param c.params 8 1) y)) :
    ∃ t, exec (.stockFlip c) s = .next t ∧ Answered c .ok 0 s t ∧ SameStore s t ∧ EventSeen .st 4 s t ∧ getPart t.dev (param c.params 8 1) = y := by
  have hstate : (decide ((entered c s).state = .ready) && decide (param c.params 16 8 = 0)) = true := by
    rw [show (entered c s).state = .ready from hready, hnow]; decide
  have hown := stockFlip_of_due h.entered
  rw [if_pos hstate, hflip] at hown
  obtain ⟨t, hexec, hans, hstore, hdev⟩ := answered_of_ringView ha hown (ringView_of_hostView (by simp [flipArmed]))
  refine ⟨t, hexec, hans, hstore, eventSeen_of_raise (i := param c.params 8 1) (a := 0) (by decide) ?_ (by rw [hdev]; rfl), ?_⟩
  · rfl
  · rw [hdev]
    exact (getPart_raise ..).trans (getPart_setPart_same ..)

/-- A flip that is armed for a later bell (R296). -/
theorem flip_later {c : Cmd} {e : PartEntry} {s : State} (ha : Accepted 0x31 c s) (h : FlipDue c e s.dev)
    (hlater : ¬ (s.dev.state = .ready ∧ param c.params 16 8 = 0)) :
    ∃ t, exec (.stockFlip c) s = .next t ∧ Answered c .ok 0 s t ∧ SameStore s t ∧ getPart t.dev (param c.params 8 1) = armedPart c s.dev := by
  have hstate : (decide ((entered c s).state = .ready) && decide (param c.params 16 8 = 0)) ≠ true := by
    simpa using show (entered c s).state = .ready → ¬ param c.params 16 8 = 0 from not_and.mp hlater
  have hown := stockFlip_of_due h.entered
  rw [if_neg hstate] at hown
  exact part_changed ha hown

/-! ### STOCK_FLIP_CANCEL and STOCK_RELEASE (R297, R298) -/

theorem stockFlipCancel_of_armed {c : Cmd} {d : Dev} (hpart : isStockPart d (param c.params 8 1) = true)
    (harmed : (getPart d (param c.params 8 1)).armed ≠ none) :
    stockFlipCancel c d = ok0 (setPart d (param c.params 8 1) { getPart d (param c.params 8 1) with armed := none }) := by
  simp [stockFlipCancel, hpart, harmed, modPart]

/-- A STOCK_RELEASE of a side generation that is whole, that nothing pins and no flip waits for (R298). -/
structure ReleaseDue (c : Cmd) (e : PartEntry) (d : Dev) : Prop where
  part : partOf d (param c.params 8 1) = some e
  gen : param c.params 12 4 ≠ 0
  side : (getPart d (param c.params 8 1)).side = param c.params 12 4
  whole : 2 ≤ (getPart d (param c.params 8 1)).sideState
  unpinned : pinned d (param c.params 8 1) (param c.params 12 4) = 0
  free : (getPart d (param c.params 8 1)).armed = none

theorem ReleaseDue.entered {c : Cmd} {e : PartEntry} {s : State} (h : ReleaseDue c e s.dev) : ReleaseDue c e (entered c s) :=
  ⟨h.part, h.gen, h.side, h.whole, h.unpinned, h.free⟩

/-- The partition's entry after a release. -/
def released (e : PartEntry) (d : Dev) (x : Part) : Part :=
  if decide (d.state = .ready) || (decide (d.state = .serving) && ! (getDom d e.domain).running) then sideFree x else { x with release := true }

theorem released_now {e : PartEntry} {d : Dev} (x : Part) (h : d.state = .ready ∨ d.state = .serving ∧ (getDom d e.domain).running = false) :
    released e d x = sideFree x := if_pos (by simpa using h)

theorem released_later {e : PartEntry} {d : Dev} (x : Part) (h : d.state = .draining ∨ d.state = .serving ∧ (getDom d e.domain).running = true) :
    released e d x = { x with release := true } := by
  refine if_neg ?_
  obtain hs | ⟨hs, hr⟩ := h
  · simp [hs]
  · simp [hs, hr]

theorem released_live (e : PartEntry) (d : Dev) (x : Part) : (released e d x).live = x.live := by
  unfold released
  split <;> rfl

theorem stockRelease_of_due {c : Cmd} {e : PartEntry} {d : Dev} (h : ReleaseDue c e d) : stockRelease c d =
    ok0 (setPart d (param c.params 8 1) (released e d (getPart d (param c.params 8 1)))) := by
  obtain ⟨hpart, hgen, hside, hwhole, hpin, hfree⟩ := h
  have hone : (getPart d (param c.params 8 1)).sideState ≠ 1 := by omega
  have hsome : (getPart d (param c.params 8 1)).sideState ≠ 0 := by omega
  simp [stockRelease, released, hpart, hgen, hside, hpin, hfree, hone, hsome]

theorem stockRelease_completes {c : Cmd} {e : PartEntry} {s : State} (ha : Accepted 0x33 c s) (h : ReleaseDue c e s.dev) :
    ∃ t, exec (.stockRelease c) s = .next t ∧ Answered c .ok 0 s t ∧ SameStore s t ∧
      getPart t.dev (param c.params 8 1) = released e s.dev (getPart s.dev (param c.params 8 1)) :=
  part_changed ha (stockRelease_of_due h.entered)

/-- Settles O39, command by command: what a flip that takes effect at once leaves is read off the entry in which it was armed. -/
theorem flipAndReleaseCommandsComplete : Obligations.FlipAndReleaseCommandsComplete := by
  intro c e s p x gen act at_
  refine ⟨fun ha hpart hact hcomplete hfree hahead hlater => ?_, fun ha hpart hact hfree hready hnow => ?_,
    fun ha hpart hact hfree hready hnow hside hcomplete hgone => ?_, fun ha hpart harmed => ?_, fun ha hpart hgen hside hwhole hpin hfree => ?_⟩
  · exact flip_later ha ⟨hpart, hact, hcomplete, hfree, hahead⟩ hlater
  · have hdue : FlipDue c e s.dev := ⟨hpart, by omega, fun h0 => absurd (h0.symm.trans hact) (by decide), hfree, .inl hnow⟩
    obtain ⟨t, hexec, hans, hstore, hseen, hentry⟩ := flip_now ha hdue hready hnow (applyFlip_stop _ hact)
    refine ⟨t, hexec, hans, hstore, hseen, hentry.trans ?_⟩
    rw [← hfree]
    rfl
  · have hdue : FlipDue c e s.dev := ⟨hpart, by omega, fun _ => hcomplete, hfree, .inl hnow⟩
    obtain ⟨t, hexec, hans, hstore, hseen, hentry⟩ := flip_now ha hdue hready hnow (applyFlip_switch (d := entered c s) hact hside hcomplete)
    exact ⟨t, hexec, hans, hstore, hseen, hside ▸ hentry ▸ swapGens_present hgone⟩
  · exact part_changed ha (stockFlipCancel_of_armed (d := entered c s) hpart harmed)
  · obtain ⟨t, hexec, hans, hstore, hentry⟩ := stockRelease_completes ha ⟨hpart, hgen, hside, hwhole, hpin, hfree⟩
    refine ⟨t, hexec, hans, hstore, fun hs => ?_, fun hs hr => ?_, fun hs => ?_, ?_⟩
    · rw [hentry, released_now _ (.inl hs)]; exact ⟨rfl, rfl, rfl⟩
    · rw [hentry, released_now _ (.inr ⟨hs, hr⟩)]; exact ⟨rfl, rfl, rfl⟩
    · rw [hentry, released_later _ hs]
    · rw [hentry, released_live]

end Sys2Proof.Machine
end

section
/-! STOCK_ABORT, STOCKTAKE and STOCK_REFRESH (R291-R293, R305). -/
namespace Sys2Proof.Machine

/-! ### STOCK_ABORT (R291) -/

/-- Planes that are programmed no further: the partitions' entries stand, and what the host sees. -/
theorem dropProgs_keeps (sel : Prog → Bool) (d : Dev) :
    (dropProgs sel d).stock.parts = d.stock.parts ∧ hostView (dropProgs sel d) = hostView d := by
  refine List.foldlRecOn (motive := fun d' : Dev => d'.stock.parts = d.stock.parts ∧ hostView d' = hostView d) _ _ ⟨rfl, rfl⟩ fun d' hd q _ => ?_
  split
  · exact hd
  · exact hd

theorem getPart_dropProgs (sel : Prog → Bool) (d : Dev) (k : Nat) : getPart (dropProgs sel d) k = getPart d k := by
  simp [getPart, (dropProgs_keeps sel d).1]

/-- A restock has begun on its partition's side generation. -/
structure SideBegun (p : Nat) (r : Restock) (d : Dev) : Prop where
  restock : (getPart d p).restock = some r
  verified : r.verified = true
  side : (getPart d p).side = r.gen
  begun : (getPart d p).sideState = 1

/-- The partition's entry without its restock and its side generation. -/
def sideDropped (x : Part) : Part :=
  { x with restock := none, side := 0, sideState := 0, sideMap := [], sideDone := [], sideLeaves := [], sideRoot := 0 }

theorem endRestock_begun {p : Nat} {r : Restock} {d : Dev} (h : SideBegun p r d) :
    endRestock p d = setPart (dropProgs (isRestockProg p) d) p (sideDropped (getPart d p)) := by
  obtain ⟨hr, hv, hside, hbegun⟩ := h
  simp [endRestock, modPart, getPart_dropProgs, sideDropped, hr, hv, hside, hbegun]

theorem endRestock_none {p : Nat} {d : Dev} (h : (getPart d p).restock = none) : endRestock p d = d := by simp [endRestock, h]

theorem stockAbort_of_part {c : Cmd} {d : Dev} (h : isStockPart d (param c.params 8 1) = true) :
    stockAbort c d = ok0 (endRestock (param c.params 8 1) d) := by
  simp [stockAbort, h]

theorem stockAbort_begun {c : Cmd} {r : Restock} {s : State} (ha : Accepted 0x34 c s) (hpart : isStockPart s.dev (param c.params 8 1) = true)
    (h : SideBegun (param c.params 8 1) r s.dev) :
    ∃ t, exec (.stockAbort c) s = .next t ∧ Answered c .ok 0 s t ∧ SameStore s t ∧
      getPart t.dev (param c.params 8 1) = sideDropped (getPart s.dev (param c.params 8 1)) := by
  have hbegun : SideBegun (param c.params 8 1) r (entered c s) := ⟨h.restock, h.verified, h.side, h.begun⟩
  have hown := (stockAbort_of_part (d := entered c s) hpart).trans (congrArg ok0 (endRestock_begun hbegun))
  obtain ⟨t, hexec, hans, hstore, hdev⟩ := answered_of_ringView ha hown (ringView_of_hostView (dropProgs_keeps _ _).2)
  refine ⟨t, hexec, hans, hstore, ?_⟩
  rw [hdev]
  exact getPart_setPart_same ..

/-- Without a restock there is nothing to end. -/
theorem stockAbort_idle {c : Cmd} {s : State} (ha : Accepted 0x34 c s) (hpart : isStockPart s.dev (param c.params 8 1) = true)
    (h : (getPart s.dev (param c.params 8 1)).restock = none) :
    ∃ t, exec (.stockAbort c) s = .next t ∧ Answered c .ok 0 s t ∧ HostOnly s t :=
  answered_of_fail ha ((stockAbort_of_part (d := entered c s) hpart).trans (congrArg ok0 (endRestock_none (d := entered c s) h)))

/-! ### STOCKTAKE (R293) -/

/-- The partitions that a STOCKTAKE names. -/
def takenParts (c : Cmd) (d : Dev) : List Nat := (List.range 16).filter fun p => bitOf (param c.params 8 2) p && isStockPart d p

theorem mem_takenParts {c : Cmd} {d : Dev} {q : Nat} (hq : q < 16) (hbit : bitOf (param c.params 8 2) q = true) (hpart : isStockPart d q = true) :
    q ∈ takenParts c d := by
  simp [takenParts, hq, hbit, hpart]

/-- A stocktake reads every plane of a live generation of its partitions. -/
theorem mem_startTake {ps : List Nat} {d : Dev} {q : Nat} (hq : q ∈ ps) {e : (Nat × Nat) × (Nat × Nat)} (he : e ∈ (getPart d q).liveMap) :
    (physArr d e.2.1, e.2.2) ∈ (startTake ps d).stock.take := by
  rw [startTake, List.mem_eraseDups, List.mem_flatMap]
  exact ⟨q, hq, List.mem_map_of_mem (List.mem_append_left _ he)⟩

theorem takeEnd_of_pending {d : Dev} {x : Nat × Nat} (h : x ∈ d.stock.take) : takeEnd d = d := by
  have hne : d.stock.take ≠ [] := List.ne_nil_of_mem h
  simp [takeEnd, hne]

theorem stocktake_starts {c : Cmd} {s : State} (ha : Accepted 0x35 c s) (hfree : s.dev.stock.takeRunning = false)
    {q : Nat} (hq : q ∈ takenParts c s.dev) (hlive : (getPart s.dev q).liveMap ≠ []) :
    ∃ t, exec (.stocktake c) s = .next t ∧ Answered c .ok 0 s t ∧ SameStore s t ∧
      t.dev.stock = (startTake (takenParts c s.dev) s.dev).stock := by
  obtain ⟨e, he⟩ := List.exists_mem_of_ne_nil _ hlive
  have hown : stocktakeCmd c (entered c s) = ok0 (startTake (takenParts c s.dev) (entered c s)) := by
    have hpending : takeEnd (startTake (takenParts c s.dev) (entered c s)) = startTake (takenParts c s.dev) (entered c s) :=
      takeEnd_of_pending (mem_startTake (d := entered c s) hq he)
    exact (if_neg (by rw [show (entered c s).stock.takeRunning = false from hfree]; decide)).trans (congrArg ok0 hpending)
  obtain ⟨t, hexec, hans, hstore, hdev⟩ := answered_of_ringView ha hown rfl
  refine ⟨t, hexec, hans, hstore, ?_⟩
  rw [hdev]
  rfl

theorem stocktake_busy {c : Cmd} {s : State} (ha : Accepted 0x35 c s) (hruns : s.dev.stock.takeRunning = true) :
    ∃ t, exec (.stocktake c) s = .next t ∧ Answered c .busy 0 s t ∧ HostOnly s t :=
  answered_of_fail ha (own := stocktakeCmd c) (if_pos hruns)

/-! ### STOCK_REFRESH (R305) -/

/-- The chunks of a partition with a live plane on the arrays that a STOCK_REFRESH names. -/
def refreshChunks (c : Cmd) (d : Dev) : List ChunkDef :=
  (chunkDefs d (param c.params 8 1)).filter fun k => (getPart d (param c.params 8 1)).liveMap.any fun e =>
    decide (e.1.1 = k.chunk) && decide (param c.params 12 2 ≤ e.2.1) && decide (e.2.1 ≤ param c.params 14 2)

/-- The placement that a STOCK_REFRESH names in the staging area. -/
def refreshPlace (m : List Host.Cell) (c : Cmd) (d : Dev) : List (Nat × Nat × Nat) :=
  placeEntries (refreshChunks c d).length (staged m (param c.params 16 4) (8 * (refreshChunks c d).length))

/-- A STOCK_REFRESH in form, of a partition without a restock or another refresh, with room for the planes (R305). -/
structure RefreshDue (nv : NonVol) (m : List Host.Cell) (c : Cmd) (d : Dev) : Prop where
  part : isStockPart d (param c.params 8 1) = true
  range : param c.params 12 2 ≤ param c.params 14 2
  free : (getPart d (param c.params 8 1)).restock = none
  still : (getPart d (param c.params 8 1)).refresh = none
  room : param c.params 16 4 + 8 * (refreshChunks c d).length ≤ 0x10000000
  fits : placeFits d nv (param c.params 8 1) (refreshChunks c d) (refreshPlace m c d) = true

/-- The moves of a refresh: each live plane of its chunks, and where the placement puts it. -/
def refreshMoves (m : List Host.Cell) (c : Cmd) (d : Dev) : List ((Nat × Nat) × (Nat × Nat)) :=
  (mapOfPlace (refreshChunks c d) (refreshPlace m c d)).filterMap fun t =>
    ((getPart d (param c.params 8 1)).liveMap.find? fun e => decide (e.1 = t.1)).map fun e => (e.2, t.2)

/-- A refresh with all of its moves still to be made. -/
def newRefresh (m : List Host.Cell) (c : Cmd) (d : Dev) : Refresh :=
  { first := param c.params 12 2, last := param c.params 14 2, moves := refreshMoves m c d, left := (refreshMoves m c d).map (·.1),
    complete := (refreshMoves m c d).isEmpty }

theorem stockRefresh_of_due {nv : NonVol} {m : List Host.Cell} {c : Cmd} {d : Dev} (h : RefreshDue nv m c d) : stockRefresh nv m c d =
    ok0 (setPart d (param c.params 8 1) { getPart d (param c.params 8 1) with refresh := some (newRefresh m c d) }) := by
  obtain ⟨hpart, hrange, hfree, hstill, hroom, hfits⟩ := h
  have hform : ¬ (¬ isStockPart d (param c.params 8 1) = true ∨ param c.params 14 2 < param c.params 12 2) :=
    not_or.mpr ⟨not_not_intro hpart, Nat.not_lt.mpr hrange⟩
  have hplace : ¬ (0x10000000 < param c.params 16 4 + 8 * (refreshChunks c d).length ∨
      ¬ placeFits d nv (param c.params 8 1) (refreshChunks c d) (refreshPlace m c d) = true) :=
    not_or.mpr ⟨Nat.not_lt.mpr hroom, not_not_intro hfits⟩
  exact (if_neg hform).trans ((if_neg (by simp [hfree, hstill])).trans (if_neg hplace))

theorem stockRefresh_completes {c : Cmd} {s : State} (ha : Accepted 0x36 c s) (h : RefreshDue s.nv s.mem c s.dev) :
    ∃ t, exec (.stockRefresh c) s = .next t ∧ Answered c .ok 0 s t ∧ SameStore s t ∧ getPart t.dev (param c.params 8 1) =
      { getPart s.dev (param c.params 8 1) with refresh := some (newRefresh s.mem c s.dev) } :=
  part_changed ha (stockRefresh_of_due (d := entered c s) ⟨h.part, h.range, h.free, h.still, h.room, h.fits⟩)

/-- Settles O40, command by command: a stocktake goes on, as one of its partitions has a live plane to be read. -/
theorem abortStocktakeAndRefreshComplete : Obligations.AbortStocktakeAndRefreshComplete := by
  intro c r s p x
  refine ⟨fun ha hpart hr hv hside hbegun => ?_, stockAbort_idle, fun ha hfree hex => ?_, stocktake_busy,
    fun ha hpart hrange hfree hstill hroom hfits => ?_⟩
  · obtain ⟨t, hexec, hans, hstore, hentry⟩ := stockAbort_begun ha hpart ⟨hr, hv, hside, hbegun⟩
    refine ⟨t, hexec, hans, hstore, ?_⟩
    rw [hentry]
    exact ⟨rfl, rfl, rfl, rfl, rfl⟩
  · obtain ⟨q, hq, hbit, hpart, hlive⟩ := hex
    obtain ⟨t, hexec, hans, hstore, hstock⟩ := stocktake_starts ha hfree (mem_takenParts hq hbit hpart) hlive
    refine ⟨t, hexec, hans, hstore, by rw [hstock]; rfl, fun k hk hkbit hkpart e he => ?_⟩
    rw [hstock]
    exact mem_startTake (mem_takenParts hk hkbit hkpart) he
  · obtain ⟨t, hexec, hans, hstore, hentry⟩ := stockRefresh_completes ha ⟨hpart, hrange, hfree, hstill, hroom, hfits⟩
    exact ⟨t, _, hexec, hans, hstore, hentry, rfl, rfl⟩

end Sys2Proof.Machine
end
